-- ==== Sys2Proof/Word.lean ====
section
/-!
DEFINITION. The machine's word and byte types and the widths of encoding fields (R24, R25, R45).
-/
namespace Sys2Proof

/-- A 64-bit word: a scalar register, an address, a system register (R45, R66). -/
abbrev Word := BitVec 64

/-- One byte of a memory. -/
abbrev Byte := BitVec 8

/-- A 32-bit lane: an FP32 or i32 element, a lane mask, an accumulator element (R132). -/
abbrev Lane := BitVec 32

/-- The 1,024 bits of a vector register (R132). -/
abbrev VReg := BitVec 1024

/-- A six-bit register field D, A, B or C of an instruction word (R28). -/
abbrev Fld := BitVec 6

/-- A core's name: (die × 64 + logical cluster) × 10 + physical core (R68, R208). -/
abbrev CoreId := Nat

end Sys2Proof
end

