-- ==== Sys2Proof/Config.lean ====
section
/-!
DEFINITION. What an implementation fixes, and the free values: constants with no body, so that nothing can be proved of the
values the spec leaves open (logs 6 and 15).
-/
namespace Sys2Proof.Config

/-- A free bit for each count of free values: which of two outcomes an open choice takes (R74, R218, R219; log 6). -/
opaque freeBit : Nat → Bool
/-- A free bit for a read of bytes in memory, by the count of free values, the address, and a writer with the number of its write: whether
the read returns what stood there before the write, which its reader has not acquired (R298 note 2; log 5). -/
opaque staleBit : Nat → Nat → Nat → Nat → Bool
/-- A free byte: scratchpad outside the footprint after a resumption (R379; log 6). -/
opaque freeByte : Nat → Nat → BitVec 8
/-- A free vector register: the window of a helper before it is written (R66; log 6). -/
opaque freeVec : Nat → Nat → BitVec 1024
/-- A fresh 32-byte nonce of DBGNONCE (R357; log 15). -/
opaque nonce : Nat → List (BitVec 8)
/-- Whether a firmware image's signature verifies under the key whose hash is ROOTH (R355; log 15). -/
opaque imageVerifies : BitVec 256 → List (BitVec 8) → List (BitVec 8) → Bool
/-- Whether a token's signature verifies under the key whose hash is DEBUGH, over its device binding, nonce and purpose code (R361; log 15). -/
opaque tokenVerifies : BitVec 256 → List (BitVec 8) → List (BitVec 8) → Nat → List (BitVec 8) → Bool
/-- The device-unique secret that the die generates at its first boot in MANUFACTURE (R354; log 15). -/
opaque deviceSecret : BitVec 256
/-- The SHA-256 of the device identity public key, which derives from UDS (R354, R361; log 15). -/
opaque deviceHash : BitVec 256 → List (BitVec 8)
/-- The boot ROM, of which block 1 is the measurement (R356; log 15). -/
opaque bootRom : List (BitVec 8)
/-- The bytes of an SCC firmware image of a drive that the model does not hold, by its place and its security version: what block 2 measures
while it runs (R348, R356; log 15). -/
opaque driveImage : Nat → Nat → List (BitVec 8)
/-- The service-core firmware: what a service core runs from its start, and block 3 measures (R208, R348, R356; log 70). -/
opaque serviceImage : List (BitVec 8)
/-- The reply of the SPDM responder to a request code in a connection state, with the measurement blocks (R356; log 15). -/
opaque spdmReply : Nat → Nat → List (Nat × List (BitVec 8)) → List (BitVec 8) → List (BitVec 8)
/-- Whether the responder accepts an SPDM request of a code in a connection state (R356; log 15). -/
opaque spdmAccepts : Nat → Nat → List (BitVec 8) → Bool
/-- A sector's stored value, by the key it was encrypted under, its number and its plaintext (R287; log 67). -/
opaque cipher : Nat → Nat → Nat → Nat
/-- KEEP − 1 of a block of a plane-truncation page, which the rule lets the sidecar hold and nothing sets (R223; log 41). -/
opaque keepPlanes : Nat → BitVec 3
/-- The HBM page frame given to a newly allocated page is system software's choice; the rope pool's virtual page `k` of a
partition is the model's (log 17). -/
def poolPage (part k : Nat) : Nat := 2 ^ 55 + part * 2 ^ 50 + k * 65536

end Sys2Proof.Config
end

