-- ==== Sys2Proof/Syntax.lean ====
section
/-!
DEFINITION. The steps of the machine: one constructor of `Instr` for each row of the opcode table. The first 225 are
instructions (R41, R363) and the two fetch-control words (R39); the others are the events of the table, the acts of the
engines, the cluster, the die, the SCC, the host and the fabric, which carry what the outside decides about them.
-/
namespace Sys2Proof

/-- The optional elements of a vector or matrix instruction, MOD of R29 and R30, each field as its code. -/
structure VMod where
  ty   : BitVec 3
  rnd  : BitVec 3
  sat  : BitVec 1
  hold : BitVec 3
  mask : BitVec 3
  z    : BitVec 1
  deriving DecidableEq, Repr

/-- SIZE, SGN and ORD of F-MEM (R32). -/
structure MemForm where
  size : BitVec 2
  sgn  : BitVec 1
  ord  : BitVec 2
  deriving DecidableEq, Repr

/-- The engine descriptor of F-E128 (R35), the reserved bits apart. -/
structure EDesc where
  base : BitVec 17
  mc   : BitVec 1
  plb  : BitVec 3
  pla  : BitVec 3
  lat  : BitVec 2
  acc  : BitVec 2
  dirb : BitVec 1
  dira : BitVec 1
  tk   : BitVec 10
  tn   : BitVec 6
  tm   : BitVec 5
  he   : BitVec 1
  ge   : BitVec 1
  hnd  : BitVec 4
  gs   : BitVec 1
  gsl  : BitVec 4
  deriving DecidableEq, Repr

/-- The three engine queues of a core (R121). -/
inductive EngineQ where
  | matrix | copy | rope
  deriving DecidableEq, Repr

/-- What a peer module answers to the remote part of a copy (R367, R369): nothing remote is concerned, the bytes it
delivered, or the status its refusal ends the copy with. -/
inductive RemoteAnswer where
  | local
  | data (bytes : List (BitVec 8))
  | status (code : BitVec 16)
  deriving DecidableEq, Repr

/-- What the other participants of a collective bring to this one (R373, R375): each participant's contribution in
rank order with its poisoned elements, or the status that ends the collective here, with the generation a MAPSTALE refusal carries. -/
inductive CollAnswer where
  | contributions (given : List (List (BitVec 8) × List Nat))
  | status (code : BitVec 16) (gen : BitVec 16)
  deriving DecidableEq, Repr

/-- The engines that request translations (R291, R293): a cluster's copy engine, a rope unit, the host's aperture; of a die's own engines,
what reads a node's images for its dispatch (R264), what copies its inputs and outputs for a taste (R300, R302), and every other. -/
inductive XEngine where
  | copy | rope | die | pass | taste | host
  deriving DecidableEq, Repr

/-- A refill-or-fault request (R293): the virtual page's address, partition, access, requester and requesting engine. -/
structure XReq where
  core : Nat
  va   : Nat
  part : Nat
  write : Bool
  eng  : XEngine := .copy
  deriving DecidableEq, Repr

/-- The service core's answer (R293). -/
inductive XAnswer where
  | install (w0 w1 : BitVec 64)
  | allocate (w0 w1 : BitVec 64)
  | fault
  | quota
  | unreachable
  deriving DecidableEq, Repr

/-- What the ECC finds in a sector (R288, R290). -/
inductive EccResult where
  | clean | corrected | uncorrectable
  deriving DecidableEq, Repr

/-- An incoming Ronxon access to a page this module has exported (R367), a reduction's operands among them (R366, R369), or a transaction
that names a logical core (R365), or the part of a residency report that a launch's target writes at a virtual address of its sender (R372). -/
inductive RemoteAcc where
  | read (n : Nat)
  | write (bytes : List (BitVec 8))
  | atomicAdd (v : BitVec 64)
  | reduce (op sf df : Nat) (fmode : BitVec 64) (bytes : List (BitVec 8))
  | toCore (die cluster core : Nat)
  | report (bytes : List (BitVec 8))
  deriving DecidableEq, Repr

/-- A transaction of a peer: the map generation it carries (R365), its act, and the numbers of this module's releases that its context has
acquired, by a collective's completion or the hand-out of a fabric launch (R377, R378). -/
structure RemoteReq where
  gen : BitVec 16
  acc : RemoteAcc
  seen : List Nat := []
  deriving DecidableEq, Repr

/-- A copy of a peer into the launch window (R370, R371): the map generation it carries, and its bytes. -/
structure FabRecord where
  gen : BitVec 16
  bytes : List (BitVec 8)
  deriving DecidableEq, Repr

/-- What the outside decides about a cold boot (R348, R349, R355): whether an SCC firmware image verified and its
security version, the items that fail to train (stacks 0 to 15; pairs of compute dies; links 2d and 2d + 1 of die d to the I/O dies; SerDes groups 0
and 1), the
temperatures of the 62 items in kelvin, and the items whose training record fails its signature or CRC. -/
structure BootInput where
  image0 : Bool
  image1 : Bool
  version : Nat
  badStacks : List Nat
  badLinks : List (Nat × Nat)
  badIoLinks : List Nat
  badGroups : List Nat
  temps : List Nat
  corrupt : List Nat
  deriving DecidableEq, Repr

/-- The purpose of a debug-authority token (R361). -/
inductive Purpose where
  | observe | invasive | advance
  deriving DecidableEq, Repr

/-- A token signed by the debug authority (R361): its fields as bytes. -/
structure Token where
  device : List (BitVec 8)
  nonce : List (BitVec 8)
  purpose : Purpose
  signature : List (BitVec 8)
  deriving DecidableEq, Repr

/-- An SCC firmware image offered for recovery (R355, R357). -/
structure FwImage where
  bytes : List (BitVec 8)
  signature : List (BitVec 8)
  version : Nat
  test : Bool
  deriving DecidableEq, Repr

/-- The steps of the machine, one constructor for each row of the opcode table. Register fields are the raw six-bit
codes of R28; `WellFormed` says which codes an instruction admits. -/
inductive Instr where
  /-- PAD: fetch goes to the start of the next block (R40). -/
  | pad
  /-- POOL: fetch goes to the start of the block n + 1 blocks on (R40). -/
  | pool (n : BitVec 8)
  /-- NOP: R92. -/
  | nop
  /-- TRAP: R92. -/
  | trap (imm : BitVec 25)
  /-- BKPT: R92, R363. -/
  | bkpt (imm : BitVec 25)
  /-- ERET: R93. -/
  | eret (a : Fld)
  /-- SYSR: R94. -/
  | sysr (d : Fld) (num : BitVec 12)
  /-- SYSW: R94, every register but STOPST. -/
  | sysw (num : BitVec 12) (a : Fld)
  /-- STOPST_CLEAR: the SYSW to STOPST, R245. -/
  | stopstClear (a : Fld)
  /-- EVPOP: R98. -/
  | evpop (d c : Fld)
  /-- EVWAIT: R98. -/
  | evwait
  /-- ADD: R77. -/
  | add (d a b : Fld)
  /-- SUB: R77. -/
  | sub (d a b : Fld)
  /-- AND: R77. -/
  | and (d a b : Fld)
  /-- OR: R77. -/
  | or (d a b : Fld)
  /-- XOR: R77. -/
  | xor (d a b : Fld)
  /-- ANDN: R77. -/
  | andn (d a b : Fld)
  /-- SHL: R77. -/
  | shl (d a b : Fld)
  /-- SHR: R77. -/
  | shr (d a b : Fld)
  /-- SAR: R77. -/
  | sar (d a b : Fld)
  /-- ROL: R77. -/
  | rol (d a b : Fld)
  /-- ROR: R77. -/
  | ror (d a b : Fld)
  /-- MIN: R77. -/
  | min (d a b : Fld)
  /-- MAX: R77. -/
  | max (d a b : Fld)
  /-- MINU: R77. -/
  | minu (d a b : Fld)
  /-- MAXU: R77. -/
  | maxu (d a b : Fld)
  /-- SEL: R77; c a predicate. -/
  | sel (d a b c : Fld)
  /-- ABS: R77. -/
  | abs (d a : Fld)
  /-- ADDI: R78. -/
  | addi (d a : Fld) (imm : BitVec 25)
  /-- ANDI: R78. -/
  | andi (d a : Fld) (imm : BitVec 25)
  /-- ORI: R78. -/
  | ori (d a : Fld) (imm : BitVec 25)
  /-- XORI: R78. -/
  | xori (d a : Fld) (imm : BitVec 25)
  /-- SHLI: R78. -/
  | shli (d a sh : Fld)
  /-- SHRI: R78. -/
  | shri (d a sh : Fld)
  /-- SARI: R78. -/
  | sari (d a sh : Fld)
  /-- MUL: R79. -/
  | mul (d a b : Fld)
  /-- MULH: R79. -/
  | mulh (d a b : Fld)
  /-- MULHU: R79. -/
  | mulhu (d a b : Fld)
  /-- DIV: R79. -/
  | div (d a b : Fld)
  /-- DIVU: R79. -/
  | divu (d a b : Fld)
  /-- REM: R79. -/
  | rem (d a b : Fld)
  /-- REMU: R79. -/
  | remu (d a b : Fld)
  /-- CMP: R81; cc the condition of R80. -/
  | cmp (cc d a b : Fld)
  /-- CMPI: R81. -/
  | cmpi (cc : BitVec 4) (d a : Fld) (imm : BitVec 21)
  /-- PAND: R81. -/
  | pand (d a b : Fld)
  /-- POR: R81. -/
  | por (d a b : Fld)
  /-- PXOR: R81. -/
  | pxor (d a b : Fld)
  /-- PANDN: R81. -/
  | pandn (d a b : Fld)
  /-- PNOT: R81. -/
  | pnot (d a : Fld)
  /-- PSET: R81. -/
  | pset (a : Fld)
  /-- PGET: R81. -/
  | pget (d : Fld)
  /-- CLZ: R82. -/
  | clz (d a : Fld)
  /-- CTZ: R82. -/
  | ctz (d a : Fld)
  /-- POPC: R82. -/
  | popc (d a : Fld)
  /-- BSWAP: R82. -/
  | bswap (d a : Fld)
  /-- BFX: R82. -/
  | bfx (d a pos wm1 : Fld)
  /-- BFXU: R82. -/
  | bfxu (d a pos wm1 : Fld)
  /-- BFI: R82. -/
  | bfi (d a pos wm1 : Fld)
  /-- MOVI: R84. -/
  | movi (d : Fld) (imm : BitVec 32)
  /-- MOVHI: R84. -/
  | movhi (d : Fld) (imm : BitVec 32)
  /-- LDL: R84. -/
  | ldl (d : Fld) (imm : BitVec 32)
  /-- ADDPC: R84. -/
  | addpc (d : Fld) (imm : BitVec 32)
  /-- VLDL: R147. -/
  | vldl (d : Fld) (ty : BitVec 3) (imm : BitVec 32)
  /-- LD: R88. -/
  | ld (d a : Fld) (f : MemForm) (off : BitVec 16)
  /-- LDX: R88. -/
  | ldx (d a ix : Fld) (f : MemForm)
  /-- ST: R88. -/
  | st (b a : Fld) (f : MemForm) (off : BitVec 16)
  /-- STX: R88. -/
  | stx (b a ix : Fld) (f : MemForm)
  /-- AMO: R173. -/
  | amo (aop : BitVec 4) (d b a : Fld) (f : MemForm) (off : BitVec 16)
  /-- CAS: R173. -/
  | cas (d b a : Fld) (f : MemForm) (off : BitVec 16)
  /-- FENCE: R175. -/
  | fence (kind : BitVec 2) (scope : BitVec 3)
  /-- B: R99. -/
  | br (off : BitVec 25)
  /-- CALL: R99. -/
  | call (off : BitVec 25)
  /-- LOOP: R99. -/
  | loop (d : Fld) (off : BitVec 25)
  /-- JMPR: R100. -/
  | jmpr (a : Fld)
  /-- CALLR: R100. -/
  | callr (a : Fld)
  /-- RET: R100. -/
  | ret
  /-- YIELD: R101. -/
  | yield
  /-- HSTART: R102. -/
  | hstart (pp : BitVec 3) (d a sz : Fld) (off : BitVec 22)
  /-- HEND: R103. -/
  | hend
  /-- HWAIT: R104. -/
  | hwait (a : Fld)
  /-- HKILL: R104. -/
  | hkill (a : Fld)
  /-- FORK: R105. -/
  | fork (d a n : Fld) (off : BitVec 25)
  /-- JOIN: R106. -/
  | join (n : Fld)
  /-- JOINW: R106. -/
  | joinw (n : Fld)
  /-- VADD: R136. -/
  | vadd (d a b : Fld) (m : VMod)
  /-- VSUB: R136. -/
  | vsub (d a b : Fld) (m : VMod)
  /-- VMUL: R136. -/
  | vmul (d a b : Fld) (m : VMod)
  /-- VFMA: R136. -/
  | vfma (d a b c : Fld) (m : VMod)
  /-- VFMS: R136. -/
  | vfms (d a b c : Fld) (m : VMod)
  /-- VFNMA: R136. -/
  | vfnma (d a b c : Fld) (m : VMod)
  /-- VMIN: R136. -/
  | vmin (d a b : Fld) (m : VMod)
  /-- VMAX: R136. -/
  | vmax (d a b : Fld) (m : VMod)
  /-- VABS: R136. -/
  | vabs (d a : Fld) (m : VMod)
  /-- VNEG: R136. -/
  | vneg (d a : Fld) (m : VMod)
  /-- VAND: R137. -/
  | vand (d a b : Fld) (m : VMod)
  /-- VOR: R137. -/
  | vor (d a b : Fld) (m : VMod)
  /-- VXOR: R137. -/
  | vxor (d a b : Fld) (m : VMod)
  /-- VSHL: R137. -/
  | vshl (d a b : Fld) (m : VMod)
  /-- VSHR: R137. -/
  | vshr (d a b : Fld) (m : VMod)
  /-- VSAR: R137. -/
  | vsar (d a b : Fld) (m : VMod)
  /-- VCMP: R138. -/
  | vcmp (cc d a b : Fld) (m : VMod)
  /-- VSEL: R139. -/
  | vsel (d a b c : Fld) (m : VMod)
  /-- KAND: R139. -/
  | kand (d a b : Fld)
  /-- KOR: R139. -/
  | kor (d a b : Fld)
  /-- KXOR: R139. -/
  | kxor (d a b : Fld)
  /-- KNOT: R139. -/
  | knot (d a : Fld)
  /-- KMOV_TO_MASK: R139, C = 0. -/
  | kmovToMask (d a : Fld)
  /-- KMOV_FROM_MASK: R139, C = 1. -/
  | kmovFromMask (d a : Fld)
  /-- VCVT: R140. -/
  | vcvt (src : Fld) (d a : Fld) (pd pa : BitVec 2) (m : VMod)
  /-- VRCP: R141. -/
  | vrcp (d a : Fld) (m : VMod)
  /-- VRSQ: R141. -/
  | vrsq (d a : Fld) (m : VMod)
  /-- VEXP2: R141. -/
  | vexp2 (d a : Fld) (m : VMod)
  /-- VLOG2: R141. -/
  | vlog2 (d a : Fld) (m : VMod)
  /-- VTANH: R141. -/
  | vtanh (d a : Fld) (m : VMod)
  /-- VBCAST: R143. -/
  | vbcast (d a : Fld) (m : VMod)
  /-- VEXT: R143. -/
  | vext (d a b : Fld) (m : VMod)
  /-- VINS: R143. -/
  | vins (d a b : Fld) (m : VMod)
  /-- VPERM: R143. -/
  | vperm (d a b : Fld) (m : VMod)
  /-- VROT: R143. -/
  | vrot (d a b : Fld) (m : VMod)
  /-- VREDADD: R144. -/
  | vredadd (d a : Fld) (m : VMod)
  /-- VREDMAX: R144. -/
  | vredmax (d a : Fld) (m : VMod)
  /-- VREDMIN: R144. -/
  | vredmin (d a : Fld) (m : VMod)
  /-- VSCAN: R144. -/
  | vscan (d a : Fld) (m : VMod)
  /-- VLD: R145. -/
  | vld (d a : Fld) (m : VMod)
  /-- VST: R145. -/
  | vst (b a : Fld) (m : VMod)
  /-- VLDS: R145. -/
  | vlds (d a b : Fld) (m : VMod)
  /-- VSTS: R145. -/
  | vsts (b a c : Fld) (m : VMod)
  /-- VGATH: R145. -/
  | vgath (d a b : Fld) (m : VMod)
  /-- VSCAT: R145. -/
  | vscat (b a c : Fld) (m : VMod)
  /-- VSMAX: R149. -/
  | vsmax (d a b : Fld) (m : VMod)
  /-- VSEXP_P: R150, OP 0. -/
  | vsexpP (d a b : Fld) (m : VMod)
  /-- VSEXP_ACC: R150, OP 1. -/
  | vsexpAcc (d a : Fld) (m : VMod)
  /-- VSEXP_NORM: R150, OP 2. -/
  | vsexpNorm (d a b : Fld) (m : VMod)
  /-- ROTAPP: R153. -/
  | rotapp (d a b band : Fld) (m : VMod)
  /-- ROTCFG: R152. -/
  | rotcfg (t : BitVec 3) (a : Fld)
  /-- LATCH: R159. -/
  | latch (a grp : Fld) (m : VMod) (e : EDesc)
  /-- GATH: R160. -/
  | gath (d a b grp : Fld) (m : VMod) (e : EDesc)
  /-- MEPI: R162. -/
  | mepi (a : Fld) (m : VMod) (e : EDesc)
  /-- TMM: R161. -/
  | tmm (a b : Fld) (m : VMod) (e : EDesc)
  /-- MMA: R164. -/
  | mma (d a b : Fld) (m : VMod)
  /-- PMMA: R164. -/
  | pmma (d a b : Fld) (m : VMod)
  /-- MZERO: R165. -/
  | mzero (d : Fld)
  /-- MRD: R165. -/
  | mrd (d a b : Fld) (h : BitVec 1)
  /-- MWR: R165; m holds the hold bit of A only. -/
  | mwr (d a b : Fld) (h : BitVec 1) (m : VMod)
  /-- MCFG: R166. -/
  | mcfg (pa pb : BitVec 2) (ga gb : BitVec 6)
  /-- HINIT: R169. -/
  | hinit (h a : Fld) (sz : BitVec 13) (n : Fld)
  /-- HWAITF: R169. -/
  | hwaitf (h : Fld) (n : BitVec 7)
  /-- HWAITE: R169. -/
  | hwaite (h : Fld) (n : BitVec 7)
  /-- HADV: R169. -/
  | hadv (h : Fld) (n : BitVec 7)
  /-- HPUB: R169. -/
  | hpub (h : Fld) (n : BitVec 7)
  /-- HEXP: R169. -/
  | hexp (h a sd : Fld)
  /-- HST: R169, R170. -/
  | hst (d h sd : Fld)
  /-- GSET: R171. -/
  | gset (gd a : Fld)
  /-- GCLR: R171. -/
  | gclr (gd : Fld)
  /-- GST: R171. -/
  | gst (d gd : Fld)
  /-- LOOKUP: R172. -/
  | lookup (d a : Fld)
  /-- TAGW: R172. -/
  | tagw (a b : Fld)
  /-- TAGINV_SLOT: R172, s = 0. -/
  | taginvSlot (a : Fld)
  /-- TAGINV_LINE: R172, s = 1. -/
  | taginvLine (a : Fld)
  /-- RNEW: R201. -/
  | rnew (d a b c : Fld) (sl : BitVec 2)
  /-- RCAT: R201. -/
  | rcat (d a b c : Fld)
  /-- RSPLIT: R201. -/
  | rsplit (d a b c : Fld)
  /-- RSPLICE: R201. -/
  | rsplice (d a b c : Fld)
  /-- RAPP: R201. -/
  | rapp (d a b c : Fld) (sl : BitVec 2)
  /-- RIDX: R202. -/
  | ridx (d a b : Fld)
  /-- RSUM: R202. -/
  | rsum (d a b : Fld) (sl : BitVec 2)
  /-- RLEN: R202. -/
  | rlen (d a : Fld)
  /-- RWALK: R202. -/
  | rwalk (d a b : Fld)
  /-- RVALID_CHK: R202. -/
  | rvalidChk (d a b : Fld) (sl : BitVec 2)
  /-- RVALID_FIX: R202. -/
  | rvalidFix (d a b : Fld) (sl : BitVec 2)
  /-- RTAKE: R203. -/
  | rtake (d a : Fld)
  /-- RPUB: R203. -/
  | rpub (d a b : Fld)
  /-- RPUB_CMP: R203. -/
  | rpubCmp (d a b c : Fld)
  /-- RREL: R203. -/
  | rrel (a : Fld)
  /-- RDECL: R203. -/
  | rdecl (sl : BitVec 2) (a : Fld)
  /-- AMSEND: R230. -/
  | amsend (a b c : Fld)
  /-- AMREPLY: R232. -/
  | amreply (a : Fld)
  /-- AMRET: R232. -/
  | amret
  /-- RSST: R231. -/
  | rsst (wc : BitVec 3) (a b c : Fld)
  /-- RAMO: R231. -/
  | ramo (aop : BitVec 4) (sz : BitVec 1) (a b c : Fld)
  /-- ROLE: R233. -/
  | role (d : Fld)
  /-- RECAST: R233. -/
  | recast (a : Fld) (c : BitVec 3)
  /-- CEW: R234. -/
  | cew (ix : BitVec 4) (a : Fld)
  /-- CER: R234. -/
  | cer (d : Fld) (ix : BitVec 4)
  /-- CELAUNCH: R235. -/
  | celaunch (d : Fld)
  /-- CEWAIT: R236. -/
  | cewait (d a : Fld)
  /-- CEPOLL: R236. -/
  | cepoll (d a : Fld)
  /-- PRQ: R238. -/
  | prq (p : BitVec 3) (d a : Fld)
  /-- PRGET: R239. -/
  | prget (d a : Fld)
  /-- TKPAIR: R244. -/
  | tkpair (p : BitVec 3) (d a b : Fld)
  /-- TKHASH: R244. -/
  | tkhash (p : BitVec 3) (d a b : Fld)
  /-- TKEMIT: R246. -/
  | tkemit (p : BitVec 3) (d a b : Fld)
  /-- TKEMIT_FLUSH: R246. -/
  | tkemitFlush (p : BitVec 3) (d b : Fld)
  /-- STOPLD: R245. -/
  | stopld (i : BitVec 4) (a b : Fld)
  /-- VMASKL: R247. -/
  | vmaskl (d a b c : Fld) (m : VMod)
  /-- NSPAWN: R266. -/
  | nspawn (d a : Fld)
  /-- NEND: R267. -/
  | nend
  /-- NDEP_ADD: R268. -/
  | ndepAdd (d a : Fld)
  /-- NDEP_SUB: R268. -/
  | ndepSub (d a : Fld)
  /-- NPRIO: R269. -/
  | nprio (d a b : Fld)
  /-- NQRY: R270. -/
  | nqry (d a : Fld) (sel : BitVec 4)
  /-- CDDEF: R279. -/
  | cddef (d a : Fld) (k : BitVec 3)
  /-- CDSWEEP: R280. -/
  | cdsweep (d a : Fld)
  /-- CDNEXT: R281. -/
  | cdnext (d : Fld)
  /-- CDPOST: R282. -/
  | cdpost (a b : Fld)
  /-- CDREAD: R283. -/
  | cdread (d a : Fld)
  /-- CDPIN: R284. -/
  | cdpin (a b : Fld)
  /-- SEAL: R313. -/
  | sealCore (a : Fld)
  /-- ERRSEND: R314. -/
  | errsend (a b : Fld)
  /-- SCANRUN: R315. -/
  | scanrun (d a : Fld)
  /-- QUAR: R316. -/
  | quar (a b : Fld)
  /-- SUSPR: R317. -/
  | suspr (d a : Fld)
  /-- SUSPR_W: R317. -/
  | susprW (d a b : Fld)
  /-- TLBW: R319. -/
  | tlbw (a b : Fld)
  /-- TLBINV: R320. -/
  | tlbinv (d a b : Fld) (m : BitVec 2)
  /-- HARVEST: R321. -/
  | harvest (d c a : Fld)
  /-- TLBR: R322. -/
  | tlbr (d c a : Fld)
  /-- CLRED: R374. -/
  | clred (d a : Fld)
  /-- CLGAT: R374. -/
  | clgat (d a : Fld)
  /-- CLBAR: R374. -/
  | clbar (d a : Fld)
  /-- CLWAIT: R374. -/
  | clwait (d a : Fld)
  /-- DHALT: R363. -/
  | dhalt (a : Fld)
  /-- DRUN: R363. -/
  | drun (a : Fld)
  /-- DRDR: R363. -/
  | drdr (d a b : Fld)
  /-- DWRR: R363. -/
  | dwrr (a b c : Fld)
  /-- WDOG_EXPIRY: R71. -/
  | wdogExpiry (core slot : Nat)
  /-- CONTEXT_WAIT_END: R70. -/
  | contextWaitEnd (core slot : Nat)
  /-- HELD_INSTRUCTION_COMPLETE: R197. -/
  | heldInstructionComplete (core slot : Nat)
  /-- CHANNEL_WORD_ARRIVAL: R210. -/
  | channelWordArrival (core ch : Nat)
  /-- CHANNEL_CREDIT_RETURN: R210; core the sender, ch 0 for q2 and 1 for q3. -/
  | channelCreditReturn (core ch : Nat)
  /-- ENGINE_QUEUE_HEAD_START: R122. -/
  | engineQueueHeadStart (core : Nat) (q : EngineQ)
  /-- MATRIX_STEP: R113. -/
  | matrixStep (core : Nat)
  /-- COPY_END: R219. -/
  | copyEnd (core tid : Nat) (r : RemoteAnswer)
  /-- REDUCTION_APPLY_PHASE: R220. -/
  | reductionApplyPhase (core tid : Nat)
  /-- EVENT_RECORD_ENTER: R128. -/
  | eventRecordEnter (core : Nat)
  /-- PRESS_REQUEST_COMPLETE: R238. -/
  | pressRequestComplete (core ticket : Nat)
  /-- ROPE_EDIT_COMMIT: R188. -/
  | ropeEditCommit (core : Nat)
  /-- AM_ARRIVAL: R216. -/
  | amArrival (core : Nat)
  /-- AM_HANDLER_START: R216. -/
  | amHandlerStart (core : Nat)
  /-- BUILTIN_STORE: R214. -/
  | builtinStore (core : Nat)
  /-- BUILTIN_ATOMIC: R214. -/
  | builtinAtomic (core : Nat)
  /-- BUILTIN_LOAD: R214. -/
  | builtinLoad (core : Nat)
  /-- AM_REPLY_ARRIVAL: R230. -/
  | amReplyArrival (core : Nat)
  /-- TASTE_RETAIN: R300. -/
  | tasteRetain (core : Nat)
  /-- ROPE_EDIT_START: R188. -/
  | ropeEditStart (core : Nat)
  /-- DRY_NOTICE: R211. -/
  | dryNotice (core ch : Nat)
  /-- COPY_REPLAY: R219. -/
  | copyReplay (core tid : Nat) (memErr : Option Nat)
  /-- REFCNT_UPDATE_ARRIVAL: R194; the oldest update in flight to the address. -/
  | refcntUpdateArrival (addr : Nat)
  /-- RECLAIM_ENGINE_STEP: R195. -/
  | reclaimEngineStep (die : Nat)
  /-- ROPE_CACHE_DROP: R195. -/
  | ropeCacheDrop (core : Nat)
  /-- POOL_RETURN: R195. -/
  | poolReturn (die : Nat)
  /-- NODE_RESTART: R226. -/
  | nodeRestart (die launch node core : Nat)
  /-- TWIN_COMPARE: R227. -/
  | twinCompare (die launch node : Nat)
  /-- TWIN_SILENCE_TIMEOUT: R227. -/
  | twinSilenceTimeout (die launch node : Nat)
  /-- LAUNCH_HANDOUT: R342. -/
  | launchHandout
  /-- PASS_DISPATCH: R264. -/
  | passDispatch (die : Nat)
  /-- TILE_ARRIVAL: R259. -/
  | tileArrival (die : Nat)
  /-- DIE_REPORT: R261. -/
  | dieReport (die launch : Nat)
  /-- SCORE_DECAY: R305. -/
  | scoreDecay (die : Nat)
  /-- SCAN_ABORT: R307. -/
  | scanAbort (core : Nat)
  /-- SCAN_COMPLETE: R307. -/
  | scanComplete (core : Nat) (passed : Bool)
  /-- SCC_SERVICE_SCAN: R308. -/
  | sccServiceScan (cluster : Nat) (passed : Bool)
  /-- MAP_CHANGE_INSTALL: R297. -/
  | mapChangeInstall
  /-- MAP_DRAIN_COMPLETE: R297. -/
  | mapDrainComplete
  /-- TRANSLATION_REQUEST: R293. -/
  | translationRequest (r : XReq)
  /-- TRANSLATION_ANSWER: R293. -/
  | translationAnswer (r : XReq) (ans : XAnswer)
  /-- HARVEST_TIMER_EXPIRY: R295. -/
  | harvestTimerExpiry (die : Nat)
  /-- MEMORY_REFRESH: R290; the sector that the scrub reads and its ECC result. -/
  | memoryRefresh (sector : Nat) (o : EccResult)
  /-- INCARNATION_INCREASE: R368. -/
  | incarnationIncrease (peer : Nat)
  /-- INCARNATION_SWEEP: R368. -/
  | incarnationSweep (die peer : Nat)
  /-- REMOTE_ACCESS: R367. -/
  | remoteAccess (src part phys : Nat) (req : RemoteReq)
  /-- FABRIC_LAUNCH: R371. -/
  | fabricLaunch (src part : Nat) (record : FabRecord)
  /-- COLLECTIVE_COMPLETE: R375. -/
  | collectiveComplete (core tid : Nat) (r : CollAnswer)
  /-- COLLECTIVE_TIMEOUT: R375. -/
  | collectiveTimeout (core tid : Nat)
  /-- LINK_PORT_FAIL: R366. -/
  | linkPortFail (port : Nat)
  /-- HOST_SLOT_WRITE: R341; fn 0 to 15 the VFs, 16 the PF. -/
  | hostSlotWrite (fn slot : Nat) (msg : List (BitVec 8))
  /-- LAUNCH: R342. -/
  | launch (fn hseq : Nat) (packet : List (BitVec 8))
  /-- SYNC: R344. -/
  | sync (fn : Nat) (msg : List (BitVec 8))
  /-- HEALTH: R352. -/
  | health (fn : Nat)
  /-- WEAR: R350. -/
  | wear (fn first count : Nat)
  /-- HACK_WRITE: R339. -/
  | hackWrite (fn : Nat) (v : BitVec 64)
  /-- MODULE_MESSAGE_SEND: R339. -/
  | moduleMessageSend (fn : Nat)
  /-- APERTURE_WRITE: R346. -/
  | apertureWrite (vf va : Nat) (bytes : List (BitVec 8))
  /-- APERTURE_READ: R346. -/
  | apertureRead (vf va n : Nat)
  /-- COLD_BOOT: R348. -/
  | coldBoot (b : BootInput)
  /-- MODULE_RESET: R353. -/
  | moduleReset
  /-- DIE_FAIL: R353. -/
  | dieFail (die : Nat)
  /-- THERMAL_PAUSE: R353. -/
  | thermalPause (die : Nat)
  /-- NVME_DRIVE_FAIL: R353. -/
  | nvmeDriveFail (drive : Nat)
  /-- POWER_LOSS: R353. -/
  | powerLoss
  /-- SCORE_PERSIST: R305. -/
  | scorePersist
  /-- WEAR_PERSIST: R350. -/
  | wearPersist
  /-- WEAR_COUNT_TICK: R350; temp in degrees Celsius above -273. -/
  | wearCountTick (record : Nat) (temp joules : Nat)
  /-- PARK_REQUEST: R364. -/
  | parkRequest
  /-- PARK_ENTRY: R364. -/
  | parkEntry
  /-- SLEEP_REQUEST: R364. -/
  | sleepRequest
  /-- SLEEP_ENTRY: R364. -/
  | sleepEntry
  /-- RESUME: R364. -/
  | resume
  /-- GET_VERSION: R356. -/
  | getVersion (fn : Nat) (req : List (BitVec 8))
  /-- GET_CAPABILITIES: R356. -/
  | getCapabilities (fn : Nat) (req : List (BitVec 8))
  /-- NEGOTIATE_ALGORITHMS: R356. -/
  | negotiateAlgorithms (fn : Nat) (req : List (BitVec 8))
  /-- GET_DIGESTS: R356. -/
  | getDigests (fn : Nat) (req : List (BitVec 8))
  /-- GET_CERTIFICATE: R356. -/
  | getCertificate (fn : Nat) (req : List (BitVec 8))
  /-- CHALLENGE: R356. -/
  | challenge (fn : Nat) (req : List (BitVec 8))
  /-- GET_MEASUREMENTS: R356. -/
  | getMeasurements (fn : Nat) (req : List (BitVec 8))
  /-- KEY_EXCHANGE: R356. -/
  | keyExchange (fn : Nat) (req : List (BitVec 8))
  /-- FINISH: R356. -/
  | finish (fn : Nat) (req : List (BitVec 8))
  /-- END_SESSION: R356. -/
  | endSession (fn : Nat) (req : List (BitVec 8))
  /-- DBGNONCE: R357. -/
  | dbgnonce (fn : Nat)
  /-- DBGAUTH: R361. -/
  | dbgauth (fn : Nat) (t : Token)
  /-- DBGEND: R357. -/
  | dbgend (fn : Nat)
  /-- KEYCREATE: R359. -/
  | keycreate (fn : Nat)
  /-- KEYDESTROY: R359. -/
  | keydestroy (fn : Nat)
  /-- FWRECOVER: R357. -/
  | fwrecover (fn : Nat) (img : FwImage)
  /-- ADVANCE: R360. -/
  | advance (fn : Nat) (t : Token)
  /-- LINK_PORT_RETRAIN: R366. -/
  | linkPortRetrain (port : Nat)
  deriving DecidableEq, Repr

end Sys2Proof
end

