-- ==== Sys2Proof/WellFormed.lean ====
section
/-!
DEFINITION. Which instructions are well formed: the codes that R28 to R37 and each instruction's entry assign (steps 9 and 10
of R43). A field that an entry marks as unused is no part of `Instr`; the decoder checks that it is zero.
-/
namespace Sys2Proof

/-- The seventeen bounds of the whole machine: 8 dies of 64 clusters of 10 cores, 12 slots (R1). -/
def numCores : Nat := 5120
/-- Clusters of the module (R1). -/
def numClusters : Nat := 512

namespace Fld

/-- Scalar, readable: g0 to g31, q0, q1 (R28). -/
def rd (c : Fld) : Bool := c.toNat < 34
/-- Scalar, written: g0 to g31, q2, q3 (R28). -/
def wr (c : Fld) : Bool := c.toNat < 32 || c.toNat == 34 || c.toNat == 35
/-- Scalar with no channel codes: a base, an index, or any scalar of a group that takes codes 0 to 31 only (R28). -/
def sc (c : Fld) : Bool := c.toNat < 32
/-- Vector (R28). -/
def ve (c : Fld) : Bool := c.toNat < 48
/-- Predicate or lane mask (R28). -/
def pk (c : Fld) : Bool := c.toNat < 8
/-- Accumulator or matrix latch (R28). -/
def ac (c : Fld) : Bool := c.toNat < 4
/-- Handle or guard slot (R28). -/
def hg (c : Fld) : Bool := c.toNat < 16

end Fld

/-- The MOD checks of R30 for an instruction whose entry lists the types `tys`, rounding, saturation, the hold positions
`hold` (bit 0 A, bit 1 B, bit 2 C), the mask, and zeroing. -/
def VMod.legal (m : VMod) (tys : List Nat) (rnd sat : Bool) (hold : BitVec 3) (mask zero : Bool) : Bool :=
  tys.contains m.ty.toNat
  && (if rnd then m.rnd.toNat < 5 || m.rnd.toNat == 7 else m.rnd == 0#3)
  && (sat || m.sat == 0#1)
  && (m.hold &&& ~~~hold) == 0#3
  && (mask || m.mask == 0#3)
  && (if mask then (zero || m.z == 0#1) && !(m.mask == 0#3 && m.z == 1#1) else m.z == 0#1)

/-- TYPE codes other than plane (R132). -/
def anyType : List Nat := [0, 1, 2, 3, 4, 5, 6]

/-- SIZE, SGN and ORD of a load (R32, R89, R90). -/
def MemForm.loadOk (f : MemForm) : Bool := f.ord.toNat < 2 && !(f.sgn == 1#1 && f.size == 3#2)
/-- SIZE, SGN and ORD of a store (R32, R89, R90). -/
def MemForm.storeOk (f : MemForm) : Bool := (f.ord == 0#2 || f.ord == 2#2) && f.sgn == 0#1
/-- SIZE, SGN and ORD of an atomic (R173, R176). -/
def MemForm.atomOk (f : MemForm) : Bool := f.ord.toNat < 3 && 2 ≤ f.size.toNat && !(f.sgn == 1#1 && f.size == 3#2)

/-- The system register numbers that R95 lists. -/
def sysListed (n : BitVec 12) : Bool :=
  let k := n.toNat
  k < 3 || (0x10 ≤ k && k < 0x14) || (0x20 ≤ k && k < 0x23) || k == 0x30 || k == 0x31 || (0x38 ≤ k && k < 0x40)
  || k == 0x40 || k == 0x50 || k == 0x60 || k == 0x70

/-- The descriptor combinations of R36 that concern the guard and the handle fields. -/
def EDesc.optOk (e : EDesc) : Bool :=
  (e.ge == 1#1 || (e.gsl == 0#4 && e.gs == 0#1)) && (e.he == 1#1 || e.hnd == 0#4)

/-- Whether a fill's latch is on the A side (R35). -/
def EDesc.aSide (e : EDesc) : Bool := e.lat.toNat < 2

/-- The descriptor of LATCH and GATH (R36, R37, R156, R159, R168). -/
def EDesc.fillOk (e : EDesc) (plane : Bool) : Bool :=
  e.optOk && e.acc == 0#2 && e.dirb == 0#1 && e.tk.toNat < 32
  && (if e.aSide then e.plb == 0#3 && e.tn == 0#6 else e.pla == 0#3 && e.tm == 0#5)
  && (if plane then
        (if e.aSide then e.pla != 0#3 && e.dira == 0#1 else e.plb != 0#3 && e.dira == 1#1) && e.tk.toNat == 31
      else e.pla == 0#3 && e.plb == 0#3 && e.mc == 0#1)

/-- Word 0's MOD of a fill: TYPE, and HOLD B in GATH (R158, R159). -/
def VMod.fillOk (m : VMod) (hold : BitVec 3) : Bool := m.legal [1, 5, 6, 7] false false hold false false

namespace Instr

/-- The events of the table: steps that no program word decodes to. -/
def isEvent : Instr → Bool
  | wdogExpiry .. | contextWaitEnd .. | heldInstructionComplete .. | channelWordArrival .. | channelCreditReturn ..
  | dryNotice .. | engineQueueHeadStart .. | matrixStep .. | copyEnd .. | copyReplay .. | reductionApplyPhase ..
  | eventRecordEnter .. | pressRequestComplete .. | ropeEditStart .. | ropeEditCommit .. | refcntUpdateArrival ..
  | reclaimEngineStep .. | ropeCacheDrop .. | poolReturn .. | amArrival .. | amHandlerStart .. | builtinStore ..
  | builtinAtomic .. | builtinLoad .. | amReplyArrival .. | nodeRestart .. | twinCompare .. | twinSilenceTimeout ..
  | launchHandout | passDispatch .. | tasteRetain .. | tileArrival .. | dieReport .. | scoreDecay .. | scanAbort ..
  | scanComplete .. | sccServiceScan .. | mapChangeInstall | mapDrainComplete | translationRequest ..
  | translationAnswer .. | harvestTimerExpiry .. | memoryRefresh .. | incarnationIncrease .. | incarnationSweep ..
  | remoteAccess .. | fabricLaunch .. | collectiveComplete .. | collectiveTimeout .. | linkPortFail ..
  | hostSlotWrite .. | launch .. | sync .. | health .. | wear .. | hackWrite .. | moduleMessageSend ..
  | apertureWrite .. | apertureRead .. | coldBoot .. | moduleReset | dieFail .. | thermalPause .. | nvmeDriveFail ..
  | powerLoss | scorePersist | wearPersist | wearCountTick .. | parkRequest | parkEntry | sleepRequest | sleepEntry
  | resume | getVersion .. | getCapabilities .. | negotiateAlgorithms .. | getDigests .. | getCertificate ..
  | challenge .. | getMeasurements .. | keyExchange .. | finish .. | endSession .. | dbgnonce .. | dbgauth ..
  | dbgend .. | keycreate .. | keydestroy .. | fwrecover .. | advance .. | linkPortRetrain .. => true
  | _ => false

/-- The operand limits of an event: it names a core, die, cluster, slot, function or port of the module (R1, R336). -/
def eventOk : Instr → Bool
  | wdogExpiry c k | contextWaitEnd c k => c < numCores && k < 12
  | heldInstructionComplete c _ => c < numCores
  | channelWordArrival c ch | channelCreditReturn c ch | dryNotice c ch => c < numCores && ch < 2
  | engineQueueHeadStart c _ | matrixStep c | copyEnd c _ _ | copyReplay c _ _ | reductionApplyPhase c _
  | eventRecordEnter c | pressRequestComplete c _ | ropeEditStart c | ropeEditCommit c | ropeCacheDrop c | amArrival c
  | amHandlerStart c | builtinStore c | builtinAtomic c | builtinLoad c | amReplyArrival c | tasteRetain c | scanAbort c
  | scanComplete c _ | collectiveComplete c _ _ | collectiveTimeout c _ => c < numCores
  | reclaimEngineStep d | poolReturn d | passDispatch d | tileArrival d | dieReport d _ | scoreDecay d
  | harvestTimerExpiry d | incarnationSweep d _ | dieFail d | thermalPause d | twinCompare d _ _
  | twinSilenceTimeout d _ _ => d < 8
  | nodeRestart d _ _ c => d < 8 && c < numCores
  | sccServiceScan q _ => q < numClusters
  | translationRequest r | translationAnswer r _ => r.core < numCores && r.va < 2 ^ 56 && r.part < 16
  | memoryRefresh s _ => s < 2 ^ 35
  | linkPortFail p | linkPortRetrain p => p < 40
  | hostSlotWrite f k _ => f < 17 && k < 9
  | launch f _ _ | sync f _ | health f | wear f _ _ | hackWrite f _ | moduleMessageSend f | getVersion f _
  | getCapabilities f _ | negotiateAlgorithms f _ | getDigests f _ | getCertificate f _ | challenge f _
  | getMeasurements f _ | keyExchange f _ | finish f _ | endSession f _ | dbgnonce f | dbgauth f _ | dbgend f
  | fwrecover f _ | advance f _ => f < 17
  | apertureWrite v _ _ | apertureRead v _ _ | keycreate v | keydestroy v => v < 16
  | nvmeDriveFail d => d < 2
  | wearCountTick r _ _ => r < 24
  | _ => true

/-- Steps 9 and 10 of R43: every field holds a code that the instruction's entry assigns. -/
def wf : Instr → Bool
  | pad | nop | evwait | ret | yield | hend | amret | nend => true
  | pool n => n != 0#8
  | trap _ | bkpt _ | br _ | call _ => true
  | eret a => a.sc
  | sysr d num => d.sc && sysListed num
  | sysw num a => a.sc && sysListed num && num != 0x060#12
  | stopstClear a => a.sc
  | evpop d c => d.sc && c.sc && !(d == c && d != 0#6)
  | add d a b | sub d a b | and d a b | or d a b | xor d a b | andn d a b | shl d a b | shr d a b | sar d a b
  | rol d a b | ror d a b | min d a b | max d a b | minu d a b | maxu d a b
  | mul d a b | mulh d a b | mulhu d a b | div d a b | divu d a b | rem d a b | remu d a b => d.wr && a.rd && b.rd
  | sel d a b c => d.wr && a.rd && b.rd && c.pk
  | abs d a | clz d a | ctz d a | popc d a | bswap d a => d.wr && a.rd
  | addi d a _ | andi d a _ | ori d a _ | xori d a _ | shli d a _ | shri d a _ | sari d a _ => d.wr && a.rd
  | cmp cc d a b => cc.toNat < 10 && d.pk && a.rd && b.rd
  | cmpi cc d a _ => cc.toNat < 10 && d.pk && a.rd
  | pand d a b | por d a b | pxor d a b | pandn d a b => d.pk && a.pk && b.pk
  | pnot d a => d.pk && a.pk
  | pset a => a.rd
  | pget d => d.wr
  | bfx d a pos wm1 | bfxu d a pos wm1 => d.wr && a.rd && pos.toNat + wm1.toNat < 64
  | bfi d a pos wm1 => d.sc && a.rd && pos.toNat + wm1.toNat < 64
  | movi d _ | ldl d _ | addpc d _ => d.wr
  | movhi d _ => d.sc
  | vldl d ty _ => d.ve && (ty == 0#3 || ty == 2#3)
  | ld d a f _ => d.wr && a.sc && f.loadOk
  | ldx d a ix f => d.wr && a.sc && ix.sc && f.loadOk
  | st b a f _ => b.rd && a.sc && f.storeOk
  | stx b a ix f => b.rd && a.sc && ix.sc && f.storeOk
  | amo aop d b a f _ => aop.toNat < 9 && d.sc && b.sc && a.sc && f.atomOk
  | cas d b a f _ => d.sc && b.sc && a.sc && f.atomOk
  | fence kind scope => kind != 3#2 && scope.toNat < 6
  | loop d _ => d.sc && d != 0#6
  | jmpr a | callr a | hwait a | hkill a => a.sc
  | hstart _ d a sz _ => d.sc && a.sc && sz.toNat < 4
  | fork d a n _ => d.pk && a.sc && n.pk
  | join n | joinw n => n.pk
  | vadd d a b m | vsub d a b m | vmul d a b m | vmin d a b m | vmax d a b m =>
      d.ve && a.ve && b.ve && m.legal [0, 1, 2, 3, 4] true true 3#3 true true
  | vfma d a b c m | vfms d a b c m | vfnma d a b c m =>
      d.ve && a.ve && b.ve && c.ve && m.legal [0, 1] true true 7#3 true true
  | vabs d a m | vneg d a m => d.ve && a.ve && m.legal [0, 1, 2, 3, 4] true true 1#3 true true
  | vand d a b m | vor d a b m | vxor d a b m =>
      d.ve && a.ve && b.ve && m.legal anyType false false 3#3 true true
  | vshl d a b m | vshr d a b m | vsar d a b m =>
      d.ve && a.ve && b.ve && m.legal [2, 3, 4] false false 3#3 true true
  | vcmp cc d a b m =>
      d.pk && a.ve && b.ve && m.legal [0, 2] false false 3#3 true true
      && (if m.ty == 0#3 then [0, 1, 2, 3, 6, 7, 10].contains cc.toNat else cc.toNat < 10)
  | vsel d a b c m => d.ve && a.ve && b.ve && c.pk && m.legal anyType false false 3#3 false false
  | kand d a b | kor d a b | kxor d a b => d.pk && a.pk && b.pk
  | knot d a => d.pk && a.pk
  | kmovToMask d a => d.pk && a.sc
  | kmovFromMask d a => d.sc && a.pk
  | vcvt src d a pd pa m =>
      d.ve && a.ve && m.legal anyType true true 1#3 true true && src.toNat < 7 && src.toNat != m.ty.toNat
      && pa.toNat < (if src.toNat == 0 || src.toNat == 2 then 1 else if src.toNat == 1 || src.toNat == 3 then 2 else 4)
      && pd.toNat < (if m.ty == 0#3 || m.ty == 2#3 then 1 else if m.ty == 1#3 || m.ty == 3#3 then 2 else 4)
  | vrcp d a m | vrsq d a m | vexp2 d a m | vlog2 d a m | vtanh d a m =>
      d.ve && a.ve && m.legal [0, 1] true true 1#3 true true
  | vbcast d a m => d.ve && a.sc && m.legal anyType false false 0#3 true true
  | vext d a b m => d.sc && a.ve && b.sc && m.legal anyType false false 1#3 false false
  | vins d a b m => d.ve && a.sc && b.sc && m.legal anyType false false 0#3 false false
  | vperm d a b m => d.ve && a.ve && b.ve && m.legal anyType false false 3#3 true true
  | vrot d a b m => d.ve && a.ve && b.sc && m.legal anyType false false 1#3 true true
  | vredadd d a m | vredmax d a m | vredmin d a m => d.ve && a.ve && m.legal [0, 2] true true 1#3 true false
  | vscan d a m => d.ve && a.ve && m.legal [0, 2] true true 1#3 true true
  | vld d a m => d.ve && a.sc && m.legal anyType false false 0#3 true true
  | vst b a m => b.ve && a.sc && m.legal anyType false false 2#3 true true
  | vlds d a b m => d.ve && a.sc && b.sc && m.legal [0, 2] false false 0#3 true true
  | vsts b a c m => b.ve && a.sc && c.sc && m.legal [0, 2] false false 2#3 true true
  | vgath d a b m => d.ve && a.sc && b.ve && m.legal [0, 2] false false 2#3 true true
  | vscat b a c m => b.ve && a.sc && c.ve && m.legal [0, 2] false false 6#3 true true
  | vsmax d a b m => d.ve && a.ve && b.ve && m.legal [0] true false 3#3 true false
  | vsexpP d a b m | vsexpNorm d a b m => d.ve && a.ve && b.ve && m.legal [0] true false 3#3 true true
  | vsexpAcc d a m => d.ve && a.ve && m.legal [0] true false 1#3 true false
  | rotapp d a b band m => d.ve && a.ve && b.sc && m.legal [0] true true 1#3 true true && band.toNat % 16 == 0
  | rotcfg _ a => a.sc
  | latch a grp m e => a.sc && m.fillOk 0#3 && e.fillOk (m.ty == 7#3) && (m.ty == 7#3 || grp == 0#6)
  | gath d a b grp m e =>
      a.sc && b.ve && m.fillOk 2#3 && e.fillOk (m.ty == 7#3) && (if m.ty == 7#3 then d.sc else d == 0#6 && grp == 0#6)
      && e.dira == (if e.aSide then 0#1 else 1#1)
  | mepi a m e =>
      a.sc && m.legal anyType true true 0#3 false false && e.optOk && e.mc == 0#1 && e.pla == 0#3 && e.plb == 0#3
      && e.lat == 0#2 && e.dirb == 0#1 && e.tk == 0#10
  | tmm a b m e =>
      a.sc && b.sc && m.fillOk 0#3 && e.optOk && e.base == 0#17 && e.lat == 0#2
      && (if m.ty == 7#3 then e.pla != 0#3 && e.plb != 0#3 && e.dira == 0#1 && e.dirb == 1#1 && e.tk.toNat % 32 == 31
          else e.pla == 0#3 && e.plb == 0#3 && e.mc == 0#1)
  | mma d a b m => d.ac && a.toNat < 2 && (b.toNat == 2 || b.toNat == 3) && m.legal [1, 5, 6] false false 0#3 false false
  | pmma d a b m => d.ac && a.toNat < 2 && (b.toNat == 2 || b.toNat == 3) && m.legal [7] false false 0#3 false false
  | mzero d => d.ac
  | mrd d a b _ => d.ve && a.ac && b.sc
  | mwr d a b _ m => d.ac && a.ve && b.sc && m.legal [0] false false 1#3 false false
  | mcfg pa pb _ _ => pa != 3#2 && pb != 3#2
  | hinit h a _ _ => h.hg && a.sc
  | hwaitf h _ | hwaite h _ | hadv h _ | hpub h _ => h.hg
  | hexp h a _ => h.hg && a.sc
  | hst d h _ => d.sc && h.hg
  | gset gd a => gd.hg && a.pk
  | gclr gd => gd.hg
  | gst d gd => d.sc && gd.hg
  | lookup d a => d.sc && a.sc
  | tagw a b => a.sc && b.sc
  | taginvSlot a | taginvLine a => a.sc
  | rnew d a b c _ | rapp d a b c _ => d.sc && a.sc && b.sc && c.sc
  | rcat d a b c | rsplit d a b c | rsplice d a b c => d.sc && a.sc && b.sc && c.sc
  | ridx d a b | rwalk d a b => d.sc && a.sc && b.sc
  | rsum d a b _ | rvalidChk d a b _ | rvalidFix d a b _ => d.sc && a.sc && b.sc
  | rlen d a | rtake d a => d.sc && a.sc
  | rpub d a b => d.sc && a.sc && b.sc
  | rpubCmp d a b c => d.sc && a.sc && b.sc && c.sc
  | rrel a => a.sc
  | rdecl _ a => a.sc
  | amsend a b c => a.sc && b.sc && c.sc
  | amreply a => a.sc
  | rsst wc a b c => wc != 7#3 && a.sc && b.sc && c.sc
  | ramo aop _ a b c => aop.toNat < 9 && a.sc && b.sc && c.sc
  | role d => d.sc
  | recast a _ => a.sc
  | cew ix a => ix.toNat < 11 && a.sc
  | cer d ix => d.sc && ix.toNat < 11
  | celaunch d => d.sc
  | cewait d a | cepoll d a => d.sc && a.sc
  | prq _ d a | prget d a => d.sc && a.sc
  | tkpair _ d a b | tkhash _ d a b | tkemit _ d a b => d.sc && a.sc && b.sc
  | tkemitFlush _ d b => d.sc && b.sc
  | stopld _ a b => a.sc && b.sc
  | vmaskl d a b c m => d.ve && a.ve && b.sc && c.sc && m.legal [0, 1] false false 1#3 true true
  | nspawn d a | ndepAdd d a | ndepSub d a => d.sc && a.sc
  | nprio d a b => d.sc && a.sc && b.sc
  | nqry d a q => d.sc && a.sc && q.toNat < 8
  | cddef d a _ => d.sc && a.sc
  | cdsweep d a => d.sc && a.sc
  | cdnext d => d.sc
  | cdpost a b => a.ve && b.sc
  | cdread d a => d.ve && a.sc
  | cdpin a b => a.sc && b.sc
  | sealCore a => a.sc
  | errsend a b | quar a b => a.sc && b.sc
  | scanrun d a | suspr d a => d.sc && a.sc
  | susprW d a b => d.sc && a.sc && b.sc
  | tlbw a b => a.sc && b.sc
  | tlbinv d a b m =>
      d.sc && a.sc && b.sc && m != 3#2 && (m == 0#2 || a == 0#6) && (m != 2#2 || b == 0#6)
  | harvest d c a | tlbr d c a => d.sc && c.sc && a.sc && !(d == c && d != 0#6)
  | clred d a | clgat d a | clbar d a | clwait d a => d.sc && a.sc
  | dhalt a | drun a => a.sc
  | drdr d a b => d.sc && a.sc && b.sc
  | dwrr a b c => a.sc && b.sc && c.sc
  | i => i.eventOk

end Instr
end Sys2Proof
end

