-- ==== Sys2Proof/Decode.lean ====
section
/-!
DEFINITION. The decoder, total on any bytes (R25 to R44), and after it the encoder, written from the same tables of the spec,
with decoded words written out from the spec's encodings.
-/
namespace Sys2Proof

/-- Word 0 cut into its fields (R25). -/
structure Fields where
  x   : BitVec 25
  fn  : BitVec 9
  b   : Fld
  a   : Fld
  d   : Fld
  pr  : BitVec 4
  maj : BitVec 6
  len : BitVec 2
  deriving DecidableEq, Repr

/-- The fields of word 0 (R25). -/
def splitWord (w : BitVec 64) : Fields where
  x   := w.extractLsb' 39 25
  fn  := w.extractLsb' 30 9
  b   := w.extractLsb' 24 6
  a   := w.extractLsb' 18 6
  d   := w.extractLsb' 12 6
  pr  := w.extractLsb' 8 4
  maj := w.extractLsb' 2 6
  len := w.extractLsb' 0 2

/-- Word 0 from its fields (R25). -/
def joinWord (f : Fields) : BitVec 64 := f.x ++ f.fn ++ f.b ++ f.a ++ f.d ++ f.pr ++ f.maj ++ f.len

/-- X of F-RRR, F-L96 and F-E128: C and MOD (R29). -/
structure XRrr where
  rsv : BitVec 5
  m   : VMod
  c   : Fld
  deriving DecidableEq, Repr

/-- C and MOD of X (R29). -/
def splitRrr (x : BitVec 25) : XRrr where
  rsv := x.extractLsb' 20 5
  m := { z := x.extractLsb' 19 1, mask := x.extractLsb' 16 3, hold := x.extractLsb' 13 3, sat := x.extractLsb' 12 1,
         rnd := x.extractLsb' 9 3, ty := x.extractLsb' 6 3 }
  c := x.extractLsb' 0 6

/-- X of F-RRR from C and MOD (R29). -/
def joinRrr (r : XRrr) : BitVec 25 := r.rsv ++ r.m.z ++ r.m.mask ++ r.m.hold ++ r.m.sat ++ r.m.rnd ++ r.m.ty ++ r.c

/-- X of F-MEM (R32). -/
structure XMem where
  aop : BitVec 4
  f   : MemForm
  off : BitVec 16
  deriving DecidableEq, Repr

/-- The fields of F-MEM's X (R32). -/
def splitMem (x : BitVec 25) : XMem where
  aop := x.extractLsb' 21 4
  f := { ord := x.extractLsb' 19 2, sgn := x.extractLsb' 18 1, size := x.extractLsb' 16 2 }
  off := x.extractLsb' 0 16

/-- F-MEM's X from its fields (R32). -/
def joinMem (m : XMem) : BitVec 25 := m.aop ++ m.f.ord ++ m.f.sgn ++ m.f.size ++ m.off

/-- The engine descriptor's fields, with its reserved bits (R35). -/
def splitDesc (w : BitVec 64) : BitVec 2 × EDesc :=
  (w.extractLsb' 62 2,
   { base := w.extractLsb' 45 17, mc := w.extractLsb' 44 1, plb := w.extractLsb' 41 3, pla := w.extractLsb' 38 3,
     lat := w.extractLsb' 36 2, acc := w.extractLsb' 34 2, dirb := w.extractLsb' 33 1, dira := w.extractLsb' 32 1,
     tk := w.extractLsb' 22 10, tn := w.extractLsb' 16 6, tm := w.extractLsb' 11 5, he := w.extractLsb' 10 1,
     ge := w.extractLsb' 9 1, hnd := w.extractLsb' 5 4, gs := w.extractLsb' 4 1, gsl := w.extractLsb' 0 4 })

/-- The engine descriptor's word, reserved bits zero (R35). -/
def joinDesc (e : EDesc) : BitVec 64 :=
  0#2 ++ e.base ++ e.mc ++ e.plb ++ e.pla ++ e.lat ++ e.acc ++ e.dirb ++ e.dira ++ e.tk ++ e.tn ++ e.tm ++ e.he ++ e.ge
    ++ e.hnd ++ e.gs ++ e.gsl

/-- Answer `i` when the fields the entry does not use are zero (R91, R228). -/
def ifZero (unused : Bool) (i : Instr) : Option Instr := if unused then some i else none

section Groups
variable (f : Fields)

/-- C of an F-RRR instruction that has no MOD element, or none where MOD is not zero (R30). -/
def onlyC : Option Fld := if f.x.extractLsb' 6 19 = 0#19 then some (f.x.extractLsb' 0 6) else none

/-- A plain F-RRR instruction: C and MOD zero. -/
def rrr (unused : Bool) (i : Instr) : Option Instr := ifZero (unused && f.x == 0#25) i

/-- A vector instruction: reserved bits zero, C zero where `c0`, and its MOD. -/
def vec (unused c0 : Bool) (i : VMod → Fld → Instr) : Option Instr :=
  let r := splitRrr f.x
  ifZero (unused && r.rsv == 0#5 && (!c0 || r.c == 0#6)) (i r.m r.c)

/-- The fields zero in word 0: D. -/
def d0 : Bool := f.d == 0#6
/-- A is zero. -/
def a0 : Bool := f.a == 0#6
/-- B is zero. -/
def b0 : Bool := f.b == 0#6

/-- SYS (R92 to R98, R245). -/
def decodeSys : Option Instr :=
  match f.fn.toNat with
  | 0 => rrr f (d0 f && a0 f && b0 f) .nop
  | 1 => ifZero (d0 f && a0 f && b0 f) (.trap f.x)
  | 2 => ifZero (d0 f && a0 f && b0 f) (.bkpt f.x)
  | 3 => rrr f (d0 f && b0 f) (.eret f.a)
  | 4 => ifZero (a0 f && b0 f && f.x.extractLsb' 12 13 == 0#13) (.sysr f.d (f.x.extractLsb' 0 12))
  | 5 => ifZero (d0 f && b0 f && f.x.extractLsb' 12 13 == 0#13)
      (if f.x.extractLsb' 0 12 = 0x060#12 then .stopstClear f.a else .sysw (f.x.extractLsb' 0 12) f.a)
  | 6 => do let c ← onlyC f; ifZero (a0 f && b0 f) (.evpop f.d c)
  | 7 => rrr f (d0 f && a0 f && b0 f) .evwait
  | _ => none

/-- ALU (R77). -/
def decodeAlu : Option Instr :=
  match f.fn.toNat with
  | 0 => rrr f true (.add f.d f.a f.b)
  | 1 => rrr f true (.sub f.d f.a f.b)
  | 2 => rrr f true (.and f.d f.a f.b)
  | 3 => rrr f true (.or f.d f.a f.b)
  | 4 => rrr f true (.xor f.d f.a f.b)
  | 5 => rrr f true (.andn f.d f.a f.b)
  | 6 => rrr f true (.shl f.d f.a f.b)
  | 7 => rrr f true (.shr f.d f.a f.b)
  | 8 => rrr f true (.sar f.d f.a f.b)
  | 9 => rrr f true (.rol f.d f.a f.b)
  | 10 => rrr f true (.ror f.d f.a f.b)
  | 11 => rrr f true (.min f.d f.a f.b)
  | 12 => rrr f true (.max f.d f.a f.b)
  | 13 => rrr f true (.minu f.d f.a f.b)
  | 14 => rrr f true (.maxu f.d f.a f.b)
  | 15 => do let c ← onlyC f; some (.sel f.d f.a f.b c)
  | 16 => rrr f (b0 f) (.abs f.d f.a)
  | _ => none

/-- ALUI (R78). -/
def decodeAlui : Option Instr :=
  let sh : Fld := f.x.extractLsb' 0 6
  let shOk : Bool := b0 f && f.x.extractLsb' 6 19 == 0#19
  match f.fn.toNat with
  | 0 => ifZero (b0 f) (.addi f.d f.a f.x)
  | 1 => ifZero (b0 f) (.andi f.d f.a f.x)
  | 2 => ifZero (b0 f) (.ori f.d f.a f.x)
  | 3 => ifZero (b0 f) (.xori f.d f.a f.x)
  | 4 => ifZero shOk (.shli f.d f.a sh)
  | 5 => ifZero shOk (.shri f.d f.a sh)
  | 6 => ifZero shOk (.sari f.d f.a sh)
  | _ => none

/-- MULDIV (R79). -/
def decodeMuldiv : Option Instr :=
  match f.fn.toNat with
  | 0 => rrr f true (.mul f.d f.a f.b)
  | 1 => rrr f true (.mulh f.d f.a f.b)
  | 2 => rrr f true (.mulhu f.d f.a f.b)
  | 3 => rrr f true (.div f.d f.a f.b)
  | 4 => rrr f true (.divu f.d f.a f.b)
  | 5 => rrr f true (.rem f.d f.a f.b)
  | 6 => rrr f true (.remu f.d f.a f.b)
  | _ => none

/-- CMP (R81). -/
def decodeCmp : Option Instr :=
  match f.fn.toNat with
  | 0 => do let c ← onlyC f; some (.cmp c f.d f.a f.b)
  | 1 => ifZero (b0 f) (.cmpi (f.x.extractLsb' 0 4) f.d f.a (f.x.extractLsb' 4 21))
  | 2 => rrr f true (.pand f.d f.a f.b)
  | 3 => rrr f true (.por f.d f.a f.b)
  | 4 => rrr f true (.pxor f.d f.a f.b)
  | 5 => rrr f true (.pandn f.d f.a f.b)
  | 6 => rrr f (b0 f) (.pnot f.d f.a)
  | 7 => rrr f (d0 f && b0 f) (.pset f.a)
  | 8 => rrr f (a0 f && b0 f) (.pget f.d)
  | _ => none

/-- BIT (R82). -/
def decodeBit : Option Instr :=
  let pos : Fld := f.x.extractLsb' 0 6
  let wm1 : Fld := f.x.extractLsb' 6 6
  let ok : Bool := b0 f && f.x.extractLsb' 12 13 == 0#13
  match f.fn.toNat with
  | 0 => rrr f (b0 f) (.clz f.d f.a)
  | 1 => rrr f (b0 f) (.ctz f.d f.a)
  | 2 => rrr f (b0 f) (.popc f.d f.a)
  | 3 => rrr f (b0 f) (.bswap f.d f.a)
  | 4 => ifZero ok (.bfx f.d f.a pos wm1)
  | 5 => ifZero ok (.bfxu f.d f.a pos wm1)
  | 6 => ifZero ok (.bfi f.d f.a pos wm1)
  | _ => none

/-- CONST (R84, R147), with IMM32 in `imm`. -/
def decodeConst (imm : BitVec 32) : Option Instr :=
  let ab0 : Bool := a0 f && b0 f
  match f.fn.toNat with
  | 0 => rrr f ab0 (.movi f.d imm)
  | 1 => rrr f ab0 (.movhi f.d imm)
  | 2 => rrr f ab0 (.ldl f.d imm)
  | 3 => rrr f ab0 (.addpc f.d imm)
  | 4 => ifZero (ab0 && f.x.extractLsb' 9 16 == 0#16 && f.x.extractLsb' 0 6 == 0#6) (.vldl f.d (f.x.extractLsb' 6 3) imm)
  | _ => none

/-- LOAD (R87). -/
def decodeLoad : Option Instr :=
  let m := splitMem f.x
  match f.fn.toNat with
  | 0 => ifZero (b0 f && m.aop == 0#4) (.ld f.d f.a m.f m.off)
  | 1 => ifZero (b0 f && m.aop == 0#4 && m.off.extractLsb' 6 10 == 0#10) (.ldx f.d f.a (m.off.extractLsb' 0 6) m.f)
  | _ => none

/-- STORE (R87). -/
def decodeStore : Option Instr :=
  let m := splitMem f.x
  match f.fn.toNat with
  | 0 => ifZero (d0 f && m.aop == 0#4) (.st f.b f.a m.f m.off)
  | 1 => ifZero (d0 f && m.aop == 0#4 && m.off.extractLsb' 6 10 == 0#10) (.stx f.b f.a (m.off.extractLsb' 0 6) m.f)
  | _ => none

/-- ATOM (R173). -/
def decodeAtom : Option Instr :=
  let m := splitMem f.x
  match f.fn.toNat with
  | 0 => some (.amo m.aop f.d f.b f.a m.f m.off)
  | 1 => ifZero (m.aop == 0#4) (.cas f.d f.b f.a m.f m.off)
  | _ => none

/-- ORDER (R175). -/
def decodeOrder : Option Instr :=
  match f.fn.toNat with
  | 0 => ifZero (d0 f && a0 f && b0 f && f.x.extractLsb' 5 20 == 0#20) (.fence (f.x.extractLsb' 3 2) (f.x.extractLsb' 0 3))
  | _ => none

/-- BRANCH (R99). -/
def decodeBranch : Option Instr :=
  match f.fn.toNat with
  | 0 => ifZero (d0 f && a0 f && b0 f) (.br f.x)
  | 1 => ifZero (d0 f && a0 f && b0 f) (.call f.x)
  | 2 => ifZero (a0 f && b0 f) (.loop f.d f.x)
  | _ => none

/-- INDIRECT (R100). -/
def decodeIndirect : Option Instr :=
  match f.fn.toNat with
  | 0 => rrr f (d0 f && b0 f) (.jmpr f.a)
  | 1 => rrr f (d0 f && b0 f) (.callr f.a)
  | 2 => rrr f (d0 f && a0 f && b0 f) .ret
  | _ => none

/-- CONTEXT (R101 to R106). -/
def decodeContext : Option Instr :=
  match f.fn.toNat with
  | 0 => rrr f (d0 f && a0 f && b0 f) .yield
  | 1 => some (.hstart (f.x.extractLsb' 0 3) f.d f.a f.b (f.x.extractLsb' 3 22))
  | 2 => rrr f (d0 f && a0 f && b0 f) .hend
  | 3 => rrr f (d0 f && b0 f) (.hwait f.a)
  | 4 => rrr f (d0 f && b0 f) (.hkill f.a)
  | 5 => some (.fork f.d f.a f.b f.x)
  | 6 => rrr f (d0 f && a0 f) (.join f.b)
  | 7 => rrr f (d0 f && a0 f) (.joinw f.b)
  | _ => none

/-- VFP (R136). -/
def decodeVfp : Option Instr :=
  match f.fn.toNat with
  | 0 => vec f true true fun m _ => .vadd f.d f.a f.b m
  | 1 => vec f true true fun m _ => .vsub f.d f.a f.b m
  | 2 => vec f true true fun m _ => .vmul f.d f.a f.b m
  | 3 => vec f true false fun m c => .vfma f.d f.a f.b c m
  | 4 => vec f true false fun m c => .vfms f.d f.a f.b c m
  | 5 => vec f true false fun m c => .vfnma f.d f.a f.b c m
  | 6 => vec f true true fun m _ => .vmin f.d f.a f.b m
  | 7 => vec f true true fun m _ => .vmax f.d f.a f.b m
  | 8 => vec f (b0 f) true fun m _ => .vabs f.d f.a m
  | 9 => vec f (b0 f) true fun m _ => .vneg f.d f.a m
  | _ => none

/-- VBIT (R137). -/
def decodeVbit : Option Instr :=
  match f.fn.toNat with
  | 0 => vec f true true fun m _ => .vand f.d f.a f.b m
  | 1 => vec f true true fun m _ => .vor f.d f.a f.b m
  | 2 => vec f true true fun m _ => .vxor f.d f.a f.b m
  | 3 => vec f true true fun m _ => .vshl f.d f.a f.b m
  | 4 => vec f true true fun m _ => .vshr f.d f.a f.b m
  | 5 => vec f true true fun m _ => .vsar f.d f.a f.b m
  | _ => none

/-- VMASK (R138, R139). -/
def decodeVmask : Option Instr :=
  match f.fn.toNat with
  | 0 => vec f true false fun m c => .vcmp c f.d f.a f.b m
  | 1 => vec f true false fun m c => .vsel f.d f.a f.b c m
  | 2 => rrr f true (.kand f.d f.a f.b)
  | 3 => rrr f true (.kor f.d f.a f.b)
  | 4 => rrr f true (.kxor f.d f.a f.b)
  | 5 => rrr f (b0 f) (.knot f.d f.a)
  | 6 => if f.x = 0#25 then ifZero (b0 f) (.kmovToMask f.d f.a)
         else if f.x = 1#25 then ifZero (b0 f) (.kmovFromMask f.d f.a) else none
  | _ => none

/-- VCVT (R140). -/
def decodeVcvt : Option Instr :=
  match f.fn.toNat with
  | 0 => vec f (f.b.extractLsb' 4 2 == 0#2) false fun m c => .vcvt c f.d f.a (f.b.extractLsb' 2 2) (f.b.extractLsb' 0 2) m
  | _ => none

/-- VSFU (R141). -/
def decodeVsfu : Option Instr :=
  match f.fn.toNat with
  | 0 => vec f (b0 f) true fun m _ => .vrcp f.d f.a m
  | 1 => vec f (b0 f) true fun m _ => .vrsq f.d f.a m
  | 2 => vec f (b0 f) true fun m _ => .vexp2 f.d f.a m
  | 3 => vec f (b0 f) true fun m _ => .vlog2 f.d f.a m
  | 4 => vec f (b0 f) true fun m _ => .vtanh f.d f.a m
  | _ => none

/-- VPERM (R143, R144). -/
def decodeVperm : Option Instr :=
  match f.fn.toNat with
  | 0 => vec f (b0 f) true fun m _ => .vbcast f.d f.a m
  | 1 => vec f true true fun m _ => .vext f.d f.a f.b m
  | 2 => vec f true true fun m _ => .vins f.d f.a f.b m
  | 3 => vec f true true fun m _ => .vperm f.d f.a f.b m
  | 4 => vec f true true fun m _ => .vrot f.d f.a f.b m
  | 5 => vec f (b0 f) true fun m _ => .vredadd f.d f.a m
  | 6 => vec f (b0 f) true fun m _ => .vredmax f.d f.a m
  | 7 => vec f (b0 f) true fun m _ => .vredmin f.d f.a m
  | 8 => vec f (b0 f) true fun m _ => .vscan f.d f.a m
  | _ => none

/-- VMEM (R145). -/
def decodeVmem : Option Instr :=
  match f.fn.toNat with
  | 0 => vec f (b0 f) true fun m _ => .vld f.d f.a m
  | 1 => vec f (d0 f) true fun m _ => .vst f.b f.a m
  | 2 => vec f true true fun m _ => .vlds f.d f.a f.b m
  | 3 => vec f (d0 f) false fun m c => .vsts f.b f.a c m
  | 4 => vec f true true fun m _ => .vgath f.d f.a f.b m
  | 5 => vec f (d0 f) false fun m c => .vscat f.b f.a c m
  | _ => none

/-- VATTN (R149 to R153). -/
def decodeVattn : Option Instr :=
  let c : Fld := f.x.extractLsb' 0 6
  match f.fn.toNat with
  | 0 => vec f true true fun m _ => .vsmax f.d f.a f.b m
  | 1 => if c = 0#6 then vec f true false fun m _ => .vsexpP f.d f.a f.b m
         else if c = 1#6 then vec f (b0 f) false fun m _ => .vsexpAcc f.d f.a m
         else if c = 2#6 then vec f true false fun m _ => .vsexpNorm f.d f.a f.b m else none
  | 2 => vec f true false fun m c => .rotapp f.d f.a f.b c m
  | 3 => ifZero (d0 f && b0 f && f.x.extractLsb' 3 22 == 0#22) (.rotcfg (f.x.extractLsb' 0 3) f.a)
  | _ => none

/-- MTILE (R158), with the engine descriptor in `hi`. -/
def decodeMtile (hi : BitVec 64) : Option Instr :=
  let r := splitDesc hi
  let ok : Bool := r.1 == 0#2
  match f.fn.toNat with
  | 0 => vec f (ok && d0 f && b0 f) false fun m c => .latch f.a c m r.2
  | 1 => vec f ok false fun m c => .gath f.d f.a f.b c m r.2
  | 2 => vec f (ok && d0 f && b0 f) true fun m _ => .mepi f.a m r.2
  | 3 => vec f (ok && d0 f) true fun m _ => .tmm f.a f.b m r.2
  | _ => none

/-- MMAC (R164 to R166). -/
def decodeMmac : Option Instr :=
  let h : BitVec 1 := f.x.extractLsb' 0 1
  match f.fn.toNat with
  | 0 => vec f true true fun m _ => .mma f.d f.a f.b m
  | 1 => vec f true true fun m _ => .pmma f.d f.a f.b m
  | 2 => rrr f (a0 f && b0 f) (.mzero f.d)
  | 3 => ifZero (f.x.extractLsb' 1 24 == 0#24) (.mrd f.d f.a f.b h)
  | 4 => vec f (f.x.extractLsb' 1 5 == 0#5) false fun m _ => .mwr f.d f.a f.b h m
  | 5 => ifZero (d0 f && a0 f && b0 f && f.x.extractLsb' 16 9 == 0#9)
      (.mcfg (f.x.extractLsb' 0 2) (f.x.extractLsb' 2 2) (f.x.extractLsb' 4 6) (f.x.extractLsb' 10 6))
  | _ => none

/-- HANDLE (R169). -/
def decodeHandle : Option Instr :=
  let n : BitVec 7 := f.x.extractLsb' 0 7
  let cnt : Bool := d0 f && a0 f && f.x.extractLsb' 7 18 == 0#18
  let sl : Fld := f.x.extractLsb' 0 6
  let slOk : Bool := f.x.extractLsb' 6 19 == 0#19
  match f.fn.toNat with
  | 0 => ifZero (d0 f && f.x.extractLsb' 19 6 == 0#6) (.hinit f.b f.a (f.x.extractLsb' 6 13) sl)
  | 1 => ifZero cnt (.hwaitf f.b n)
  | 2 => ifZero cnt (.hwaite f.b n)
  | 3 => ifZero cnt (.hadv f.b n)
  | 4 => ifZero cnt (.hpub f.b n)
  | 5 => ifZero (d0 f && slOk) (.hexp f.b f.a sl)
  | 6 => ifZero (a0 f && slOk) (.hst f.d f.b sl)
  | _ => none

/-- GUARD (R171). -/
def decodeGuard : Option Instr :=
  match f.fn.toNat with
  | 0 => rrr f (d0 f) (.gset f.b f.a)
  | 1 => rrr f (d0 f && a0 f) (.gclr f.b)
  | 2 => rrr f (a0 f) (.gst f.d f.b)
  | _ => none

/-- TAG (R172). -/
def decodeTag : Option Instr :=
  match f.fn.toNat with
  | 0 => rrr f (b0 f) (.lookup f.d f.a)
  | 1 => rrr f (d0 f) (.tagw f.a f.b)
  | 2 => if f.x = 0#25 then ifZero (d0 f && b0 f) (.taginvSlot f.a)
         else if f.x = 1#25 then ifZero (d0 f && b0 f) (.taginvLine f.a) else none
  | _ => none

/-- C, and the two slot bits of MOD [46:45] (R201). -/
def cSlot : Option (Fld × BitVec 2) :=
  if f.x.extractLsb' 8 17 = 0#17 then some (f.x.extractLsb' 0 6, f.x.extractLsb' 6 2) else none

/-- ROPE-EDIT (R201). -/
def decodeRopeEdit : Option Instr :=
  match f.fn.toNat with
  | 0 => do let (c, s) ← cSlot f; some (.rnew f.d f.a f.b c s)
  | 1 => do let c ← onlyC f; some (.rcat f.d f.a f.b c)
  | 2 => do let c ← onlyC f; some (.rsplit f.d f.a f.b c)
  | 3 => do let c ← onlyC f; some (.rsplice f.d f.a f.b c)
  | 4 => do let (c, s) ← cSlot f; some (.rapp f.d f.a f.b c s)
  | _ => none

/-- ROPE-QUERY (R202). -/
def decodeRopeQuery : Option Instr :=
  let sl : BitVec 2 := f.x.extractLsb' 0 2
  let fix : BitVec 1 := f.x.extractLsb' 2 1
  match f.fn.toNat with
  | 0 => rrr f true (.ridx f.d f.a f.b)
  | 1 => ifZero (f.x.extractLsb' 2 23 == 0#23) (.rsum f.d f.a f.b sl)
  | 2 => rrr f (b0 f) (.rlen f.d f.a)
  | 3 => rrr f true (.rwalk f.d f.a f.b)
  | 4 => ifZero (f.x.extractLsb' 3 22 == 0#22)
      (if fix = 1#1 then .rvalidFix f.d f.a f.b sl else .rvalidChk f.d f.a f.b sl)
  | _ => none

/-- ROPE-REF (R203). -/
def decodeRopeRef : Option Instr :=
  let c : Fld := f.x.extractLsb' 0 6
  match f.fn.toNat with
  | 0 => rrr f (b0 f) (.rtake f.d f.a)
  | 1 => if f.x.extractLsb' 6 19 = 0#19 then ifZero (c == 0#6) (.rpub f.d f.a f.b)
         else if f.x.extractLsb' 6 19 = 1#19 then some (.rpubCmp f.d f.a f.b c) else none
  | 2 => rrr f (d0 f && b0 f) (.rrel f.a)
  | 3 => ifZero (d0 f && b0 f && f.x.extractLsb' 2 23 == 0#23) (.rdecl (f.x.extractLsb' 0 2) f.a)
  | _ => none

/-- AMSG (R230 to R232). -/
def decodeAmsg : Option Instr :=
  let c : Fld := f.x.extractLsb' 0 6
  match f.fn.toNat with
  | 0 => do let c ← onlyC f; ifZero (d0 f) (.amsend f.a f.b c)
  | 1 => rrr f (d0 f && b0 f) (.amreply f.a)
  | 2 => rrr f (d0 f && a0 f && b0 f) .amret
  | 3 => ifZero (d0 f && f.x.extractLsb' 9 16 == 0#16) (.rsst (f.x.extractLsb' 6 3) f.a f.b c)
  | 4 => ifZero (d0 f && f.x.extractLsb' 11 14 == 0#14) (.ramo (f.x.extractLsb' 6 4) (f.x.extractLsb' 10 1) f.a f.b c)
  | _ => none

/-- ROLE (R233). -/
def decodeRole : Option Instr :=
  match f.fn.toNat with
  | 0 => rrr f (a0 f && b0 f) (.role f.d)
  | 1 => ifZero (d0 f && b0 f && f.x.extractLsb' 3 22 == 0#22) (.recast f.a (f.x.extractLsb' 0 3))
  | _ => none

/-- COPY (R234 to R236). -/
def decodeCopy : Option Instr :=
  let ix : BitVec 4 := f.x.extractLsb' 0 4
  let ixOk : Bool := b0 f && f.x.extractLsb' 4 21 == 0#21
  match f.fn.toNat with
  | 0 => ifZero (ixOk && d0 f) (.cew ix f.a)
  | 1 => ifZero (ixOk && a0 f) (.cer f.d ix)
  | 2 => rrr f (a0 f && b0 f) (.celaunch f.d)
  | 3 => rrr f (b0 f) (.cewait f.d f.a)
  | 4 => rrr f (b0 f) (.cepoll f.d f.a)
  | _ => none

/-- PRESS (R237 to R247). -/
def decodePress : Option Instr :=
  let p : BitVec 3 := f.x.extractLsb' 0 3
  let pOk : Bool := f.x.extractLsb' 3 22 == 0#22
  match f.fn.toNat with
  | 0 => ifZero (pOk && b0 f) (.prq p f.d f.a)
  | 1 => rrr f (b0 f) (.prget f.d f.a)
  | 2 => ifZero pOk (.tkpair p f.d f.a f.b)
  | 3 => ifZero pOk (.tkhash p f.d f.a f.b)
  | 4 => if f.x.extractLsb' 3 22 = 1#22 then ifZero (a0 f) (.tkemitFlush p f.d f.b)
         else ifZero pOk (.tkemit p f.d f.a f.b)
  | 5 => ifZero (d0 f && f.x.extractLsb' 4 21 == 0#21) (.stopld (f.x.extractLsb' 0 4) f.a f.b)
  | 6 => vec f true false fun m c => .vmaskl f.d f.a f.b c m
  | _ => none

/-- GRAPH (R265 to R270). -/
def decodeGraph : Option Instr :=
  match f.fn.toNat with
  | 0 => rrr f (b0 f) (.nspawn f.d f.a)
  | 1 => rrr f (d0 f && a0 f && b0 f) .nend
  | 2 => if f.x = 0#25 then ifZero (b0 f) (.ndepAdd f.d f.a)
         else if f.x = 1#25 then ifZero (b0 f) (.ndepSub f.d f.a) else none
  | 3 => rrr f true (.nprio f.d f.a f.b)
  | 4 => ifZero (b0 f && f.x.extractLsb' 4 21 == 0#21) (.nqry f.d f.a (f.x.extractLsb' 0 4))
  | _ => none

/-- CADENCE (R278). -/
def decodeCadence : Option Instr :=
  match f.fn.toNat with
  | 0 => ifZero (b0 f && f.x.extractLsb' 3 22 == 0#22) (.cddef f.d f.a (f.x.extractLsb' 0 3))
  | 1 => rrr f (b0 f) (.cdsweep f.d f.a)
  | 2 => rrr f (a0 f && b0 f) (.cdnext f.d)
  | 3 => rrr f (d0 f) (.cdpost f.a f.b)
  | 4 => rrr f (b0 f) (.cdread f.d f.a)
  | 5 => rrr f (d0 f) (.cdpin f.a f.b)
  | _ => none

/-- RELIAB (R312). -/
def decodeReliab : Option Instr :=
  match f.fn.toNat with
  | 0 => rrr f (d0 f && b0 f) (.sealCore f.a)
  | 1 => rrr f (d0 f) (.errsend f.a f.b)
  | 2 => rrr f (b0 f) (.scanrun f.d f.a)
  | 3 => rrr f (d0 f) (.quar f.a f.b)
  | 4 => if f.x = 0#25 then ifZero (b0 f) (.suspr f.d f.a)
         else if f.x = 1#25 then some (.susprW f.d f.a f.b) else none
  | _ => none

/-- XLAT (R318). -/
def decodeXlat : Option Instr :=
  match f.fn.toNat with
  | 0 => rrr f (d0 f) (.tlbw f.a f.b)
  | 1 => ifZero (f.x.extractLsb' 2 23 == 0#23) (.tlbinv f.d f.a f.b (f.x.extractLsb' 0 2))
  | 2 => do let c ← onlyC f; ifZero (b0 f) (.harvest f.d c f.a)
  | 3 => do let c ← onlyC f; ifZero (b0 f) (.tlbr f.d c f.a)
  | _ => none

/-- COLL (R374). -/
def decodeColl : Option Instr :=
  match f.fn.toNat with
  | 0 => rrr f (b0 f) (.clred f.d f.a)
  | 1 => rrr f (b0 f) (.clgat f.d f.a)
  | 2 => rrr f (b0 f) (.clbar f.d f.a)
  | 3 => rrr f (b0 f) (.clwait f.d f.a)
  | _ => none

/-- The debug major (R363). -/
def decodeDebug : Option Instr :=
  match f.fn.toNat with
  | 0 => rrr f (d0 f && b0 f) (.dhalt f.a)
  | 1 => rrr f (d0 f && b0 f) (.drun f.a)
  | 2 => rrr f true (.drdr f.d f.a f.b)
  | 3 => do let c ← onlyC f; ifZero (d0 f) (.dwrr f.a f.b c)
  | _ => none

end Groups

/-- The instruction that word 0's fields and the bits `hi` above word 0 hold (R41), before the codes are checked. -/
def decodeFields (f : Fields) (hi : BitVec 64) : Option Instr :=
  match f.maj.toNat with
  | 0x00 => decodeSys f
  | 0x01 => decodeAlu f
  | 0x02 => decodeAlui f
  | 0x03 => decodeMuldiv f
  | 0x04 => decodeCmp f
  | 0x05 => decodeBit f
  | 0x06 => decodeConst f (hi.extractLsb' 0 32)
  | 0x07 => decodeLoad f
  | 0x08 => decodeStore f
  | 0x09 => decodeAtom f
  | 0x0A => decodeOrder f
  | 0x0B => decodeBranch f
  | 0x0C => decodeIndirect f
  | 0x0D => decodeContext f
  | 0x10 => decodeVfp f
  | 0x11 => decodeVbit f
  | 0x12 => decodeVmask f
  | 0x13 => decodeVcvt f
  | 0x14 => decodeVsfu f
  | 0x15 => decodeVperm f
  | 0x16 => decodeVmem f
  | 0x17 => decodeVattn f
  | 0x18 => decodeMtile f hi
  | 0x19 => decodeMmac f
  | 0x1C => decodeHandle f
  | 0x1D => decodeGuard f
  | 0x1E => decodeTag f
  | 0x20 => decodeRopeEdit f
  | 0x21 => decodeRopeQuery f
  | 0x22 => decodeRopeRef f
  | 0x24 => decodeAmsg f
  | 0x25 => decodeRole f
  | 0x26 => decodeCopy f
  | 0x27 => decodePress f
  | 0x28 => decodeGraph f
  | 0x29 => decodeCadence f
  | 0x2A => decodeReliab f
  | 0x2B => decodeXlat f
  | 0x2C => decodeColl f
  | 0x3F => decodeDebug f
  | _ => none

/-- How many function codes each major assigns (R41, R363); none for a reserved major. -/
def majorFns (maj : BitVec 6) : Option Nat :=
  match maj.toNat with
  | 0x00 => some 8 | 0x01 => some 17 | 0x02 => some 7 | 0x03 => some 7 | 0x04 => some 9 | 0x05 => some 7 | 0x06 => some 5
  | 0x07 => some 2 | 0x08 => some 2 | 0x09 => some 2 | 0x0A => some 1 | 0x0B => some 3 | 0x0C => some 3 | 0x0D => some 8
  | 0x10 => some 10 | 0x11 => some 6 | 0x12 => some 7 | 0x13 => some 1 | 0x14 => some 5 | 0x15 => some 9 | 0x16 => some 6
  | 0x17 => some 4 | 0x18 => some 4 | 0x19 => some 6 | 0x1C => some 7 | 0x1D => some 3 | 0x1E => some 3 | 0x20 => some 5
  | 0x21 => some 5 | 0x22 => some 4 | 0x24 => some 5 | 0x25 => some 2 | 0x26 => some 5 | 0x27 => some 7 | 0x28 => some 5
  | 0x29 => some 6 | 0x2A => some 5 | 0x2B => some 4 | 0x2C => some 4 | 0x3F => some 4
  | _ => none

/-- The LEN code of a major's instructions (R41). -/
def majorLen (maj : BitVec 6) : BitVec 2 :=
  match maj.toNat with
  | 0x06 => 1#2
  | 0x18 => 2#2
  | _ => 0#2

/-- The [S] instructions (R41, R42). -/
def supervisorOnly (maj : BitVec 6) (fn : BitVec 9) : Bool :=
  match maj.toNat with
  | 0x00 => fn == 3#9
  | 0x25 => fn == 1#9
  | 0x2A | 0x2B => true
  | _ => false

/-- Why a word is no instruction here: the step of R43 that stops it. -/
inductive DecodeError where
  | fetchControl | crossesBlock | reservedMajor | debugPriv | wrongLength | unassignedFn | supervisor | predicateCode
  | reservedCode
  deriving DecidableEq, Repr

/-- Whether the trap is PRIV; every other one is ILLEGAL (R43). -/
def DecodeError.isPriv : DecodeError → Bool
  | .debugPriv | .supervisor => true
  | _ => false

/-- A decoded instruction with its predicate field PR (R27). -/
structure Packet where
  pr : BitVec 4
  op : Instr
  deriving DecidableEq, Repr

/-- Bytes read as a little-endian number (R26). -/
def leNat : List Byte → Nat
  | [] => 0
  | b :: bs => b.toNat + 256 * leNat bs

/-- The `n` low bytes of a number, lowest first (R26). -/
def leBytes : Nat → Nat → List Byte
  | 0, _ => []
  | n + 1, v => BitVec.ofNat 8 v :: leBytes n (v / 256)

/-- The bytes that LEN calls for (R25). -/
def lenBytes (len : BitVec 2) : Nat :=
  match len.toNat with
  | 0 => 8 | 1 => 12 | 2 => 16 | _ => 4

/-- A fetch-control word (R39, R40). -/
def decodeControl (w : BitVec 32) : Except DecodeError Packet :=
  if w = 0x00000003#32 then .ok ⟨0#4, .pad⟩
  else if w.extractLsb' 16 16 = 0#16 ∧ w.extractLsb' 0 8 = 0x07#8 ∧ w.extractLsb' 8 8 ≠ 0#8 then
    .ok ⟨0#4, .pool (w.extractLsb' 8 8)⟩
  else .error .fetchControl

/-- Steps 3 to 10 of R43 on word 0 and the bits above it, at a level (`sup`) and under invasive debug or not. -/
def decodeWord (sup dbg : Bool) (w hi : BitVec 64) : Except DecodeError Packet :=
  let f := splitWord w
  match majorFns f.maj with
  | none => .error .reservedMajor
  | some fns =>
    if f.maj = 0x3F#6 ∧ !(sup && dbg) then .error .debugPriv
    else if f.len ≠ majorLen f.maj then .error .wrongLength
    else if fns ≤ f.fn.toNat then .error .unassignedFn
    else if supervisorOnly f.maj f.fn ∧ !sup then .error .supervisor
    else if f.pr = 8#4 then .error .predicateCode
    else match decodeFields f hi with
      | none => .error .reservedCode
      | some i => if i.wf then .ok ⟨f.pr, i⟩ else .error .reservedCode

/-- R43, steps 1 to 10, on the bytes from the fetched address to the end of its fetch block. -/
def decode (sup dbg : Bool) (bytes : List Byte) : Except DecodeError Packet :=
  let w0 := leNat (bytes.take 8)
  let len := BitVec.ofNat 2 w0
  if len = 3#2 then decodeControl (BitVec.ofNat 32 (leNat (bytes.take 4)))
  else if bytes.length < lenBytes len then .error .crossesBlock
  else decodeWord sup dbg (BitVec.ofNat 64 w0) (BitVec.ofNat 64 (leNat ((bytes.drop 8).take (lenBytes len - 8))))

/-- The instruction the decoder reads from a word numbered as the opcode table numbers it. -/
def decodeTableWord (nbits w : Nat) : Option Instr :=
  match decode true true (leBytes (nbits / 8) w ++ List.replicate (32 - nbits / 8) 0#8) with
  | .ok p => some p.op
  | .error _ => none

/-!
### The encoder, from the same tables (R25 to R41)
-/

/-- MOD with every element at its default (R30). -/
def VMod.none : VMod := ⟨0#3, 0#3, 0#1, 0#3, 0#3, 0#1⟩

/-- Word 0's fields for a major, a function code, D, A, B and X; PR is put in by `encode`. -/
def mkFields (maj : BitVec 6) (fn : BitVec 9) (d a b : Fld) (x : BitVec 25) : Fields where
  x := x
  fn := fn
  b := b
  a := a
  d := d
  pr := 0#4
  maj := maj
  len := majorLen maj

/-- X holding C alone (R29). -/
def xC (c : Fld) : BitVec 25 := 0#19 ++ c

/-- X holding C and MOD (R29). -/
def xV (c : Fld) (m : VMod) : BitVec 25 := joinRrr ⟨0#5, m, c⟩

/-- X of F-MEM (R32). -/
def xM (aop : BitVec 4) (f : MemForm) (off : BitVec 16) : BitVec 25 := joinMem ⟨aop, f, off⟩

/-- Word 0's fields and the bits above word 0 of an instruction of R41 or R363; none for PAD, POOL and the events. -/
def Instr.fields : Instr → Option (Fields × BitVec 64)
  | .nop => some (mkFields 0x00#6 0#9 0#6 0#6 0#6 (0#25), 0#64)
  | .trap imm => some (mkFields 0x00#6 1#9 0#6 0#6 0#6 (imm), 0#64)
  | .bkpt imm => some (mkFields 0x00#6 2#9 0#6 0#6 0#6 (imm), 0#64)
  | .eret a => some (mkFields 0x00#6 3#9 0#6 a 0#6 (0#25), 0#64)
  | .sysr d num => some (mkFields 0x00#6 4#9 d 0#6 0#6 (0#13 ++ num), 0#64)
  | .sysw num a => some (mkFields 0x00#6 5#9 0#6 a 0#6 (0#13 ++ num), 0#64)
  | .stopstClear a => some (mkFields 0x00#6 5#9 0#6 a 0#6 (0#13 ++ 0x060#12), 0#64)
  | .evpop d c => some (mkFields 0x00#6 6#9 d 0#6 0#6 (xC c), 0#64)
  | .evwait => some (mkFields 0x00#6 7#9 0#6 0#6 0#6 (0#25), 0#64)
  | .add d a b => some (mkFields 0x01#6 0#9 d a b (0#25), 0#64)
  | .sub d a b => some (mkFields 0x01#6 1#9 d a b (0#25), 0#64)
  | .and d a b => some (mkFields 0x01#6 2#9 d a b (0#25), 0#64)
  | .or d a b => some (mkFields 0x01#6 3#9 d a b (0#25), 0#64)
  | .xor d a b => some (mkFields 0x01#6 4#9 d a b (0#25), 0#64)
  | .andn d a b => some (mkFields 0x01#6 5#9 d a b (0#25), 0#64)
  | .shl d a b => some (mkFields 0x01#6 6#9 d a b (0#25), 0#64)
  | .shr d a b => some (mkFields 0x01#6 7#9 d a b (0#25), 0#64)
  | .sar d a b => some (mkFields 0x01#6 8#9 d a b (0#25), 0#64)
  | .rol d a b => some (mkFields 0x01#6 9#9 d a b (0#25), 0#64)
  | .ror d a b => some (mkFields 0x01#6 10#9 d a b (0#25), 0#64)
  | .min d a b => some (mkFields 0x01#6 11#9 d a b (0#25), 0#64)
  | .max d a b => some (mkFields 0x01#6 12#9 d a b (0#25), 0#64)
  | .minu d a b => some (mkFields 0x01#6 13#9 d a b (0#25), 0#64)
  | .maxu d a b => some (mkFields 0x01#6 14#9 d a b (0#25), 0#64)
  | .sel d a b c => some (mkFields 0x01#6 15#9 d a b (xC c), 0#64)
  | .abs d a => some (mkFields 0x01#6 16#9 d a 0#6 (0#25), 0#64)
  | .addi d a imm => some (mkFields 0x02#6 0#9 d a 0#6 (imm), 0#64)
  | .andi d a imm => some (mkFields 0x02#6 1#9 d a 0#6 (imm), 0#64)
  | .ori d a imm => some (mkFields 0x02#6 2#9 d a 0#6 (imm), 0#64)
  | .xori d a imm => some (mkFields 0x02#6 3#9 d a 0#6 (imm), 0#64)
  | .shli d a sh => some (mkFields 0x02#6 4#9 d a 0#6 (xC sh), 0#64)
  | .shri d a sh => some (mkFields 0x02#6 5#9 d a 0#6 (xC sh), 0#64)
  | .sari d a sh => some (mkFields 0x02#6 6#9 d a 0#6 (xC sh), 0#64)
  | .mul d a b => some (mkFields 0x03#6 0#9 d a b (0#25), 0#64)
  | .mulh d a b => some (mkFields 0x03#6 1#9 d a b (0#25), 0#64)
  | .mulhu d a b => some (mkFields 0x03#6 2#9 d a b (0#25), 0#64)
  | .div d a b => some (mkFields 0x03#6 3#9 d a b (0#25), 0#64)
  | .divu d a b => some (mkFields 0x03#6 4#9 d a b (0#25), 0#64)
  | .rem d a b => some (mkFields 0x03#6 5#9 d a b (0#25), 0#64)
  | .remu d a b => some (mkFields 0x03#6 6#9 d a b (0#25), 0#64)
  | .cmp cc d a b => some (mkFields 0x04#6 0#9 d a b (xC cc), 0#64)
  | .cmpi cc d a imm => some (mkFields 0x04#6 1#9 d a 0#6 (imm ++ cc), 0#64)
  | .pand d a b => some (mkFields 0x04#6 2#9 d a b (0#25), 0#64)
  | .por d a b => some (mkFields 0x04#6 3#9 d a b (0#25), 0#64)
  | .pxor d a b => some (mkFields 0x04#6 4#9 d a b (0#25), 0#64)
  | .pandn d a b => some (mkFields 0x04#6 5#9 d a b (0#25), 0#64)
  | .pnot d a => some (mkFields 0x04#6 6#9 d a 0#6 (0#25), 0#64)
  | .pset a => some (mkFields 0x04#6 7#9 0#6 a 0#6 (0#25), 0#64)
  | .pget d => some (mkFields 0x04#6 8#9 d 0#6 0#6 (0#25), 0#64)
  | .clz d a => some (mkFields 0x05#6 0#9 d a 0#6 (0#25), 0#64)
  | .ctz d a => some (mkFields 0x05#6 1#9 d a 0#6 (0#25), 0#64)
  | .popc d a => some (mkFields 0x05#6 2#9 d a 0#6 (0#25), 0#64)
  | .bswap d a => some (mkFields 0x05#6 3#9 d a 0#6 (0#25), 0#64)
  | .bfx d a pos wm1 => some (mkFields 0x05#6 4#9 d a 0#6 (0#13 ++ wm1 ++ pos), 0#64)
  | .bfxu d a pos wm1 => some (mkFields 0x05#6 5#9 d a 0#6 (0#13 ++ wm1 ++ pos), 0#64)
  | .bfi d a pos wm1 => some (mkFields 0x05#6 6#9 d a 0#6 (0#13 ++ wm1 ++ pos), 0#64)
  | .movi d imm => some (mkFields 0x06#6 0#9 d 0#6 0#6 (0#25), 0#32 ++ imm)
  | .movhi d imm => some (mkFields 0x06#6 1#9 d 0#6 0#6 (0#25), 0#32 ++ imm)
  | .ldl d imm => some (mkFields 0x06#6 2#9 d 0#6 0#6 (0#25), 0#32 ++ imm)
  | .addpc d imm => some (mkFields 0x06#6 3#9 d 0#6 0#6 (0#25), 0#32 ++ imm)
  | .vldl d ty imm => some (mkFields 0x06#6 4#9 d 0#6 0#6 (0#16 ++ ty ++ 0#6), 0#32 ++ imm)
  | .ld d a f off => some (mkFields 0x07#6 0#9 d a 0#6 (xM 0#4 f off), 0#64)
  | .ldx d a ix f => some (mkFields 0x07#6 1#9 d a 0#6 (xM 0#4 f (0#10 ++ ix)), 0#64)
  | .st b a f off => some (mkFields 0x08#6 0#9 0#6 a b (xM 0#4 f off), 0#64)
  | .stx b a ix f => some (mkFields 0x08#6 1#9 0#6 a b (xM 0#4 f (0#10 ++ ix)), 0#64)
  | .amo aop d b a f off => some (mkFields 0x09#6 0#9 d a b (xM aop f off), 0#64)
  | .cas d b a f off => some (mkFields 0x09#6 1#9 d a b (xM 0#4 f off), 0#64)
  | .fence kind scope => some (mkFields 0x0A#6 0#9 0#6 0#6 0#6 (0#20 ++ kind ++ scope), 0#64)
  | .br off => some (mkFields 0x0B#6 0#9 0#6 0#6 0#6 (off), 0#64)
  | .call off => some (mkFields 0x0B#6 1#9 0#6 0#6 0#6 (off), 0#64)
  | .loop d off => some (mkFields 0x0B#6 2#9 d 0#6 0#6 (off), 0#64)
  | .jmpr a => some (mkFields 0x0C#6 0#9 0#6 a 0#6 (0#25), 0#64)
  | .callr a => some (mkFields 0x0C#6 1#9 0#6 a 0#6 (0#25), 0#64)
  | .ret => some (mkFields 0x0C#6 2#9 0#6 0#6 0#6 (0#25), 0#64)
  | .yield => some (mkFields 0x0D#6 0#9 0#6 0#6 0#6 (0#25), 0#64)
  | .hstart pp d a sz off => some (mkFields 0x0D#6 1#9 d a sz (off ++ pp), 0#64)
  | .hend => some (mkFields 0x0D#6 2#9 0#6 0#6 0#6 (0#25), 0#64)
  | .hwait a => some (mkFields 0x0D#6 3#9 0#6 a 0#6 (0#25), 0#64)
  | .hkill a => some (mkFields 0x0D#6 4#9 0#6 a 0#6 (0#25), 0#64)
  | .fork d a n off => some (mkFields 0x0D#6 5#9 d a n (off), 0#64)
  | .join n => some (mkFields 0x0D#6 6#9 0#6 0#6 n (0#25), 0#64)
  | .joinw n => some (mkFields 0x0D#6 7#9 0#6 0#6 n (0#25), 0#64)
  | .vadd d a b m => some (mkFields 0x10#6 0#9 d a b (xV 0#6 m), 0#64)
  | .vsub d a b m => some (mkFields 0x10#6 1#9 d a b (xV 0#6 m), 0#64)
  | .vmul d a b m => some (mkFields 0x10#6 2#9 d a b (xV 0#6 m), 0#64)
  | .vfma d a b c m => some (mkFields 0x10#6 3#9 d a b (xV c m), 0#64)
  | .vfms d a b c m => some (mkFields 0x10#6 4#9 d a b (xV c m), 0#64)
  | .vfnma d a b c m => some (mkFields 0x10#6 5#9 d a b (xV c m), 0#64)
  | .vmin d a b m => some (mkFields 0x10#6 6#9 d a b (xV 0#6 m), 0#64)
  | .vmax d a b m => some (mkFields 0x10#6 7#9 d a b (xV 0#6 m), 0#64)
  | .vabs d a m => some (mkFields 0x10#6 8#9 d a 0#6 (xV 0#6 m), 0#64)
  | .vneg d a m => some (mkFields 0x10#6 9#9 d a 0#6 (xV 0#6 m), 0#64)
  | .vand d a b m => some (mkFields 0x11#6 0#9 d a b (xV 0#6 m), 0#64)
  | .vor d a b m => some (mkFields 0x11#6 1#9 d a b (xV 0#6 m), 0#64)
  | .vxor d a b m => some (mkFields 0x11#6 2#9 d a b (xV 0#6 m), 0#64)
  | .vshl d a b m => some (mkFields 0x11#6 3#9 d a b (xV 0#6 m), 0#64)
  | .vshr d a b m => some (mkFields 0x11#6 4#9 d a b (xV 0#6 m), 0#64)
  | .vsar d a b m => some (mkFields 0x11#6 5#9 d a b (xV 0#6 m), 0#64)
  | .vcmp cc d a b m => some (mkFields 0x12#6 0#9 d a b (xV cc m), 0#64)
  | .vsel d a b c m => some (mkFields 0x12#6 1#9 d a b (xV c m), 0#64)
  | .kand d a b => some (mkFields 0x12#6 2#9 d a b (0#25), 0#64)
  | .kor d a b => some (mkFields 0x12#6 3#9 d a b (0#25), 0#64)
  | .kxor d a b => some (mkFields 0x12#6 4#9 d a b (0#25), 0#64)
  | .knot d a => some (mkFields 0x12#6 5#9 d a 0#6 (0#25), 0#64)
  | .kmovToMask d a => some (mkFields 0x12#6 6#9 d a 0#6 (0#25), 0#64)
  | .kmovFromMask d a => some (mkFields 0x12#6 6#9 d a 0#6 (1#25), 0#64)
  | .vcvt src d a pd pa m => some (mkFields 0x13#6 0#9 d a (0#2 ++ pd ++ pa) (xV src m), 0#64)
  | .vrcp d a m => some (mkFields 0x14#6 0#9 d a 0#6 (xV 0#6 m), 0#64)
  | .vrsq d a m => some (mkFields 0x14#6 1#9 d a 0#6 (xV 0#6 m), 0#64)
  | .vexp2 d a m => some (mkFields 0x14#6 2#9 d a 0#6 (xV 0#6 m), 0#64)
  | .vlog2 d a m => some (mkFields 0x14#6 3#9 d a 0#6 (xV 0#6 m), 0#64)
  | .vtanh d a m => some (mkFields 0x14#6 4#9 d a 0#6 (xV 0#6 m), 0#64)
  | .vbcast d a m => some (mkFields 0x15#6 0#9 d a 0#6 (xV 0#6 m), 0#64)
  | .vext d a b m => some (mkFields 0x15#6 1#9 d a b (xV 0#6 m), 0#64)
  | .vins d a b m => some (mkFields 0x15#6 2#9 d a b (xV 0#6 m), 0#64)
  | .vperm d a b m => some (mkFields 0x15#6 3#9 d a b (xV 0#6 m), 0#64)
  | .vrot d a b m => some (mkFields 0x15#6 4#9 d a b (xV 0#6 m), 0#64)
  | .vredadd d a m => some (mkFields 0x15#6 5#9 d a 0#6 (xV 0#6 m), 0#64)
  | .vredmax d a m => some (mkFields 0x15#6 6#9 d a 0#6 (xV 0#6 m), 0#64)
  | .vredmin d a m => some (mkFields 0x15#6 7#9 d a 0#6 (xV 0#6 m), 0#64)
  | .vscan d a m => some (mkFields 0x15#6 8#9 d a 0#6 (xV 0#6 m), 0#64)
  | .vld d a m => some (mkFields 0x16#6 0#9 d a 0#6 (xV 0#6 m), 0#64)
  | .vst b a m => some (mkFields 0x16#6 1#9 0#6 a b (xV 0#6 m), 0#64)
  | .vlds d a b m => some (mkFields 0x16#6 2#9 d a b (xV 0#6 m), 0#64)
  | .vsts b a c m => some (mkFields 0x16#6 3#9 0#6 a b (xV c m), 0#64)
  | .vgath d a b m => some (mkFields 0x16#6 4#9 d a b (xV 0#6 m), 0#64)
  | .vscat b a c m => some (mkFields 0x16#6 5#9 0#6 a b (xV c m), 0#64)
  | .vsmax d a b m => some (mkFields 0x17#6 0#9 d a b (xV 0#6 m), 0#64)
  | .vsexpP d a b m => some (mkFields 0x17#6 1#9 d a b (xV 0#6 m), 0#64)
  | .vsexpAcc d a m => some (mkFields 0x17#6 1#9 d a 0#6 (xV 1#6 m), 0#64)
  | .vsexpNorm d a b m => some (mkFields 0x17#6 1#9 d a b (xV 2#6 m), 0#64)
  | .rotapp d a b band m => some (mkFields 0x17#6 2#9 d a b (xV band m), 0#64)
  | .rotcfg t a => some (mkFields 0x17#6 3#9 0#6 a 0#6 (0#22 ++ t), 0#64)
  | .latch a grp m e => some (mkFields 0x18#6 0#9 0#6 a 0#6 (xV grp m), joinDesc e)
  | .gath d a b grp m e => some (mkFields 0x18#6 1#9 d a b (xV grp m), joinDesc e)
  | .mepi a m e => some (mkFields 0x18#6 2#9 0#6 a 0#6 (xV 0#6 m), joinDesc e)
  | .tmm a b m e => some (mkFields 0x18#6 3#9 0#6 a b (xV 0#6 m), joinDesc e)
  | .mma d a b m => some (mkFields 0x19#6 0#9 d a b (xV 0#6 m), 0#64)
  | .pmma d a b m => some (mkFields 0x19#6 1#9 d a b (xV 0#6 m), 0#64)
  | .mzero d => some (mkFields 0x19#6 2#9 d 0#6 0#6 (0#25), 0#64)
  | .mrd d a b h => some (mkFields 0x19#6 3#9 d a b (0#24 ++ h), 0#64)
  | .mwr d a b h m => some (mkFields 0x19#6 4#9 d a b (xV (0#5 ++ h) m), 0#64)
  | .mcfg pa pb ga gb => some (mkFields 0x19#6 5#9 0#6 0#6 0#6 (0#9 ++ gb ++ ga ++ pb ++ pa), 0#64)
  | .hinit h a sz n => some (mkFields 0x1C#6 0#9 0#6 a h (0#6 ++ sz ++ n), 0#64)
  | .hwaitf h n => some (mkFields 0x1C#6 1#9 0#6 0#6 h (0#18 ++ n), 0#64)
  | .hwaite h n => some (mkFields 0x1C#6 2#9 0#6 0#6 h (0#18 ++ n), 0#64)
  | .hadv h n => some (mkFields 0x1C#6 3#9 0#6 0#6 h (0#18 ++ n), 0#64)
  | .hpub h n => some (mkFields 0x1C#6 4#9 0#6 0#6 h (0#18 ++ n), 0#64)
  | .hexp h a sd => some (mkFields 0x1C#6 5#9 0#6 a h (xC sd), 0#64)
  | .hst d h sd => some (mkFields 0x1C#6 6#9 d 0#6 h (xC sd), 0#64)
  | .gset gd a => some (mkFields 0x1D#6 0#9 0#6 a gd (0#25), 0#64)
  | .gclr gd => some (mkFields 0x1D#6 1#9 0#6 0#6 gd (0#25), 0#64)
  | .gst d gd => some (mkFields 0x1D#6 2#9 d 0#6 gd (0#25), 0#64)
  | .lookup d a => some (mkFields 0x1E#6 0#9 d a 0#6 (0#25), 0#64)
  | .tagw a b => some (mkFields 0x1E#6 1#9 0#6 a b (0#25), 0#64)
  | .taginvSlot a => some (mkFields 0x1E#6 2#9 0#6 a 0#6 (0#25), 0#64)
  | .taginvLine a => some (mkFields 0x1E#6 2#9 0#6 a 0#6 (1#25), 0#64)
  | .rnew d a b c sl => some (mkFields 0x20#6 0#9 d a b (0#17 ++ sl ++ c), 0#64)
  | .rcat d a b c => some (mkFields 0x20#6 1#9 d a b (xC c), 0#64)
  | .rsplit d a b c => some (mkFields 0x20#6 2#9 d a b (xC c), 0#64)
  | .rsplice d a b c => some (mkFields 0x20#6 3#9 d a b (xC c), 0#64)
  | .rapp d a b c sl => some (mkFields 0x20#6 4#9 d a b (0#17 ++ sl ++ c), 0#64)
  | .ridx d a b => some (mkFields 0x21#6 0#9 d a b (0#25), 0#64)
  | .rsum d a b sl => some (mkFields 0x21#6 1#9 d a b (0#23 ++ sl), 0#64)
  | .rlen d a => some (mkFields 0x21#6 2#9 d a 0#6 (0#25), 0#64)
  | .rwalk d a b => some (mkFields 0x21#6 3#9 d a b (0#25), 0#64)
  | .rvalidChk d a b sl => some (mkFields 0x21#6 4#9 d a b (0#23 ++ sl), 0#64)
  | .rvalidFix d a b sl => some (mkFields 0x21#6 4#9 d a b (0#22 ++ 1#1 ++ sl), 0#64)
  | .rtake d a => some (mkFields 0x22#6 0#9 d a 0#6 (0#25), 0#64)
  | .rpub d a b => some (mkFields 0x22#6 1#9 d a b (0#25), 0#64)
  | .rpubCmp d a b c => some (mkFields 0x22#6 1#9 d a b (1#19 ++ c), 0#64)
  | .rrel a => some (mkFields 0x22#6 2#9 0#6 a 0#6 (0#25), 0#64)
  | .rdecl sl a => some (mkFields 0x22#6 3#9 0#6 a 0#6 (0#23 ++ sl), 0#64)
  | .amsend a b c => some (mkFields 0x24#6 0#9 0#6 a b (xC c), 0#64)
  | .amreply a => some (mkFields 0x24#6 1#9 0#6 a 0#6 (0#25), 0#64)
  | .amret => some (mkFields 0x24#6 2#9 0#6 0#6 0#6 (0#25), 0#64)
  | .rsst wc a b c => some (mkFields 0x24#6 3#9 0#6 a b (0#16 ++ wc ++ c), 0#64)
  | .ramo aop sz a b c => some (mkFields 0x24#6 4#9 0#6 a b (0#14 ++ sz ++ aop ++ c), 0#64)
  | .role d => some (mkFields 0x25#6 0#9 d 0#6 0#6 (0#25), 0#64)
  | .recast a c => some (mkFields 0x25#6 1#9 0#6 a 0#6 (0#22 ++ c), 0#64)
  | .cew ix a => some (mkFields 0x26#6 0#9 0#6 a 0#6 (0#21 ++ ix), 0#64)
  | .cer d ix => some (mkFields 0x26#6 1#9 d 0#6 0#6 (0#21 ++ ix), 0#64)
  | .celaunch d => some (mkFields 0x26#6 2#9 d 0#6 0#6 (0#25), 0#64)
  | .cewait d a => some (mkFields 0x26#6 3#9 d a 0#6 (0#25), 0#64)
  | .cepoll d a => some (mkFields 0x26#6 4#9 d a 0#6 (0#25), 0#64)
  | .prq p d a => some (mkFields 0x27#6 0#9 d a 0#6 (0#22 ++ p), 0#64)
  | .prget d a => some (mkFields 0x27#6 1#9 d a 0#6 (0#25), 0#64)
  | .tkpair p d a b => some (mkFields 0x27#6 2#9 d a b (0#22 ++ p), 0#64)
  | .tkhash p d a b => some (mkFields 0x27#6 3#9 d a b (0#22 ++ p), 0#64)
  | .tkemit p d a b => some (mkFields 0x27#6 4#9 d a b (0#22 ++ p), 0#64)
  | .tkemitFlush p d b => some (mkFields 0x27#6 4#9 d 0#6 b (1#22 ++ p), 0#64)
  | .stopld i a b => some (mkFields 0x27#6 5#9 0#6 a b (0#21 ++ i), 0#64)
  | .vmaskl d a b c m => some (mkFields 0x27#6 6#9 d a b (xV c m), 0#64)
  | .nspawn d a => some (mkFields 0x28#6 0#9 d a 0#6 (0#25), 0#64)
  | .nend => some (mkFields 0x28#6 1#9 0#6 0#6 0#6 (0#25), 0#64)
  | .ndepAdd d a => some (mkFields 0x28#6 2#9 d a 0#6 (0#25), 0#64)
  | .ndepSub d a => some (mkFields 0x28#6 2#9 d a 0#6 (1#25), 0#64)
  | .nprio d a b => some (mkFields 0x28#6 3#9 d a b (0#25), 0#64)
  | .nqry d a q => some (mkFields 0x28#6 4#9 d a 0#6 (0#21 ++ q), 0#64)
  | .cddef d a k => some (mkFields 0x29#6 0#9 d a 0#6 (0#22 ++ k), 0#64)
  | .cdsweep d a => some (mkFields 0x29#6 1#9 d a 0#6 (0#25), 0#64)
  | .cdnext d => some (mkFields 0x29#6 2#9 d 0#6 0#6 (0#25), 0#64)
  | .cdpost a b => some (mkFields 0x29#6 3#9 0#6 a b (0#25), 0#64)
  | .cdread d a => some (mkFields 0x29#6 4#9 d a 0#6 (0#25), 0#64)
  | .cdpin a b => some (mkFields 0x29#6 5#9 0#6 a b (0#25), 0#64)
  | .sealCore a => some (mkFields 0x2A#6 0#9 0#6 a 0#6 (0#25), 0#64)
  | .errsend a b => some (mkFields 0x2A#6 1#9 0#6 a b (0#25), 0#64)
  | .scanrun d a => some (mkFields 0x2A#6 2#9 d a 0#6 (0#25), 0#64)
  | .quar a b => some (mkFields 0x2A#6 3#9 0#6 a b (0#25), 0#64)
  | .suspr d a => some (mkFields 0x2A#6 4#9 d a 0#6 (0#25), 0#64)
  | .susprW d a b => some (mkFields 0x2A#6 4#9 d a b (1#25), 0#64)
  | .tlbw a b => some (mkFields 0x2B#6 0#9 0#6 a b (0#25), 0#64)
  | .tlbinv d a b m => some (mkFields 0x2B#6 1#9 d a b (0#23 ++ m), 0#64)
  | .harvest d c a => some (mkFields 0x2B#6 2#9 d a 0#6 (xC c), 0#64)
  | .tlbr d c a => some (mkFields 0x2B#6 3#9 d a 0#6 (xC c), 0#64)
  | .clred d a => some (mkFields 0x2C#6 0#9 d a 0#6 (0#25), 0#64)
  | .clgat d a => some (mkFields 0x2C#6 1#9 d a 0#6 (0#25), 0#64)
  | .clbar d a => some (mkFields 0x2C#6 2#9 d a 0#6 (0#25), 0#64)
  | .clwait d a => some (mkFields 0x2C#6 3#9 d a 0#6 (0#25), 0#64)
  | .dhalt a => some (mkFields 0x3F#6 0#9 0#6 a 0#6 (0#25), 0#64)
  | .drun a => some (mkFields 0x3F#6 1#9 0#6 a 0#6 (0#25), 0#64)
  | .drdr d a b => some (mkFields 0x3F#6 2#9 d a b (0#25), 0#64)
  | .dwrr a b c => some (mkFields 0x3F#6 3#9 0#6 a b (xC c), 0#64)
  | .pad | .pool .. | .wdogExpiry .. | .contextWaitEnd .. | .heldInstructionComplete .. | .channelWordArrival ..
  | .channelCreditReturn .. | .dryNotice .. | .engineQueueHeadStart .. | .matrixStep .. | .copyEnd ..
  | .copyReplay .. | .reductionApplyPhase .. | .eventRecordEnter .. | .pressRequestComplete .. | .ropeEditStart ..
  | .ropeEditCommit .. | .refcntUpdateArrival .. | .reclaimEngineStep .. | .ropeCacheDrop .. | .poolReturn ..
  | .amArrival .. | .amHandlerStart .. | .builtinStore .. | .builtinAtomic .. | .builtinLoad ..
  | .amReplyArrival .. | .nodeRestart .. | .twinCompare .. | .twinSilenceTimeout .. | .launchHandout
  | .passDispatch .. | .tasteRetain .. | .tileArrival .. | .dieReport .. | .scoreDecay .. | .scanAbort ..
  | .scanComplete .. | .sccServiceScan .. | .mapChangeInstall | .mapDrainComplete | .translationRequest ..
  | .translationAnswer .. | .harvestTimerExpiry .. | .memoryRefresh .. | .incarnationIncrease ..
  | .incarnationSweep .. | .remoteAccess .. | .fabricLaunch .. | .collectiveComplete .. | .collectiveTimeout ..
  | .linkPortFail .. | .hostSlotWrite .. | .launch .. | .sync .. | .health .. | .wear .. | .hackWrite ..
  | .moduleMessageSend .. | .apertureWrite .. | .apertureRead .. | .coldBoot .. | .moduleReset | .dieFail ..
  | .thermalPause .. | .nvmeDriveFail .. | .powerLoss | .scorePersist | .wearPersist | .wearCountTick ..
  | .parkRequest | .parkEntry | .sleepRequest | .sleepEntry | .resume | .getVersion .. | .getCapabilities ..
  | .negotiateAlgorithms .. | .getDigests .. | .getCertificate .. | .challenge .. | .getMeasurements ..
  | .keyExchange .. | .finish .. | .endSession .. | .dbgnonce .. | .dbgauth .. | .dbgend .. | .keycreate ..
  | .keydestroy .. | .fwrecover .. | .advance .. | .linkPortRetrain .. => none

/-- Word 0 and the bits above it of an instruction with predicate field `pr`; none for PAD, POOL and the events. -/
def encode (pr : BitVec 4) (i : Instr) : Option (BitVec 64 × BitVec 64) :=
  i.fields.map fun p => (joinWord { p.1 with pr := pr }, p.2)

/-- The bytes of an instruction in the code image: 4 for PAD and POOL (R40), 8, 12 or 16 for the others (R26, R41); none for
an event, which no word encodes. -/
def encodeBytes (pr : BitVec 4) (i : Instr) : List Byte :=
  match i with
  | .pad => leBytes 4 3
  | .pool n => leBytes 4 (n.toNat * 256 + 7)
  | i =>
    match i.fields, encode pr i with
    | some p, some w => leBytes 8 w.1.toNat ++ leBytes (lenBytes p.1.len - 8) w.2.toNat
    | _, _ => []

/-- The length in bytes of an instruction in the code image (R25, R40, R41); 0 for an event. -/
def Instr.len : Instr → Nat
  | .pad | .pool .. => 4
  | i => match i.fields with
    | some p => lenBytes p.1.len
    | none => 0

end Sys2Proof
end

