-- ==== Sys2Proof/Machine/Tab.lean ====
section
/-!
DEFINITION. Two containers of plain data: `Tab`, a table with an entry for the keys that have been written, and `Mem`, a byte
memory as a list of cells in one canonical form.
-/
namespace Sys2Proof.Machine

/-- Update the entry of key `k` in a list of entries kept in rising key order. -/
def putList {α : Type} (k : Nat) (v : α) : List (Nat × α) → List (Nat × α)
  | [] => [(k, v)]
  | e :: es => if k = e.1 then (k, v) :: es else if k < e.1 then (k, v) :: e :: es else e :: putList k v es

/-- The entry of key `k`. -/
def getList {α : Type} (k : Nat) : List (Nat × α) → Option α
  | [] => none
  | e :: es => if k = e.1 then some e.2 else getList k es

/-- A table from numbers to `α`: the entries that have been written, in rising order of key. -/
structure Tab (α : Type) where
  entries : List (Nat × α) := []
  deriving DecidableEq, Repr

namespace Tab
variable {α : Type}

/-- The entry of `k`, if one has been written. -/
def get? (t : Tab α) (k : Nat) : Option α := getList k t.entries
/-- The entry of `k`, or `d` where none has been written. -/
def get (t : Tab α) (k : Nat) (d : α) : α := (t.get? k).getD d
/-- Write the entry of `k`. -/
def set (t : Tab α) (k : Nat) (v : α) : Tab α := ⟨putList k v t.entries⟩
/-- Remove the entry of `k`. -/
def erase (t : Tab α) (k : Nat) : Tab α := ⟨t.entries.filter fun e => e.1 != k⟩
/-- Whether `k` has an entry. -/
def has (t : Tab α) (k : Nat) : Bool := (t.get? k).isSome
/-- The keys with an entry. -/
def keys (t : Tab α) : List Nat := t.entries.map Prod.fst
/-- Change every entry. -/
def mapVals (t : Tab α) (f : Nat → α → α) : Tab α := ⟨t.entries.map fun e => (e.1, f e.1 e.2)⟩
/-- Keep the entries that `p` accepts. -/
def filterVals (t : Tab α) (p : Nat → α → Bool) : Tab α := ⟨t.entries.filter fun e => p e.1 e.2⟩

end Tab

/-- A byte memory: the cells that differ from what an unlisted address reads as, 0 (R109, R348). -/
abbrev Mem := List (Nat × BitVec 8)

namespace Mem

/-- What an address with no cell reads as: 0 (R109 for the scratchpad, R348 stage 5 for HBM; log 3 for the press SRAM). -/
def unlisted : Byte := 0#8

/-- The canonical form: addresses strictly rising, no cell equal to what an unlisted address reads as. -/
def wf : Mem → Bool
  | [] => true
  | [c] => c.2 != unlisted
  | c :: d :: m => c.2 != unlisted && c.1 < d.1 && wf (d :: m)

/-- Read one byte. -/
def read (m : Mem) (a : Nat) : Byte := (getList a m).getD unlisted

/-- Remove an address's cells. -/
def drop (m : Mem) (a : Nat) : Mem := m.filter fun c => c.1 != a

/-- Write one byte, keeping the canonical form. -/
def write (m : Mem) (a : Nat) (v : Byte) : Mem := if v = unlisted then drop m a else putList a v m

/-- The `n` bytes from `a`. -/
def readBytes (m : Mem) (a : Nat) : Nat → List Byte
  | 0 => []
  | n + 1 => m.read a :: readBytes m (a + 1) n

/-- Write bytes from `a` upward. -/
def writeBytes (m : Mem) (a : Nat) : List Byte → Mem
  | [] => m
  | b :: bs => writeBytes (m.write a b) (a + 1) bs

/-- The `n` bytes from `a`, little-endian (R26, R88). -/
def readLE (m : Mem) (a n : Nat) : Nat := leNat (m.readBytes a n)

/-- Write the `n` low bytes of `v` at `a`, little-endian (R26, R88). -/
def writeLE (m : Mem) (a n v : Nat) : Mem := m.writeBytes a (leBytes n v)

/-- Write zero to the `n` bytes from `a`. -/
def zeroRange (m : Mem) (a n : Nat) : Mem := m.filter fun c => !(a ≤ c.1 && c.1 < a + n)

end Mem
end Sys2Proof.Machine
end

