-- ==== Sys2Proof/Machine/State.lean ====
section
/-!
DEFINITION. The state of the machine as plain data: contexts, cores, clusters, dies, the module and what it has written to the
outside, with the model's own turn fields; the faults and refusals; the state after reset.
-/
namespace Sys2Proof.Machine

/-- A row of thirteen region numbers, one for each accessor 0 to 12: a SEEN row, or what a release hands over (R124). -/
abbrev Row := Tab Nat

/-! ### Contexts (R65 to R73) -/

/-- What a blocked context waits for (R70): a read of q0 or q1; a write of q2 or q3; HWAITF; HWAITE; JOINW; HWAIT; EVWAIT. `met` is
a wait whose condition has held: it ends whatever happens next, and its return acquires the release (R23, R104, R106, R119). -/
inductive Wait where
  | chanRead (ch n : Nat)
  | chanWrite (ch : Nat)
  | handleFull (h n : Nat)
  | handleEmpty (h n : Nat)
  | joinZero (n : Nat)
  | slotFree (n : Nat)
  | event
  | met (rel : Row)
  deriving DecidableEq, Repr

/-- The context state of R66, with the wait of R70, the instruction that holds the context and the translation it waits for
(R197, R293), the status declared for it (R293), and the debug halt (R363). -/
structure Ctx where
  live : Bool := false
  pc : Word := 0#64
  g : Tab Word := {}
  p : BitVec 8 := 1#8
  k : Tab Lane := {}
  winV : Bool := false
  winSize : BitVec 2 := 0#2
  winBase : Nat := 0
  fmode : Word := 0#64
  tvec : Word := 0#64
  epc : Word := 0#64
  ecause : Word := 0#64
  eval : Word := 0#64
  wdcnt : Word := 0#64
  rotSel : BitVec 3 := 0#3
  cdSel : BitVec 3 := 0#3
  wait : Option Wait := none
  held : Option Instr := none
  heldOn : Option XReq := none
  declared : Option Nat := none
  dbgHalt : Bool := false
  deriving DecidableEq, Repr

/-! ### Core (R109) -/

/-- The kind of a run of a node: the original or a restart, a taste run, a third run (R299 to R303). -/
inductive RunKind where
  | original | taste | third
  deriving DecidableEq, Repr

/-- What the pass dispatched to a core (R264): the launch and node, the kind of run, the role entry in force (R209), the
partition, the launch id words that NQRY answers from, and whether the run is tasted or one of twins. -/
structure Run where
  launch : Nat
  node : Nat
  kind : RunKind
  wire : BitVec 32
  part : Nat
  gen : BitVec 16
  tasted : Bool
  twin : Bool
  deriving DecidableEq, Repr

/-- An operand latch A, B or C (R111). -/
structure OpLatch where
  owner : Nat
  reg : Nat
  val : VReg
  deriving DecidableEq, Repr

/-- A matrix latch with its record (R155): values in rows of 32 (la) or 64 columns (lb), element (r, c) of the operand at key
r * 64 + c, as codes of the type, or as the integers of plane elements; `scales` one E8M0 scale a row or column. -/
structure MLatch where
  ty : BitVec 3
  kn : Nat
  cnt : Nat
  pl : Nat
  mc : Bool
  vals : Tab Int
  scales : Tab Nat
  deriving DecidableEq, Repr

/-- The matrix configuration (R155). -/
structure MCfg where
  pa : Nat := 8
  pb : Nat := 8
  ga : Nat := 1
  gb : Nat := 1
  deriving DecidableEq, Repr

/-- A command of the matrix queue with its operands and snapshots (R158): `bits` its 128 bits (R113), `hslot` the handle slot
recorded at the enqueue, `fate` whether its guard, once decided at the head, let it through, `step` its next step once it has
started, `owner` the context its deferred trap belongs to (R122, R382). -/
structure MatCmd where
  instr : Instr
  owner : Nat
  bits : Nat
  slot : Nat
  ga : Word
  gb : Word
  gd : Word
  idx : VReg
  fmode : Word
  cfg : MCfg
  row : Row
  hslot : Option Nat
  fate : Option Bool := none
  step : Nat := 0
  deriving DecidableEq, Repr

/-- An accumulator's resume point (R113). -/
structure Resume where
  step : Nat
  bits : Nat
  deriving DecidableEq, Repr

/-- An engine command that may hold granules PEND or a source range: a copy, an edit or a press request of a core (R124). -/
inductive EngineId where
  | copy (core tid : Nat)
  | edit (core ticket : Nat)
  | press (core ticket : Nat)
  deriving DecidableEq, Repr

/-- A granule's race-check state (R124). -/
structure Gran where
  w : Option Nat := none
  n : Nat := 0
  rm : BitVec 12 := 0#12
  pend : Option EngineId := none
  rt : Option (Nat × Nat) := none
  deriving DecidableEq, Repr

/-- A source range of an incomplete copy, edit or press request: base and length of each run (R124). -/
structure SrcRange where
  id : EngineId
  runs : List (Nat × Nat)
  deriving DecidableEq, Repr

/-- A destination range, in its own core, of a copy that has not started, with the context that launched it: a store of that context
to it races the DMA port (R74 note 1). -/
structure DstRange where
  id : EngineId
  ctx : Nat
  runs : List (Nat × Nat)
  deriving DecidableEq, Repr

/-- The states of a handle slot (R117). -/
inductive SlotSt where
  | free | filling | full | draining
  deriving DecidableEq, Repr

/-- One slot of a handle (R117), with the sender and receiver bit of a multicast (R221), the releases that made it full (R119)
and the completion it lets a reader observe (R125). -/
structure HSlot where
  st : SlotSt := .free
  exp : Nat := 0
  arr : Nat := 0
  nxt : Nat := 0
  mcast : Option (Nat × Nat) := none
  rel : Row := {}
  deriving DecidableEq, Repr

/-- A handle (R117). -/
structure Handle where
  base : Nat
  size : Nat
  n : Nat
  pp : Nat := 0
  cp : Nat := 0
  slots : Tab HSlot := {}
  deriving DecidableEq, Repr

/-- A guard slot (R122), with the release of the GSET that resolved it (R171). -/
structure Guard where
  val : Option Bool := none
  rel : Row := {}
  deriving DecidableEq, Repr

/-- A receiver of a copy's arrival: core, handle, slot, and the receiver bit of a multicast (R218, R221). -/
structure Target where
  core : Nat
  h : Nat
  slot : Nat
  bit : Option Nat
  deriving DecidableEq, Repr

/-- A copy from its CELAUNCH to its end (R217 to R222): what its guard decided at the head of the queue (R122), the source range that a
guarded copy takes once it has passed (R171); the cores that it writes, each with its receiver bit, as the map at its CELAUNCH names them (R217, R297); of a reduction, the units applied
and a peer's source bytes to come; the peers whose pages
it has translated (R369); the operands of its present pass still in the staging buffer, with the entries the pass has pinned (R220, R292).
Of the attempt under way, the units that have landed, each with the core it has landed at, or for memory its launcher, and what was read of
their sources, with its poison; the units that landed in attempts abandoned since; of a copy whose source shares bytes with its destination,
its source's units as they stood before the first landed (R218, R219, R380; log 5). -/
structure Copy where
  tid : Nat
  owner : Nat
  slot : Nat
  sh : Tab Word
  fmode : Word
  row : Row
  targets : List Target
  rcv : List (CoreId × Option Nat) := []
  gen : BitVec 16
  fate : Option Bool := none
  lock : Option SrcRange := none
  started : Bool := false
  replays : Nat := 0
  miss : Option XReq := none
  status : Option (BitVec 16) := none
  detail : Nat := 0
  applied : Nat := 0
  peers : List Nat := []
  twinOk : Bool := false
  twinSeq : Nat := 0
  run : Option Run := none
  peer : List Byte := []
  staged : List (Nat × List Byte × Bool) := []
  pinned : List Nat := []
  landed : List (Nat × CoreId) := []
  read : List (Nat × List Byte × Bool) := []
  earlier : List (Nat × CoreId) := []
  orig : List (List Byte × Bool) := []
  deriving DecidableEq, Repr

/-- A collective of one participant from its issue to its end (R373 to R375): `seq` its place among the context's with its GROUP,
`startAt` the core's CYCLE at its start, `peers` the modules of its table once read, `gone` those whose incarnation has increased since its
issue (R369), `refGen` the generation of a refusal that ends it (R376), `all` the contributions and `bad` the result's
poisoned elements once its group has read them, `landed` the elements of its DST that have landed before its end (R380; log 5);
`hand` the number of the release that its issue is, `acq` those that its completion acquires (R377); `owes` the participants, rank and core, that have been told of the status it ends with, where those that its own table names have still
to be (R373). -/
structure Coll where
  tid : Nat
  owner : Nat
  slot : Nat
  instr : Instr
  block : List Byte
  fmode : Word
  row : Row
  gen : BitVec 16
  seq : Nat
  fate : Option Bool := none
  started : Bool := false
  startAt : Nat := 0
  peers : List Nat := []
  gone : List Nat := []
  refGen : BitVec 16 := 0#16
  all : Option (List (List Byte)) := none
  bad : List Nat := []
  landed : List Nat := []
  hand : Nat := 0
  acq : List Nat := []
  owes : Option (List (Nat × CoreId)) := none
  miss : Option XReq := none
  status : Option (BitVec 16) := none
  run : Option Run := none
  deriving DecidableEq, Repr

/-- A command of the copy queue or in flight (R121). -/
inductive CEntry where
  | copy (c : Copy)
  | coll (c : Coll)
  deriving DecidableEq, Repr

/-- The end status the core remembers of a copy or collective (R236), with the completion observed, and of a
collective's MAPSTALE end the refusal's generation and whether CLWAIT's trap is still owed (R376). -/
structure Remember where
  tid : Nat
  status : BitVec 16
  obs : Row := {}
  gen : BitVec 16
  stale : Bool := false
  deriving DecidableEq, Repr

/-- A rope edit from its issue to its end (R188): the operation, its operands, its block, the schema, table and version taken at
the issue, the issuer's row, partition and launch, and once started the records and piece reserved, the refill it waits for, a fault declared; once
committed, its result roots, and the words of its block that hold theirs before its end (R380; log 5). -/
structure Edit where
  ticket : Nat
  owner : Nat
  slot : Nat
  instr : Instr
  ga : Word
  gb : Word
  block : Nat
  par : List Word
  schema : Nat
  sel : BitVec 3
  ver : Nat
  row : Row
  reserved : List Nat := []
  piece : Option Nat := none
  started : Bool := false
  miss : Option XReq := none
  fault : Option Nat := none
  part : Nat := 0
  launch : Option Nat := none
  roots : Option (List Nat) := none
  landed : List Nat := []
  deriving DecidableEq, Repr

/-- What raised a deferred trap (R382): a copy or collective by its id, a matrix command by its accumulator and handle and the number of
its fault among those of the core, an edit by its ticket. -/
inductive DeferKey where
  | copy (tid : Nat) (handle : Option Nat)
  | mat (acc : Option Nat) (handle : Option Nat) (no : Nat)
  | edit (ticket : Nat)
  deriving DecidableEq, Repr

/-- The cause codes of ECAUSE (R73). -/
inductive Cause where
  | illegal | priv | align | bounds | regwin | mmx | wdog | handle | guard | rope | graph | cadence | press | copy | trapi
  | bkpt | channel | mapstale | quota
  deriving DecidableEq, Repr

/-- A pending deferred trap (R382). -/
structure Defer where
  key : DeferKey
  owner : Nat
  cause : Cause
  eval : Word
  deriving DecidableEq, Repr

/-- A record of the event queue, its two words (R127), with the deferred trap that its EVPOP cancels (R382) and the completion
that its EVPOP observes (R125). -/
structure EvRec where
  w0 : Word
  w1 : Word
  key : Option DeferKey := none
  obs : Row := {}
  deriving DecidableEq, Repr

/-- An entry of the fork deque (R105) with its FORK's release (R107). -/
structure Fork where
  pc : Word
  arg : Word
  n : Nat
  rel : Row
  deriving DecidableEq, Repr

/-- What stands in an input channel: a word, or an ERRMSG marker, which a killed core left or not (R210, R226). -/
inductive ChItem where
  | word (w : Word)
  | errmsg (kill : Bool)
  deriving DecidableEq, Repr

/-- An active message (R212); `also` the twin that sent the same one and receives the reply as well (R227). -/
structure Msg where
  src : Nat
  tgt : Nat
  exists_ : Bool
  hnum : Nat
  arg : Word
  dat : Word
  reply : Option (Nat × Nat)
  also : Option Nat := none
  th : Option (Nat × Nat)
  gen : BitVec 16
  launch : Nat
  rel : Row
  deriving DecidableEq, Repr

/-- A reply on its way to a sender: the handle and slot it arrives in, if any, its 16 bytes (R215), its generation (R297), the release of
the handler that the HWAITF over its slot acquires (R216, R225), and the launch of its message. -/
structure Reply where
  dest : Option (Nat × Nat)
  bytes : List Byte
  gen : BitVec 16 := 0#16
  rel : Row := {}
  launch : Nat := 0
  deriving DecidableEq, Repr

/-- A press request (R238), its parameters, the partition and launch of its core, and, once complete, its result word; what it has read of its
source, with its poison, once a block of its output has landed before its completion, and those blocks (R380; log 5). -/
structure PressReq where
  op : Nat
  kind : Nat
  src : Nat
  slen : Nat
  dst : Nat
  dlen : Nat
  hslot : Option (Nat × Nat)
  slot : Nat
  row : Row
  result : Option Word := none
  obs : Nat := 0
  part : Nat := 0
  launch : Option Nat := none
  data : Option (List Byte × Bool) := none
  landed : List Nat := []
  deriving DecidableEq, Repr

/-- The stop matcher (R245). -/
structure Matcher where
  strs : Tab (List Byte) := {}
  hold : List Byte := []
  hit : Bool := false
  index : Nat := 0
  deriving DecidableEq, Repr

/-- An item that one of twins has sent, waiting for its pair (R227): its sequence number, and its hash or digest with what it stands
for. -/
inductive TwinItem where
  | msg (seq : Nat) (m : Msg)
  | chan (seq : Nat) (ch : Nat) (w : Word)
  | copy (seq : Nat) (tid : Nat) (digest : Nat)
  deriving DecidableEq, Repr

/-- A last-level TLB entry's two words (R292). -/
structure TlbE where
  w0 : Word
  w1 : Word
  deriving DecidableEq, Repr

/-- The barrel's side of a core (R65, R69 to R71, R97, R107): contexts, last issuing slot, fork deque and join counters with
the releases their waits acquire, watchdog limit, clock, active-message table. -/
structure Barrel where
  ctxs : Tab Ctx := {}
  last : Nat := 11
  forks : List Fork := []
  jcnt : Tab Nat := {}
  jrel : Tab Row := {}
  wdlim : Word := 0x1000000#64
  cycle : Word := 0#64
  amtab : Word := 0#64
  deriving DecidableEq, Repr

/-- A band table on its way into T0 to T7: the context whose ROTCFG loads it, its factors, the CYCLE at which it is ready (R135, R152). -/
structure BandLoad where
  slot : Nat
  bands : Tab Word
  ready : Nat
  deriving DecidableEq, Repr

/-- The vector and matrix side of a core (R67, R110 to R113, R130, R151, R155). `accs` holds accumulator element (i, j) of acc n at
key n * 2048 + i * 64 + j; `poisonV` and `poisonA` the poisoned elements, of physical register n at n * 32 + lane, and by that key. -/
structure Units where
  vfile : Tab VReg := {}
  latchA : Option OpLatch := none
  latchB : Option OpLatch := none
  latchC : Option OpLatch := none
  accs : Tab Lane := {}
  mla : Tab MLatch := {}
  mcfg : MCfg := {}
  resume : Tab Resume := {}
  bands : Tab (Tab Word) := {}
  bandVer : Tab Nat := {}
  bandNext : Tab (List BandLoad) := {}
  poisonV : List Nat := []
  poisonA : List Nat := []
  deriving DecidableEq, Repr

/-- The scratchpad side of a core (R114 to R120, R122, R124 to R126, R130). -/
structure Spad where
  mem : Mem := []
  poison : List Nat := []
  tags : Tab Nat := {}
  tagAge : List Nat := []
  tagBase : Nat := 0
  tagSets : Nat := 0
  ropesFlag : Bool := false
  handles : Tab Handle := {}
  guards : Tab Guard := {}
  gran : Tab Gran := {}
  srcs : List SrcRange := []
  dsts : List DstRange := []
  region : Tab Nat := {}
  seen : Tab Row := {}
  compl : Nat := 0
  deriving DecidableEq, Repr

/-- The engines of a core; `ropeCache` says for each slot of the tag region's ways 6 and 7 which of its eight records the rope unit has
cached there, `matFaults` counts the faults of matrix commands (R113, R116, R121, R127, R128, R188, R217, R218, R221, R236, R237, R382). -/
structure Engines where
  matQ : List MatCmd := []
  seq : Option MatCmd := none
  copyQ : List CEntry := []
  flight : List CEntry := []
  ropeQ : List Edit := []
  editRun : Option Edit := none
  tidNext : Nat := 1
  groups : Tab Nat := {}
  ticketNext : Nat := 1
  remembered : List Remember := []
  defers : List Defer := []
  matFaults : Nat := 0
  events : List EvRec := []
  evHeld : List EvRec := []
  shadow : Tab Word := {}
  mcredit : Tab Nat := {}
  press : Tab PressReq := {}
  pressTries : Nat := 0
  pressAt : Nat := 0
  matcher : Matcher := {}
  schemas : Tab Nat := {}
  ropeTlb : List TlbE := []
  ropeCache : Tab (BitVec 8) := {}
  ropeEpoch : Nat := 0
  deriving DecidableEq, Repr

/-- A core's links to the cluster (R210 to R216, R131, R313); `fed` names for each input the senders, core and output, of the words that have
not been read, in order. -/
structure Links where
  inq : Tab (List ChItem) := {}
  wire : Tab (List Word) := {}
  fed : Tab (List (CoreId × Nat)) := {}
  credit : Tab Nat := {}
  creditBack : Tab Nat := {}
  dry : Tab Nat := {}
  dryTold : Tab Bool := {}
  amIn : List Msg := []
  mailbox : List Msg := []
  handling : Option Msg := none
  replyVal : Word := 0#64
  outstanding : Nat := 0
  replies : List Reply := []
  twinOut : List TwinItem := []
  twinNext : Nat := 0
  isSealed : Bool := false
  killed : Bool := false
  deriving DecidableEq, Repr

/-- A core (R109): what the pass dispatched, the role entry of its last dispatch (R209), its code image and length, and its parts. -/
structure Core where
  run : Option Run := none
  wired : BitVec 32 := 0x803DE000#32
  code : Mem := []
  codeLen : Nat := 0
  ending : Bool := false
  bar : Barrel := {}
  un : Units := {}
  sp : Spad := {}
  en : Engines := {}
  li : Links := {}
  deriving DecidableEq, Repr

/-! ### Cluster (R208 to R227) -/

/-- What a service core is told (R72, R131, R211, R306, R363, R227): the kind, the core, and the words that go with it; of a halt,
whether its partition's key domain was not ABSENT (R361). -/
inductive Notice where
  | halt (core slot : Nat) (epc ecause eval : Word) (secret : Bool)
  | kill (core cause loc : Nat)
  | dry (core ch : Nat)
  | watch (core : Nat)
  | debugStop (core slot : Nat)
  | twin (launch node : Nat)
  deriving DecidableEq, Repr

/-- A cluster: physical cores by logical number, the reserve and the service core (R208), the role table (R209), the press SRAM
and the partition it holds (R237), the cluster TLB (R291), notices, refill-or-fault requests and the SCC's messages (R335) to the service core; the
logical map of the generation before, while its items drain (R297). -/
structure Cluster where
  logical : List Nat := [0, 1, 2, 3, 4, 5, 6, 7]
  reserve : Option Nat := some 8
  service : Option Nat := some 9
  roles : Tab (BitVec 32) := {}
  sram : Mem := []
  sramPart : Option Nat := none
  tlb : List TlbE := []
  notices : List Notice := []
  xreqs : List XReq := []
  fromScc : List (List Byte) := []
  before : Option (List Nat) := none
  deriving DecidableEq, Repr

/-! ### Die (R253 to R323) -/

/-- The states of a node (R258). -/
inductive NodeSt where
  | waiting | ready | running | preempted | ended | failed
  deriving DecidableEq, Repr

/-- What a pre-emption saves of a node, with the core it left (R379). -/
structure Saved where
  core : Nat
  ctx : Ctx
  vregs : Tab VReg
  bar : Barrel
  un : Units
  sp : Spad
  en : Engines
  deriving DecidableEq, Repr

/-- A node of a die's part of a launch (R254, R258): its descriptor's 128 bytes once read, counter, state, priority, the core it
runs on and last ran on with its stage, the successor indices and tiles read at its dispatch, what a pre-emption saved, restarts, the halt's ECAUSE,
and the releases that its dispatch acquires (R271). -/
structure Node where
  desc : Option (List Byte) := none
  st : NodeSt := .waiting
  ctr : Nat := 0
  early : List (Nat × Row) := []
  prio : Nat := 0
  core : Option Nat := none
  twinCore : Option Nat := none
  succs : List Nat := []
  tiles : List (Nat × Nat × Bool) := []
  saved : Option Saved := none
  restarts : Nat := 0
  cause : Nat := 0
  home : Nat := 0
  stage : Nat := 0
  rel : Row := {}
  deriving DecidableEq, Repr

/-- Where a taste stands (R302, R303). -/
inductive TastePhase where
  | retain | original | wait2 | run2 | wait3 | run3
  deriving DecidableEq, Repr

/-- A taste in progress (R300 to R303): the cores of its runs, the retained input tiles and recorded roots, how many of them
the present run has taken, the scratch outputs of the taste run and of the third with the addresses of those that carry poison, the digests (none inside for a halted run), room taken. -/
structure Taste where
  phase : TastePhase := .retain
  core1 : Nat := 0
  core2 : Nat := 0
  core3 : Nat := 0
  tiles : List (Nat × List Byte) := []
  roots : List Nat := []
  taken : Nat := 0
  scratch : Tab Byte := {}
  scratch3 : Tab Byte := {}
  bad : List Nat := []
  bad3 : List Nat := []
  d1 : Option Nat := none
  d2 : Option Nat := none
  room : Nat := 0
  deriving DecidableEq, Repr

/-- The counts of R304. -/
structure TasteWord where
  void : Nat := 0
  drop : Nat := 0
  dis : Nat := 0
  run : Nat := 0
  deriving DecidableEq, Repr

/-- A fault a die recorded of a launch (R261). -/
structure DieFault where
  status : Nat
  u : Nat
  v : Nat
  deriving DecidableEq, Repr

/-- A die's part of a launch (R257 to R261, R304); `arrivals` the tile arrivals for its nodes on their way, each with
its source, its generation and its release; `staleEnds` those that ended with a status other than done (R297). -/
structure Part where
  nodes : Tab Node := {}
  spawn : Nat := 0
  fault : Option DieFault := none
  tastes : Tab Taste := {}
  word : TasteWord := {}
  conv : Option Nat := none
  arrivals : List (Nat × Nat × BitVec 16 × Row) := []
  staleEnds : List (Nat × Nat × BitVec 16) := []
  reported : Bool := false
  deriving DecidableEq, Repr

/-- An entry of the pass's levels (R262). -/
structure PassE where
  launch : Nat
  node : Nat
  kind : RunKind
  deriving DecidableEq, Repr

/-- A cadence set (R272, R274, R279): its definition, the last-level entries it pins, its sweep counter, and of an open sweep the due, posted and handed-out members
and the pin words waiting for its close; the releases of the posts that its closes hand to a CDSWEEP (R276). -/
structure CadSet where
  part : Nat
  base : Nat
  m : Nat
  w : Nat
  cmax : Nat
  extrap : Bool
  lo : Lane
  hi : Lane
  pinned : List Nat := []
  t : Nat := 0
  isOpen : Bool := false
  due : List Nat := []
  posted : List Nat := []
  handed : Tab (Nat × Nat) := {}
  pins : Tab Word := {}
  posts : Row := {}
  rel : Row := {}
  deriving DecidableEq, Repr

/-- A physical core's suspicion (R305). -/
structure Score where
  score : Nat := 0
  watch : Bool := false
  quar : Bool := false
  deriving DecidableEq, Repr

/-- A freed record or piece on its way to the pool (R195): its address, partition, whether a piece, the epoch in which it
entered the queue, and whether the reclaim engine has taken it apart. -/
structure Freed where
  va : Nat
  part : Nat
  piece : Bool
  epoch : Nat
  done : Bool
  deriving DecidableEq, Repr

/-- A die (R253 to R323): last-level TLB with recency and pins, harvest timer, pages marked dirty in the tables, its parts of
launches, the pass's levels, cadence sets, taste area in use, scores of its 640 physical cores, completions, scans by core with
the issuing service core and slot, the reclaim queue, whether it has failed, the translations that its engines wait for and the statuses
declared for them (R293), and the nodes chosen for dispatch whose images are being read, with their cores (R262, R264). -/
structure Die where
  tlb : Tab TlbE := {}
  tlbAge : List Nat := []
  pins : Tab Nat := {}
  timer : Nat := 3990000
  marked : List Word := []
  parts : Tab Part := {}
  levels : Tab (List PassE) := {}
  sets : Tab CadSet := {}
  tasteUsed : Nat := 0
  scores : Tab Score := {}
  completions : Nat := 0
  scans : Tab (Nat × Nat) := {}
  freed : List Freed := []
  failed : Bool := false
  waits : List XReq := []
  declared : List (XReq × Nat) := []
  claims : List (PassE × CoreId × Option CoreId) := []
  deriving DecidableEq, Repr

/-! ### Module (R334 to R364), fabric (R365 to R372) -/

/-- The residency states of a launch (R342). -/
inductive LState where
  | queued | running | done | refused | lost
  deriving DecidableEq, Repr

/-- A node whose PIN fields no die has read yet, so that it belongs to none (R257): the decrements that have come for it, with the
releases that they bring, and the dies whose service core has declared a status for the read, with it. -/
structure Unplaced where
  early : List (Nat × Row) := []
  errs : List (Nat × Nat) := []
  deriving DecidableEq, Repr

/-- A launch that was taken (R342, R371): who sent it (function 0 to 16, or a fabric sender), its packet, state, hand-out cycle, the
dies' reports (R261, R304), the SEQ of its COMPLETE or REFUSE, and for a fabric launch the sender, FSEQ and REPORT address; the nodes that
no die owns yet (R257). -/
structure Launch where
  fn : Nat
  hseq : Nat
  packet : List Byte
  st : LState := .queued
  handed : Nat := 0
  gen : BitVec 16 := 0#16
  liveMask : BitVec 8 := 0#8
  reports : Tab (DieFault × TasteWord × Option Nat) := {}
  dieFail : Option Nat := none
  finalSeq : Nat := 0
  fabric : Option (Nat × Nat × Nat) := none
  final : List Byte := []
  unplaced : Tab Unplaced := {}
  deriving DecidableEq, Repr

/-- A message of the module for the host (R339): its SEQ once it has been written, its TYPE, its payload, and the launch whose
COMPLETE it is. -/
structure OutMsg where
  seq : Option Nat := none
  ty : Nat
  payload : List Byte
  launch : Option Nat := none
  deriving DecidableEq, Repr

/-- A message that has been taken and not answered yet (R341): its SEQ, TYPE and payload, and of a LAUNCH its place among all that were
taken (R342). -/
structure InMsg where
  seq : Nat
  ty : Nat
  payload : List Byte
  order : Nat := 0
  deriving DecidableEq, Repr

/-- A function's channel (R336 to R345): sequence numbers, the event area, whether slots are taken, CHSTATE.MSYNC, held slots,
messages taken and not answered, those that wait for credit, the 64 sent last, what the module has written in host memory, MSI-X. -/
structure Chan where
  lastRx : Nat := 0
  lastTx : Nat := 0
  hackLast : Nat := 0
  evBase : Nat := 0
  evLog : Nat := 3
  ackAddr : Nat := 0
  hasArea : Bool := false
  ready : Bool := false
  msync : Bool := false
  slots : Tab (List Byte) := {}
  taken : List InMsg := []
  waiting : List OutMsg := []
  retained : List OutMsg := []
  hostMem : Mem := []
  msi : Nat := 0
  deriving DecidableEq, Repr

/-- CHSTATE.PHASE (R336). -/
inductive Phase where
  | boot | ready | romOnly
  deriving DecidableEq, Repr

/-- The module's health (R352). -/
inductive Health where
  | ok | degraded | replace
  deriving DecidableEq, Repr

/-- The security states (R354). -/
inductive SecState where
  | manufacture | secure | returned
  deriving DecidableEq, Repr

/-- The debug levels (R361). -/
inductive DbgLevel where
  | none | observe | invasive
  deriving DecidableEq, Repr

/-- A key domain (R358). -/
inductive KeyDom where
  | absent | active | locked
  deriving DecidableEq, Repr

/-- The power states, with the entries under way (R364). -/
inductive Power where
  | run | parkPending | park | sleepPending | sleep | off
  deriving DecidableEq, Repr

/-- A wear record (R350). -/
structure Wear where
  power : Nat := 0
  thermal : Nat := 0
  band : Tab Nat := {}
  energy : Nat := 0
  lowest : Option Nat := none
  deriving DecidableEq, Repr

/-- A partition's rope pool (R188, R195, R296): the number of pages it has taken so far, free records and free pieces. -/
structure Pool where
  pages : Nat := 0
  recs : List Nat := []
  pieces : List Nat := []
  deriving DecidableEq, Repr

/-- A map change that waits for a launch boundary (R297, R309): the dies' cores whose quarantine it carries out are read from
the scores; `drainFrom` is the clock of step 2. -/
structure MapChange where
  pending : Bool := false
  draining : Option (BitVec 16) := none
  drainFrom : Nat := 0
  deriving DecidableEq, Repr

/-- An SPDM requester's connection (R356): the requests answered so far, and the secured session. -/
structure Spdm where
  version : Bool := false
  caps : Bool := false
  algs : Bool := false
  keyed : Bool := false
  session : Bool := false
  deriving DecidableEq, Repr

/-- What one peer module means to this one (R365, R368, R371): incarnation, its BOOTS last seen, the map generation of its last
transaction, whether it answers, dies still to be swept, whether an increase waits for that, and the last FSEQ taken from it for each
partition. -/
structure Peer where
  inc : BitVec 8 := 0#8
  boots : Option Nat := none
  gen : Option (BitVec 16) := none
  unreachable : Bool := false
  sweep : List Nat := []
  owed : Bool := false
  fseq : Tab Nat := {}
  deriving DecidableEq, Repr

/-- A byte of memory that a copy or collective of a core has written, which a party that has not acquired the write may still read as it
was (R225, R298 note 2): where it lies (a compressed page's byte by its place in the page), what stood there, the writing core, its
count of completions at the write's completion, until which it carries a mark of its transfer id, the launch it ran, and the partition and
virtual address that it was written by. -/
structure Stale where
  pa : Nat
  old : Byte
  core : CoreId
  no : Nat
  launch : Option Nat := none
  part : Nat := 0
  va : Nat := 0
  deriving DecidableEq, Repr

/-- A release that parties on other modules may acquire: a participant's, at the issue of its collective (R377), or that of a copy into a
launch window, which the hand-out of the launch acquires (R371, R378): the releasing core, what its context had acquired, the partition, the
peers that it reaches, of a collective the ranges that it speaks of, and the launch. -/
structure Handover where
  core : CoreId
  row : Row
  part : Nat
  peers : List Nat := []
  ranges : Option (List (Nat × Nat)) := none
  launch : Option Nat := none
  deriving DecidableEq, Repr

/-- Memory and what guards it (R286 to R290, R296, R352, R358): HBM by physical address, the plaintext of what was encrypted; poisoned
sectors; sectors whose tag has been damaged; runs of sectors (first, count, key) with the key they were last written under, newest first,
0 for none; the key of each partition's domain and the next one; per-stack counts of corrected, uncorrectable, integrity and transient
errors, key domains, quotas, page counts, pools and the physical pages allocated to partitions; the erroneous 16-bit symbols of sectors (R287),
the sectors that will not answer their next read (R288), the bytes that others may still read as they were, newest first, what the publication
of a root releases, by partition and root (R196), and the releases that reach other modules, by number, with the next number (R377, R378). -/
structure Memory where
  hbm : Mem := []
  poison : List Nat := []
  badTag : List Nat := []
  tagRuns : List (Nat × Nat × Nat) := []
  keyNo : Tab Nat := {}
  keyNext : Nat := 1
  errors : Tab Nat := {}
  keys : Tab KeyDom := {}
  quota : Tab Nat := {}
  used : Tab Nat := {}
  pools : Tab Pool := {}
  pages : Tab (List (Nat × Nat)) := {}
  refUpd : List (Nat × Bool × Nat × Nat) := []
  epoch : Nat := 0
  flips : List (Nat × Nat) := []
  mute : List Nat := []
  stale : List Stale := []
  pubs : Tab Row := {}
  hands : Tab Handover := {}
  handNext : Nat := 0
  deriving DecidableEq, Repr

/-- What a Ronxon transaction does at its target (R366, R369, R372): a write, a reduction's operands with its operation,
formats and rounding, a
residency report at a virtual address, or the answer to an access of the target's with its copy status. -/
inductive FabOp where
  | write
  | answer (status : Nat)
  | reduce (op sf df : Nat) (fmode : Word)
  | report
  deriving DecidableEq, Repr

/-- A Ronxon transaction that this module has sent (R365, R366): the target module, partition, address, act and bytes, with this module's
address and map generation. -/
structure FabSent where
  peer : Nat
  part : Nat
  addr : Nat
  op : FabOp
  bytes : List Byte
  source : BitVec 20 := 0#20
  gen : BitVec 16 := 0#16
  deriving DecidableEq, Repr

/-- A host access through the aperture, or a residency report of a peer, that waits for its translation (R346, R372): a write's bytes, or a
read of `n`. -/
structure AperReq where
  vf : Nat
  va : Nat
  bytes : Option (List Byte)
  n : Nat
  miss : Option XReq := none
  deriving DecidableEq, Repr

/-- Why a vendor-defined request is refused (R357). -/
inductive DoeRefusal where
  | badToken | busy | state | badImage
  deriving DecidableEq, Repr

/-- What the DOE mailbox answers (R356, R357): an SPDM response, measurement blocks with the response that carries them, a nonce, done, a refusal, or that the request is not accepted on
this function or outside a secured session. -/
inductive DoeReply where
  | spdm (bytes : List Byte)
  | measurements (blocks : List (Nat × List Byte)) (bytes : List Byte)
  | nonce (bytes : List Byte)
  | done
  | refused (r : DoeRefusal)
  | notAccepted
  deriving DecidableEq, Repr

/-- The fuse bank but STATE (R354): the two key hashes, SVN's thermometer code, and the device-unique secret once generated. -/
structure Fuses where
  rooth : BitVec 256 := 0#256
  debugh : BitVec 256 := 0#256
  svn : BitVec 64 := 0#64
  uds : Option (BitVec 256) := some 0#256
  deriving DecidableEq, Repr

/-- A training record (R349): the SCC firmware image that wrote it, and the temperature recorded with it. -/
structure Training where
  image : Option FwImage
  version : Nat
  temp : Nat
  deriving DecidableEq, Repr

/-- A collective that has ended with a status at every participant (R369, R373): its GROUP and place, the launch, the cores of this module
whose context has not issued it yet, the status with a refusal's generation, the participants, rank and core, that have been told of it, and the
releases that its end acquires. -/
structure FailedColl where
  group : Nat
  seq : Nat
  launch : Option Nat
  cores : List CoreId
  status : Nat
  gen : BitVec 16
  told : List (Nat × CoreId) := []
  acq : List Nat := []
  deriving DecidableEq, Repr

/-- The module (R334 to R364); `wantRun` that the host has set D0 again while an entry is under way,
`waking` the cadence sets, by die and id, whose pages a resume from SLEEP is still translating, and `wantDown` that the host has set
D1 (false) or D2 (true) meanwhile (R364). -/
structure Module where
  mem : Memory := {}
  live : BitVec 8 := 0xFF#8
  gen : BitVec 16 := 0#16
  map : MapChange := {}
  phase : Phase := .boot
  boots : Nat := 0
  health : Health := .ok
  chans : Tab Chan := {}
  launches : Tab Launch := {}
  launchNext : Nat := 0
  clock : Nat := 0
  drives : BitVec 2 := 3#2
  images : List FwImage := []
  running : Option FwImage := none
  savedScores : Tab Score := {}
  wear : Tab Wear := {}
  savedWear : Tab Wear := {}
  apFaults : Nat := 0
  sec : SecState := .secure
  fuses : Fuses := {}
  training : Tab Training := {}
  dbg : DbgLevel := .none
  nonce : Option (List Byte) := none
  nonces : Nat := 0
  invSeen : Bool := false
  obsSeen : Bool := false
  spdm : Tab Spdm := {}
  doeOut : List (Nat × DoeReply) := []
  aperIn : List AperReq := []
  reportIn : List AperReq := []
  aperOut : List (Nat × Option (List Byte)) := []
  barOut : List (Nat × Nat × Word) := []
  fromService : List (Nat × List Byte) := []
  power : Power := .off
  wantRun : Bool := false
  waking : List (Nat × Nat) := []
  wantDown : Option Bool := none
  discarded : Nat := 0
  addr : BitVec 20 := 0#20
  peers : Tab Peer := {}
  exported : List (Nat × Nat) := []
  portsDown : List Nat := []
  fabOut : List FabSent := []
  failedColls : List FailedColl := []
  deriving DecidableEq, Repr

/-! ### The whole -/

/-- Where a memory word of a core has an uncorrectable error (R130): a scratchpad word, an element of a physical vector register, an
accumulator element, by the keys of `Spad.poison`, `Units.poisonV` and `Units.poisonA`. -/
inductive SoftPlace where
  | spad (word : Nat)
  | vector (elem : Nat)
  | acc (key : Nat)
  deriving DecidableEq, Repr

/-- What reaches the machine from outside without a row of the opcode table: an uncorrectable error of a core's memory (R130); a block
of the code image that leaves the instruction cache and is read again (R85); a sector's tag damaged (R287); the SCC setting a
partition's quota (R296, R335), sending to a service core or hearing from one (R335); pages exported to a peer's partition or taken
back (R367); the fabric manager naming the module's address (R365); BOOTS seen of a peer (R368); the factory clearing a quarantine record (R310, R360); a
host's read of BAR 0 (R336); system software mapping a page in a partition's tables or taking it out (R291, R359); elements of a copy under way
reaching its destination, words of the output of a press request, of the block of an edit, elements of a collective's DST likewise (R74, R219,
R220, R380); an error in a 16-bit symbol of a sector (R287), and a sector that will not answer its next
read (R288). -/
inductive Outside where
  | softError (core : Nat) (at_ : SoftPlace)
  | refetch (core block : Nat)
  | tamper (sector : Nat)
  | setQuota (part pages : Nat)
  | toService (cluster : Nat) (bytes : List Byte)
  | fromService (cluster : Nat) (bytes : List Byte)
  | exportPage (part page : Nat) (on : Bool)
  | moduleAddress (a : BitVec 20)
  | peerBoots (peer boots : Nat)
  | clearQuar (core : Nat)
  | barRead (fn off : Nat)
  | mapPage (part pa n : Nat)
  | unmapPage (part pa n : Nat)
  | landUnits (core tid : Nat) (ks : List Nat) (target : Nat)
  | landPress (core ticket block : Nat)
  | landEdit (core word : Nat)
  | landColl (core tid elem : Nat) (given : CollAnswer)
  | bitError (sector symbol : Nat)
  | noAnswer (sector : Nat)
  deriving DecidableEq, Repr

/-- One turn of the machine: an event of the table, the issue of a context's next instruction, or what the outside does without a row. -/
inductive Turn where
  | event (i : Instr)
  | issue (core slot : Nat)
  | outside (x : Outside)
  deriving DecidableEq, Repr

/-- The machine: cores, clusters, dies and the module; and the model's own fields: whose turn it is (`cur`, `slot`), the turns
that the outside and the open orders have chosen (`agenda`), the counter of free values (`free`). -/
structure State where
  cores : Tab Core := {}
  clusters : Tab Cluster := {}
  dies : Tab Die := {}
  mod : Module := {}
  cur : Nat := 0
  slot : Nat := 0
  agenda : List Turn := []
  free : Nat := 0
  deriving DecidableEq, Repr

/-- Why a step can stop with a fault. -/
inductive Fault where
  /-- Raised by `step`: the turn names a core above 5,119 or a slot above 11, which the machine does not have (R1, R65). Safe:
  no hardware context stands there. -/
  | noSuchContext
  /-- Raised by `step`: the agenda holds a turn that is no event of the table with operands of the machine's extent. Safe: no
  agent of the machine takes such a step. -/
  | noSuchEvent
  deriving DecidableEq, Repr

/-- Why an instruction has no meaning. -/
inductive Refusal where
  /-- Raised by an arm of `exec` for an instruction that has no meaning yet. Safe: nothing is claimed of it. -/
  | notModelled (mnemonic : String)
  deriving DecidableEq, Repr

/-- The machine right after module reset and before power-good: memory with nothing listed, the maps as R208 lays them down,
PHASE BOOT, no context; the values the spec does not give as log entries 3, 7, 9 to 16 and 63 name them. -/
def State.reset : State := {}

end Sys2Proof.Machine
end

