-- ==== Sys2Proof/Machine/Base.lean ====
section
/-!
DEFINITION. The accessors of the state: cores, contexts, registers (R28, R65 to R68, R208), the vector file (R67), free slots.
-/
namespace Sys2Proof.Machine

/-- The outcome of a step. -/
abbrev Out := Host.Outcome State Fault Refusal

/-- The die of a core (R68). -/
def coreDie (i : CoreId) : Nat := i / 640
/-- The cluster of a core, over the whole module. -/
def coreCluster (i : CoreId) : Nat := i / 10
/-- The physical number of a core in its cluster (R208). -/
def corePhys (i : CoreId) : Nat := i % 10
/-- The core with a physical number in a cluster. -/
def coreOf (cluster phys : Nat) : CoreId := cluster * 10 + phys

namespace State

/-- A core's state. -/
def core (s : State) (i : CoreId) : Core := s.cores.get i {}
/-- Replace a core's state. -/
def setCore (s : State) (i : CoreId) (c : Core) : State := { s with cores := s.cores.set i c }
/-- Change a core's state. -/
def updCore (s : State) (i : CoreId) (f : Core → Core) : State := s.setCore i (f (s.core i))
/-- A cluster's state, numbered over the module. -/
def cluster (s : State) (q : Nat) : Cluster := s.clusters.get q {}
/-- Replace a cluster's state. -/
def setCluster (s : State) (q : Nat) (c : Cluster) : State := { s with clusters := s.clusters.set q c }
/-- Change a cluster's state. -/
def updCluster (s : State) (q : Nat) (f : Cluster → Cluster) : State := s.setCluster q (f (s.cluster q))
/-- A die's state. -/
def die (s : State) (d : Nat) : Die := s.dies.get d {}
/-- Replace a die's state. -/
def setDie (s : State) (d : Nat) (x : Die) : State := { s with dies := s.dies.set d x }
/-- Change a die's state. -/
def updDie (s : State) (d : Nat) (f : Die → Die) : State := s.setDie d (f (s.die d))
/-- Change the module's state. -/
def updMod (s : State) (f : Module → Module) : State := { s with mod := f s.mod }
/-- Change the state of memory and its guards. -/
def updMem (s : State) (f : Memory → Memory) : State := { s with mod := { s.mod with mem := f s.mod.mem } }
/-- The core whose turn it is. -/
def here (s : State) : Core := s.core s.cur
/-- The logical number of a core, if its cluster's map gives it one (R208). -/
def logicalNo (s : State) (i : CoreId) : Option Nat := (s.cluster (coreCluster i)).logical.findIdx? (· == corePhys i)
/-- The core that carries a logical number of a cluster (R208). -/
def logicalCore (s : State) (q l : Nat) : Option CoreId := ((s.cluster q).logical[l]?).map (coreOf q)
/-- Whether a core is its cluster's service core, which runs at level S (R208). -/
def isService (s : State) (i : CoreId) : Bool := (s.cluster (coreCluster i)).service == some (corePhys i)
/-- A role-table entry; at reset ROLE 2, Q2DST and Q3DST unwired (R209). -/
def roleEntry (s : State) (q l : Nat) : BitVec 32 := (s.cluster q).roles.get l 0x803DE000#32
/-- Tell a cluster's service core (R72, R131). -/
def tell (s : State) (i : CoreId) (n : Notice) : State :=
  s.updCluster (coreCluster i) fun c => { c with notices := c.notices ++ [n] }
/-- Use up one free value. -/
def takeFree (s : State) : State := { s with free := s.free + 1 }

end State

namespace Die

/-- Whether an entry of a last-level TLB is pinned. -/
def pinned (x : Die) (i : Nat) : Bool := 0 < x.pins.get i 0
/-- Pin an entry once more (R292). -/
def pin (x : Die) (i : Nat) : Die := { x with pins := x.pins.set i (x.pins.get i 0 + 1) }
/-- Release one pin of an entry. -/
def unpin (x : Die) (i : Nat) : Die :=
  if x.pins.get i 0 ≤ 1 then { x with pins := x.pins.erase i } else { x with pins := x.pins.set i (x.pins.get i 0 - 1) }

end Die

namespace Ctx

/-- A scalar register; g0 reads 0 (R66). -/
def rg (x : Ctx) (r : Nat) : Word := if r = 0 then 0#64 else x.g.get r 0#64
/-- Write a scalar register; a write of g0 is discarded (R66). -/
def wg (x : Ctx) (r : Nat) (v : Word) : Ctx := if r = 0 then x else { x with g := x.g.set r v }
/-- A predicate; p0 is true (R66). -/
def rp (x : Ctx) (r : Nat) : Bool := r == 0 || x.p.getLsbD r
/-- Write a predicate; a write of p0 is discarded (R66). -/
def wp (x : Ctx) (r : Nat) (v : Bool) : Ctx :=
  if r = 0 then x
  else { x with p := if v then x.p ||| (1#8 <<< r) else x.p &&& ~~~(1#8 <<< r) }
/-- A lane mask; k0 is all 32 lanes (R66). -/
def rk (x : Ctx) (r : Nat) : Lane := if r = 0 then 0xFFFFFFFF#32 else x.k.get r 0#32
/-- Write a lane mask; a write of k0 is discarded (R66). -/
def wk (x : Ctx) (r : Nat) (v : Lane) : Ctx := if r = 0 then x else { x with k := x.k.set r v }
/-- The registers of the window: 6, 12, 24 or 48, or none (R67). -/
def winRegs (x : Ctx) : Nat := if x.winV then 6 * 2 ^ x.winSize.toNat else 0
/-- The physical register of vN: bank N mod 6, row base + N / 6, numbered row by row (R67). -/
def phys (x : Ctx) (n : Nat) : Nat := x.winBase * 6 + n

end Ctx

namespace Core

/-- The context in a slot. -/
def ctx (c : Core) (k : Nat) : Ctx := c.bar.ctxs.get k {}
/-- Replace the context in a slot. -/
def setCtx (c : Core) (k : Nat) (x : Ctx) : Core := { c with bar := { c.bar with ctxs := c.bar.ctxs.set k x } }
/-- Change the context in a slot. -/
def updCtx (c : Core) (k : Nat) (f : Ctx → Ctx) : Core := c.setCtx k (f (c.ctx k))
/-- A scalar of a context, by number. -/
def rg (c : Core) (k r : Nat) : Word := (c.ctx k).rg r
/-- A context with a scalar written. -/
def wg (c : Core) (k r : Nat) (v : Word) : Core := c.updCtx k (·.wg r v)
/-- A vector register of a context (R67). -/
def rv (c : Core) (k n : Nat) : VReg := c.un.vfile.get ((c.ctx k).phys n) 0#1024
/-- Write the lanes `w` of a physical vector register, whose new value is `v`: a latch that recorded it becomes invalid (R111), and the
32-bit elements of those lanes lose their poison (R130). -/
def wpart (c : Core) (ph : Nat) (v : VReg) (w : Lane) : Core :=
  let inval : Option OpLatch → Option OpLatch := fun l => l.filter fun o => o.reg != ph
  { c with un := { c.un with vfile := c.un.vfile.set ph v, latchA := inval c.un.latchA, latchB := inval c.un.latchB,
                             latchC := inval c.un.latchC,
                             poisonV := c.un.poisonV.filter fun e => e / 32 != ph || !w.getLsbD (e % 32) } }
/-- Write the whole of a physical vector register (R111, R130). -/
def wphys (c : Core) (ph : Nat) (v : VReg) : Core := c.wpart ph v 0xFFFFFFFF#32
/-- Write the lanes `w` of a vector register of a context (R67, R111, R130). -/
def wvPart (c : Core) (k n : Nat) (v : VReg) (w : Lane) : Core := c.wpart ((c.ctx k).phys n) v w
/-- Write a vector register of a context (R67, R111). -/
def wv (c : Core) (k n : Nat) (v : VReg) : Core := c.wphys ((c.ctx k).phys n) v
/-- The helper slots that hold a context, as the mask of R72. -/
def helperMask (c : Core) : Nat :=
  ((List.range 10).map fun j => if (c.ctx (j + 1)).live then 2 ^ (j + 1) else 0).sum
/-- The lowest free helper slot (R102). -/
def freeSlot? (c : Core) : Option Nat := ((List.range 10).map (· + 1)).find? fun j => !(c.ctx j).live
/-- Whether a helper's window covers a row of the vector file (R67). -/
def rowUsed (c : Core) (r : Nat) : Bool :=
  ((List.range 10).map (· + 1)).any fun j =>
    let x := c.ctx j
    x.live && x.winBase ≤ r && r < x.winBase + 2 ^ x.winSize.toNat
/-- The lowest window base of R67 for a size code. -/
def windowBase? (c : Core) (size : Nat) : Option Nat :=
  let rows := 2 ^ size
  ((List.range 16).map (· + 8)).find? fun b =>
    (b - 8) % rows == 0 && b + rows ≤ 24 && (List.range rows).all fun j => !c.rowUsed (b + j)
/-- The entry of a shadow set of the copy engine (R217). -/
def shadowReg (c : Core) (k ix : Nat) : Word := c.en.shadow.get (k * 16 + ix) 0#64

end Core
end Sys2Proof.Machine
end

