-- ==== Sys2Proof/Machine/Race.lean ====
section
/-!
DEFINITION. The race checker (R124 to R126, R222) over the scratchpad side of a core, and the bookkeeping of completions.
Region numbers are unbounded; the stamps that R126 forgets are removed at each release and completion (log 11).
-/
namespace Sys2Proof.Machine

/-- The pointwise maximum of two rows (R124, lines 13 and 14). -/
def Row.join (a b : Row) : Row := b.entries.foldl (fun r e => r.set e.1 (Nat.max (r.get e.1 0) e.2)) a

/-- What an observation of completion `c` acquires: the DMA port's stamps up to it (R125). -/
def Row.obs (n : Nat) : Row := if n = 0 then {} else Tab.set {} 12 n

/-- The key under which a row holds what its holder has acquired of another core's completed copies into memory (R225, R298 note 2). -/
def Row.far (core : Nat) : Nat := 16 + core

/-- What a release of a context of `core` hands to a party on another core: what it has acquired of other cores, and the completions of its
own core that it has observed (R225, R298). -/
def Row.export (r : Row) (core : Nat) : Row :=
  let x : Row := r.filterVals fun k _ => 16 ≤ k
  if r.get 12 0 = 0 then x else x.set (Row.far core) (Nat.max (x.get (Row.far core) 0) (r.get 12 0))

/-- The key under which a row holds that its holder has acquired a numbered release (R377, R378). -/
def Row.via (n : Nat) : Nat := 65536 + n

/-- What the acquisition of numbered releases gives (R377, R378). -/
def Row.viaAll (l : List Nat) : Row := l.foldl (fun r n => r.set (Row.via n) 1) {}

/-- Whether a row's holder on a core has acquired the write that a core made before its completion `no` (R125, R298). -/
def Row.knows (r : Row) (core : Nat) (w no : Nat) : Bool := no < (if w = core then Nat.max (r.get 12 0) (r.get (Row.far w) 0) else r.get (Row.far w) 0)

/-- The granules of the `n` bytes from `a` (R124). -/
def granules (a n : Nat) : List Nat := if n = 0 then [] else (List.range ((a + n - 1) / 64 - a / 64 + 1)).map (· + a / 64)

/-- The granules of several ranges, in order. -/
def granulesOf (rs : List (Nat × Nat)) : List Nat := (rs.map fun r => granules r.1 r.2).flatten

namespace Spad

/-- A granule's state. -/
def granule (sp : Spad) (q : Nat) : Gran := sp.gran.get q {}
/-- Context X's region number (R124). -/
def regionOf (sp : Spad) (x : Nat) : Nat := sp.region.get x 0
/-- SEEN_X (R124). -/
def seenRow (sp : Spad) (x : Nat) : Row := sp.seen.get x {}
/-- Whether a granule lies in the source range of an incomplete copy other than `but` (R124, line 05). -/
def inSource (sp : Spad) (but : Option EngineId) (q : Nat) : Bool :=
  sp.srcs.any fun r => some r.id != but && r.runs.any fun b => b.2 != 0 && b.1 / 64 ≤ q && q ≤ (b.1 + b.2 - 1) / 64

/-- Whether a granule lies in the destination of a copy that the context has launched and that has not started (R74 note 1). -/
def owesCopy (sp : Spad) (x q : Nat) : Bool :=
  sp.dsts.any fun d => d.ctx == x && d.runs.any fun b => b.2 != 0 && b.1 / 64 ≤ q && q ≤ (b.1 + b.2 - 1) / 64

/-- Line 02 of R124. What a killed helper had issued, under a number from 16, completes whatever others have written since (R104). -/
def readConflict (sp : Spad) (x q : Nat) : Bool :=
  let g := sp.granule q
  match g.w with
  | some y => x < 16 && y < 12 && y != x && (sp.seenRow x).get y 0 ≤ g.n
  | none => false

/-- Lines 05 to 08 of R124, with the context's own launched copies (R74 note 1); none of them stops what a killed helper had issued
(R104). -/
def writeConflict (sp : Spad) (x q : Nat) : Bool :=
  let g := sp.granule q
  x < 16 && (g.pend.isSome || sp.inSource none q || sp.owesCopy x q
    || (match g.w with
        | some y => y != x && (sp.seenRow x).get y 0 ≤ g.n
        | none => false)
    || (g.rm &&& ~~~(1#12 <<< x)) != 0#12)

/-- Line 03 of R124. -/
def stampRead (sp : Spad) (x q : Nat) : Spad :=
  let g := sp.granule q
  { sp with gran := sp.gran.set q { g with rm := g.rm ||| (1#12 <<< x) } }

/-- Line 09 of R124; a killed helper's late write carries its slot (R104). -/
def stampWrite (sp : Spad) (x q : Nat) : Spad :=
  let g := sp.granule q
  { sp with gran := sp.gran.set q { g with w := some (x % 16), n := sp.regionOf x, rm := 0#12, rt := none } }

/-- The first granule of ranges that a read by X conflicts on, as its offset. -/
def readRace (sp : Spad) (x : Nat) (rs : List (Nat × Nat)) : Option Nat :=
  ((granulesOf rs).find? (sp.readConflict x)).map (· * 64)

/-- The first granule of ranges that a write by X conflicts on, as its offset. -/
def writeRace (sp : Spad) (x : Nat) (rs : List (Nat × Nat)) : Option Nat :=
  ((granulesOf rs).find? (sp.writeConflict x)).map (· * 64)

/-- Stamp the reads of ranges. -/
def stampReads (sp : Spad) (x : Nat) (rs : List (Nat × Nat)) : Spad := (granulesOf rs).foldl (fun t q => t.stampRead x q) sp
/-- Stamp the writes of ranges. -/
def stampWrites (sp : Spad) (x : Nat) (rs : List (Nat × Nat)) : Spad := (granulesOf rs).foldl (fun t q => t.stampWrite x q) sp

/-- R126: forget the stamps of accessor X that are 128 or more regions old; the number that a granule PEND will carry is still to come (R125). -/
def forget (sp : Spad) (x now : Nat) : Spad :=
  { sp with gran := sp.gran.mapVals fun _ g => if g.w = some x ∧ g.pend.isNone ∧ g.n + 128 ≤ now then { g with w := none } else g }

/-- A full release by X (R124, lines 10 and 11; R126). -/
def release (sp : Spad) (x : Nat) : Spad :=
  let n := sp.regionOf x + 1
  forget { sp with region := sp.region.set x n,
                   gran := sp.gran.mapVals fun _ g => { g with rm := g.rm &&& ~~~(1#12 <<< x) } } x n

/-- What an acquire of X's release takes over: SEEN_X with X's own region number (R124, lines 13 and 14). -/
def relRow (sp : Spad) (x : Nat) : Row := Row.join (sp.seenRow x) (Tab.set {} x (sp.regionOf x))

/-- An acquire by X of a release's row (R124, lines 12 to 14). -/
def acquire (sp : Spad) (x : Nat) (r : Row) : Spad := { sp with seen := sp.seen.set x (Row.join (sp.seenRow x) r) }

/-- The acquire of an ord=acq access of granule q by X (R124, line 18). -/
def acquireTag (sp : Spad) (x q : Nat) : Spad :=
  match (sp.granule q).rt with
  | some (y, m) => if y = x then sp else sp.acquire x (Row.join (sp.seenRow y) (Tab.set {} y m))
  | none => sp

/-- The release tag an ord=rel access of granule q by X leaves (R124, line 16). -/
def setTag (sp : Spad) (x q : Nat) : Spad :=
  let g := sp.granule q
  { sp with gran := sp.gran.set q { g with rt := some (x, sp.regionOf x) } }

/-- The DMA port's check before it writes granule q for a copy of a context of this core, by the launcher's snapshot (R125). -/
def dmaWriteConflict (sp : Spad) (id : EngineId) (x : Nat) (row : Row) (q : Nat) : Bool :=
  let g := sp.granule q
  (match g.pend with | some i => i != id | none => false) || sp.inSource (some id) q
  || (match g.w with
      | some y => y != x && row.get y 0 ≤ g.n && g.pend != some id
      | none => false)
  || (g.rm &&& ~~~(1#12 <<< x)) != 0#12

/-- The check of a copy that another core launched (R222). -/
def dmaForeignConflict (sp : Spad) (id : EngineId) (q : Nat) : Bool :=
  let g := sp.granule q
  (match g.pend with | some i => i != id | none => false) || sp.inSource (some id) q || g.rm != 0#12
  || (match g.w with | some y => y < 12 && sp.regionOf y == g.n | none => false)

/-- The DMA port's check before it reads granule q of a copy's source (R125). -/
def dmaReadConflict (sp : Spad) (id : EngineId) (x : Nat) (row : Row) (q : Nat) : Bool :=
  let g := sp.granule q
  (match g.pend with | some i => i != id | none => false)
  || (match g.w with | some y => y < 12 && y != x && row.get y 0 ≤ g.n | none => false)

/-- The DMA port's stamp of a granule it writes (R125). -/
def dmaStamp (sp : Spad) (id : EngineId) (q : Nat) : Spad :=
  let g := sp.granule q
  { sp with gran := sp.gran.set q { g with w := some 12, rt := none, pend := some id } }

/-- An engine command that has gone: its ranges go, and its granules leave PEND as `f` says. -/
def endCommand (sp : Spad) (id : EngineId) (f : Gran → Gran) : Spad :=
  { sp with gran := sp.gran.mapVals (fun _ g => if g.pend = some id then { f g with pend := none } else g),
            srcs := sp.srcs.filter fun r => r.id != id, dsts := sp.dsts.filter fun r => r.id != id }

/-- The end of an engine command: its granules leave PEND, stamped with completion `c` (R125). -/
def clearPend (sp : Spad) (id : EngineId) (c : Nat) : Spad := sp.endCommand id fun g => { g with n := c }

/-- A command that goes before it took a granule: its granules, of which it has none or only a PEND of its issue, leave PEND as they were
(R122). -/
def dropPend (sp : Spad) (id : EngineId) : Spad := sp.endCommand id fun g => g

/-- A completion of the DMA port: the granules of `id` take the count c, which then rises (R125, R126). -/
def complete (sp : Spad) (id : EngineId) : Spad :=
  let t := sp.clearPend id sp.compl
  forget { t with compl := sp.compl + 1 } 12 (sp.compl + 1)

/-- A command that is abandoned in flight: the granules that it had taken, stamped 12 already, take the count as at a completion (R125,
R131). -/
def abandon (sp : Spad) (id : EngineId) : Spad :=
  if sp.gran.entries.any fun e => e.2.pend == some id then sp.complete id else sp.dropPend id

end Spad

/-- A context that stops: it issues nothing any more, and its registers stay as they are until a start sets them (R66, R72, R103, R207). -/
def stopCtx (x : Ctx) : Ctx :=
  { x with live := false, wait := none, held := none, heldOn := none, declared := none, dbgHalt := false }

namespace Core

/-- Change the scratchpad side. -/
def updSp (c : Core) (f : Spad → Spad) : Core := { c with sp := f c.sp }
/-- Change the engines. -/
def updEn (c : Core) (f : Engines → Engines) : Core := { c with en := f c.en }
/-- Change the links. -/
def updLi (c : Core) (f : Links → Links) : Core := { c with li := f c.li }
/-- Change the barrel. -/
def updBar (c : Core) (f : Barrel → Barrel) : Core := { c with bar := f c.bar }
/-- Change the vector and matrix units. -/
def updUn (c : Core) (f : Units → Units) : Core := { c with un := f c.un }

/-- A full release by the context in a slot (R124). -/
def release (c : Core) (k : Nat) : Core := c.updSp (·.release k)
/-- An acquire by the context in a slot (R124). -/
def acquire (c : Core) (k : Nat) (r : Row) : Core := c.updSp (·.acquire k r)

/-- The deferred traps and queued commands of an ended helper pass to the control context (R113, R199, R382). -/
def passOwner (k : Nat) (e : Engines) : Engines :=
  let o : Nat → Nat := fun n => if n = k then 0 else n
  { e with
    matQ := e.matQ.map fun m => { m with owner := o m.owner }
    seq := e.seq.map fun m => { m with owner := o m.owner }
    copyQ := e.copyQ.map fun
      | .copy m => .copy { m with owner := o m.owner }
      | .coll m => .coll { m with owner := o m.owner }
    flight := e.flight.map fun
      | .copy m => .copy { m with owner := o m.owner }
      | .coll m => .coll { m with owner := o m.owner }
    ropeQ := e.ropeQ.map fun m => { m with owner := o m.owner }
    editRun := e.editRun.map fun m => { m with owner := o m.owner }
    defers := e.defers.map fun m => { m with owner := o m.owner } }

/-- The waits that a change of the core ends: a context whose wait `p` gives a release returns from it, whatever happens before its
instruction goes on (R23, R70). -/
def endWaits (c : Core) (p : Wait → Option Row) : Core :=
  c.updBar fun b => { b with ctxs := b.ctxs.mapVals fun _ x =>
    { x with wait := (x.wait.bind p).elim x.wait fun r => some (.met r) } }

/-- Free a slot and its window (R67, R103): its context ends with its registers as they are (R207), its latches become invalid (R111), contexts waiting for the slot
wake with its release (R104), its counts of collectives go with it (R373), and its deferred traps pass on (R382). -/
def endSlot (c : Core) (k : Nat) : Core :=
  let rel := c.sp.relRow k
  let own : Option OpLatch → Option OpLatch := fun l => l.filter fun o => o.owner != k
  let c := c.endWaits fun w => if w = .slotFree k then some rel else none
  { c with bar := { c.bar with ctxs := c.bar.ctxs.set k { stopCtx (c.ctx k) with winV := false } },
           sp := { c.sp with dsts := c.sp.dsts.filter fun d => d.ctx != k },
           un := { c.un with latchA := own c.un.latchA, latchB := own c.un.latchB, latchC := own c.un.latchC },
           en := passOwner k { c.en with groups := c.en.groups.filterVals fun g _ => g % 16 != k } }

end Core
end Sys2Proof.Machine
end

