-- ==== Sys2Proof/Machine/Graph.lean ====
section
/-!
DEFINITION. Launch packets and node descriptors (R253 to R255), node states and counters (R258 to R260), faults of a launch
(R261), the pass's levels (R262), suspicion scores and quarantine (R305, R306, R309), the end of a taste (R303).
-/
namespace Sys2Proof.Machine

/-- The little-endian field of `n` bytes at offset `o` of a record. -/
def field (bs : List Byte) (o n : Nat) : Nat := leNat ((bs.drop o).take n)

/-- Whether the bytes from `o` to below `e` are zero. -/
def zeroBytes (bs : List Byte) (o e : Nat) : Bool := ((bs.drop o).take (e - o)).all (· == 0#8)

/-- The fields of a launch packet (R253). -/
structure Packet64 where
  lid : Nat
  nnode : Nat
  nodes : Nat
  seed : Nat
  rate : Nat
  part : Nat
  blk : Nat
  spawn : Nat
  deriving DecidableEq, Repr

/-- Read a launch packet (R253). -/
def readPacket (b : List Byte) : Packet64 :=
  { lid := field b 0 4, nnode := field b 4 4, nodes := field b 8 8, seed := field b 16 8, rate := field b 24 2,
    part := field b 26 1 % 16, blk := field b 27 1 % 16, spawn := field b 28 2 }

/-- The fields of a node descriptor (R254). -/
structure Desc where
  code : Nat
  clen : Nat
  dlen : Nat
  data : Nat
  arg : Nat
  sp : Nat
  role : Nat
  prio : Nat
  flags : Nat
  pinned : Bool
  pin : Nat
  tagsets : Nat
  tagbase : Nat
  amtab : Nat
  preds : Nat
  nsucc : Nat
  ntile : Nat
  nhnd : Nat
  succ : Nat
  tiles : Nat
  footBase : Nat
  footLen : Nat
  hnds : Nat
  deriving DecidableEq, Repr

/-- Read a node descriptor (R254). -/
def readDesc (b : List Byte) : Desc :=
  { code := field b 0 8, clen := field b 8 4, dlen := field b 12 4, data := field b 16 8, arg := field b 24 8,
    sp := field b 32 4, role := field b 36 1 / 64, prio := field b 36 1 / 8 % 8, flags := field b 37 1,
    pinned := field b 38 1 / 8 % 2 == 1, pin := field b 38 1 % 8, tagsets := field b 39 1, tagbase := field b 40 2 * 1024,
    amtab := field b 44 4, preds := field b 48 2, nsucc := field b 50 2, ntile := field b 52 1, nhnd := field b 53 1,
    succ := field b 56 8, tiles := field b 64 8, footBase := field b 72 4, footLen := field b 76 4, hnds := field b 80 8 }

/-- The scratchpad's size in bytes (R114). -/
def spadSize : Nat := 786432

/-- Whether a descriptor keeps the limits of R254. -/
def descOk (b : List Byte) : Bool :=
  let d := readDesc b
  d.code % 32 == 0 && d.clen % 32 == 0 && 32 ≤ d.clen && d.clen ≤ 2 ^ 24 && d.dlen ≤ spadSize
  && (d.dlen == 0 || d.data % 8 == 0) && d.role != 0 && field b 36 1 % 8 == 0 && d.flags < 16 && field b 38 1 < 16
  && d.tagsets < 8 && (d.tagsets == 7 || d.tagbase + 8192 * 2 ^ d.tagsets ≤ spadSize) && zeroBytes b 42 44
  && d.ntile ≤ 16 && d.nhnd ≤ 16 && zeroBytes b 54 56 && d.succ % 4 == 0 && d.tiles % 32 == 0
  && d.footBase % 64 == 0 && d.footLen % 64 == 0 && d.footBase + d.footLen ≤ spadSize && d.hnds % 8 == 0
  && zeroBytes b 88 128

/-- FLAGS of a descriptor (R254): NOTASTE, TWIN, ROPES, AMOOUT. -/
def Desc.flag (d : Desc) (n : Nat) : Bool := d.flags / 2 ^ n % 2 == 1

/-- The mixing function of R243. -/
def mix (x : BitVec 64) : BitVec 64 :=
  let y := (x ^^^ (x >>> 33)) * 0x9E3779B97F4A7C15#64
  y ^^^ (y >>> 29)

/-- H(SEED, i) of R299. -/
def tasteHash (seed i : Nat) : Nat := (mix (BitVec.ofNat 64 seed ^^^ mix (BitVec.ofNat 64 i))).toNat / 2 ^ 48

/-- The empty descriptor, for a node whose descriptor has not been read. -/
def noDesc : Desc := readDesc []

namespace Node
/-- The node's descriptor. -/
def d (n : Node) : Desc := (n.desc.map readDesc).getD noDesc
end Node

/-! ### What a die reads for its work (R264, R293, R300) -/

namespace Die

/-- The reads of a die's engines that `p` names are over: none waits any more, and no status declared for one stays (R293). -/
def dropReads (x : Die) (p : XReq → Bool) : Die :=
  { x with waits := x.waits.filter fun r => !p r, declared := x.declared.filter fun q => !p q.1 }

/-- Dispatches whose images are being read are given up, and those reads with them (R264, R293). -/
def dropClaims (x : Die) (p : PassE × CoreId × Option CoreId → Bool) : Die :=
  { x.dropReads fun r => r.eng == .pass && x.claims.any fun k => p k && k.2.1 == r.core with claims := x.claims.filter fun k => !p k }

end Die

namespace State

/-- A die's part of a launch. -/
def partOf (s : State) (d l : Nat) : Part := (s.die d).parts.get l {}
/-- Change a die's part of a launch. -/
def updPart (s : State) (d l : Nat) (f : Part → Part) : State :=
  s.updDie d fun x => { x with parts := x.parts.set l (f (x.parts.get l {})) }
/-- A node of a die's part. -/
def node (s : State) (d l i : Nat) : Node := (s.partOf d l).nodes.get i {}
/-- Change a node of a die's part. -/
def updNode (s : State) (d l i : Nat) (f : Node → Node) : State :=
  s.updPart d l fun p => { p with nodes := p.nodes.set i (f (p.nodes.get i {})) }
/-- The packet of a launch. -/
def packet (s : State) (l : Nat) : Packet64 := readPacket ((s.mod.launches.get? l).elim [] (·.packet))
/-- Record a fault of a launch: the first one stands (R261). -/
def recordFault (s : State) (d l : Nat) (f : DieFault) : State :=
  s.updPart d l fun p => if p.fault.isSome then p else { p with fault := some f }
/-- A node enters a level of the pass, at its tail or at its head (R262). -/
def enterLevel (s : State) (d prio : Nat) (e : PassE) (atHead : Bool) : State :=
  s.updDie d fun x =>
    let q := x.levels.get prio []
    { x with levels := x.levels.set prio (if atHead then e :: q else q ++ [e]) }
/-- Take a node out of every level. -/
def leaveLevels (s : State) (d : Nat) (e : PassE) : State :=
  s.updDie d fun x => { x with levels := x.levels.mapVals fun _ q => q.filter (· != e) }
/-- A node becomes READY and joins the tail of its level (R258, R262). -/
def makeReady (s : State) (d l i : Nat) : State :=
  let t := s.updNode d l i fun n => { n with st := .ready }
  t.enterLevel d (t.node d l i).prio ⟨l, i, .original⟩ false

/-- One decrement of a node's counter from a source node (R258 to R260), with the release that the node's dispatch acquires (R271): at 0 it is
an underflow, recorded and discarded; a node whose descriptor has not been read keeps it for later. -/
def decrement (s : State) (d l i src : Nat) (rel : Row) : State :=
  let n := s.node d l i
  if n.desc.isNone then s.updNode d l i fun n => { n with early := n.early ++ [(src, rel)] }
  else if n.ctr = 0 then s.recordFault d l ⟨1, i, src⟩
  else s.updNode d l i fun n => { n with ctr := n.ctr - 1, rel := Row.join n.rel rel }

/-- The nodes of `is` that wait with a counter of 0 become READY, in increasing index (R260, R262). -/
def readyAll (s : State) (d l : Nat) (is : List Nat) : State :=
  (is.mergeSort (· ≤ ·)).eraseDups.foldl
    (fun t i => let n := t.node d l i
                if n.st = .waiting ∧ n.desc.isSome ∧ n.ctr = 0 then t.makeReady d l i else t) s

/-- Send an update of a node record's REFCNT to its controller (R194): the count's address, an increment or a decrement, in a
partition, from a die. -/
def sendRef (s : State) (va : Nat) (inc : Bool) (part d : Nat) : State :=
  if va = 0 then s else s.updMem fun m => { m with refUpd := m.refUpd ++ [(va + 16, inc, part, d)] }

/-- A physical core's suspicion score on its die (R305). -/
def scoreOf (s : State) (c : CoreId) : Score := (s.die (coreDie c)).scores.get (c % 640) {}
/-- Write a physical core's score record; WATCH and QUAR are persisted at once where a drive works (R305). -/
def setScore (s : State) (c : CoreId) (x : Score) : State :=
  let t := s.updDie (coreDie c) fun d => { d with scores := d.scores.set (c % 640) x }
  let o := s.mod.savedScores.get c {}
  if (x.watch != o.watch || x.quar != o.quar) && s.mod.drives != 0#2 then
    t.updMod fun m => { m with savedScores := m.savedScores.set c { o with watch := x.watch, quar := x.quar } }
  else t
/-- Quarantine a core: no dispatch from now on, a map change at the next launch boundary (R309). -/
def quarantine (s : State) (c : CoreId) : State :=
  let t := s.setScore c { s.scoreOf c with quar := true }
  t.updMod fun m => { m with map := { m.map with pending := true } }
/-- A core's score takes a value, and R306's thresholds apply. -/
def putScore (s : State) (c : CoreId) (v : Nat) : State :=
  let o := s.scoreOf c
  let t := s.setScore c { o with score := v }
  let t := if 512 ≤ v ∧ !o.watch then (t.setScore c { t.scoreOf c with watch := true }).tell c (.watch c) else t
  if 1024 ≤ v ∧ !o.quar then t.quarantine c else t
/-- Increase a core's score, saturating (R305, R306). -/
def addScore (s : State) (c : CoreId) (v : Nat) : State := s.putScore c (Nat.min 0xFFFF ((s.scoreOf c).score + v))

/-- A node completion: the die counts it, and every 2^20th one decays the scores (R305). -/
def countCompletion (s : State) (d : Nat) : State :=
  s.updDie d fun x => { x with completions := x.completions + 1 }

/-- The saturating increase of a field of the taste word (R304). -/
def satInc (n : Nat) : Nat := Nat.min 0xFFFF (n + 1)

/-- Release what a taste retained (R300): room, and references with RREL semantics. -/
def releaseTaste (s : State) (d l i : Nat) : State :=
  match (s.partOf d l).tastes.get? i with
  | none => s
  | some t =>
    let u := s.updDie d fun x => { x with tasteUsed := x.tasteUsed - t.room }
    let u := (t.roots.filter (· != 0)).eraseDups.foldl
      (fun v r => (List.range (t.roots.count r)).foldl (fun v _ => v.sendRef r false (s.packet l).part d) v) u
    u.updPart d l fun p => { p with tastes := p.tastes.erase i }

/-- Count an end of a taste in the taste word and release it (R303, R304). -/
def endTaste (s : State) (d l i : Nat) (f : TasteWord → TasteWord) : State :=
  (s.updPart d l fun p => { p with word := f p.word }).releaseTaste d l i

/-- A taste that ends dropped (R300, R301). -/
def dropTaste (s : State) (d l i : Nat) : State := s.endTaste d l i fun w => { w with drop := satInc w.drop }
/-- A taste that ends as VOID (R302). -/
def voidTaste (s : State) (d l i : Nat) : State := s.endTaste d l i fun w => { w with void := satInc w.void }

/-- Whether a cluster of the die, other than those named, has a logical core of a role (R302, R303). -/
def roleElsewhere (s : State) (d role : Nat) (clusters : List Nat) : Bool :=
  (List.range 64).any fun q =>
    let key := d * 64 + q
    !clusters.contains key
    && (List.range (s.cluster key).logical.length).any fun j => (s.roleEntry key j).toNat / 2 ^ 30 == role

/-- The verdict of R303 on three digests, none standing for a halted run: who is scored, and whether the original is convicted. -/
def verdict (s : State) (d l i : Nat) (t : Taste) (d3 : Option Nat) : State :=
  let dis : TasteWord → TasteWord := fun w => { w with run := satInc w.run, dis := satInc w.dis }
  if d3.isSome ∧ d3 = t.d1 then (s.addScore t.core2 256).endTaste d l i dis
  else if d3.isSome ∧ d3 = t.d2 then
    let u := (s.addScore t.core1 256).endTaste d l i dis
    u.updPart d l fun p => { p with conv := some (p.conv.elim i (Nat.min i)) }
  else (((s.addScore t.core1 64).addScore t.core2 64).addScore t.core3 64).endTaste d l i dis

/-- A taste that finds no third cluster ends as no majority over two cores (R303). -/
def noThird (s : State) (d l i : Nat) (t : Taste) : State :=
  ((s.addScore t.core1 64).addScore t.core2 64).endTaste d l i fun w => { w with run := satInc w.run, dis := satInc w.dis }

/-- A run of a taste ends with a digest, or none where it halted (R302, R303). -/
def tasteRunDone (s : State) (d l i : Nat) (kind : RunKind) (dig : Option Nat) : State :=
  match (s.partOf d l).tastes.get? i with
  | none => s
  | some t =>
    match kind with
    | .original =>
      -- the taste run enters at the tail of level 0, unless no other cluster has the role
      if s.roleElsewhere d (s.node d l i).d.role [coreCluster t.core1] then
        (s.updPart d l fun p => { p with tastes := p.tastes.set i { t with phase := .wait2, d1 := dig } }).enterLevel d 0
          ⟨l, i, .taste⟩ false
      else s.dropTaste d l i
    | .taste =>
      if dig.isSome ∧ dig = t.d1 then s.endTaste d l i fun w => { w with run := satInc w.run }
      else if s.roleElsewhere d (s.node d l i).d.role [coreCluster t.core1, coreCluster t.core2] then
        (s.updPart d l fun p => { p with tastes := p.tastes.set i { t with phase := .wait3, d2 := dig, taken := 0 } }
          ).enterLevel d 0 ⟨l, i, .third⟩ false
      else s.noThird d l i t
    | .third => s.verdict d l i t dig

/-- The 16 bytes of a reply (R215). -/
def replyBytes (status cause : Nat) (value : Word) : List Byte :=
  leBytes 2 status ++ leBytes 1 cause ++ leBytes 5 0 ++ leBytes 8 value.toNat

/-- Send the reply of a message to its sender, and to the twin that sent the same one (R215, R227), with what the handler's end releases to
them (R216). -/
def reply (s : State) (m : Msg) (status cause : Nat) (value : Word) (rel : Row := {}) : State :=
  (m.src :: m.also.toList).foldl (fun t i =>
    t.updCore i fun c => c.updLi fun l => { l with replies := l.replies ++ [⟨m.reply, replyBytes status cause value, m.gen, if i = m.tgt then rel else rel.export m.tgt, m.launch⟩] }) s

/-- A handler that stands in the service slot when its core's run ends is abandoned: it replies TRAPPED (R232). -/
def dropHandler (s : State) (c : CoreId) : State :=
  match (s.core c).li.handling with
  | none => s
  | some m => (s.updCore c fun x => x.updLi fun l => { l with handling := none, replyVal := 0#64 }).reply m 2 0 0#64

/-- Every context of a core stops; what HKILL has left of one goes (R72, R104). -/
def stopAll (b : Barrel) : Barrel := { b with ctxs := (b.ctxs.filterVals fun k _ => k < 12).mapVals fun _ x => stopCtx x }

/-- The core a run stood on becomes idle: its contexts stop, unstarted commands go (R72, R121, R267). What has started completes, no
collective is still to be issued there (R373), and what the die read of its node for a taste is over (R293, R300). -/
def clearRun (s : State) (c : CoreId) : State :=
  let t := (s.dropHandler c).updDie (coreDie c) (·.dropReads fun r => r.eng == .taste && r.core == c)
  (t.updMod fun m => { m with failedColls := m.failedColls.map fun f => { f with cores := f.cores.erase c } }).updCore c fun x =>
    { x with run := none, ending := false,
             bar := { stopAll x.bar with forks := [] },
             un := { x.un with latchA := none, latchB := none, latchC := none },
             en := { x.en with matQ := [], copyQ := [], ropeQ := [], defers := [] },
             sp := { x.sp with srcs := x.sp.srcs.filter fun r => match r.id with
                        | .copy _ t => x.en.flight.any fun
                            | .copy m => m.tid == t
                            | .coll m => m.tid == t
                        | .edit _ t => x.en.editRun.any fun e => e.ticket == t
                        | .press .. => true } }

/-- An engine command that is abandoned in flight: the granules it has taken leave PEND with the count of that moment, and its ranges go, in
every core (R125, R131). -/
def dropEngine (s : State) (id : EngineId) : State :=
  { s with cores := s.cores.mapVals fun _ c => c.updSp (·.abandon id) }

/-- The pins that a copy's pass holds go (R220, R292). -/
def unpinCopy (s : State) (core : CoreId) (m : Copy) : State :=
  m.pinned.foldl (fun t i => t.updDie (coreDie core) (·.unpin i)) s

/-- Twins are halted: nothing that one of them has sent goes on without its pair. Its copies in flight that have not been compared are given up
unapplied, and its messages that wait for their pair are no longer outstanding (R227). -/
def dropUnpaired (s : State) (c : CoreId) : State :=
  let x := s.core c
  let gone := x.en.flight.filter fun
    | .copy m => m.run.any (·.twin) && !m.twinOk
    | .coll _ => false
  let msgs := x.li.twinOut.filter fun
    | .msg .. => true
    | _ => false
  let s := gone.foldl (fun t e => match e with
    | .copy m => (t.unpinCopy c m).dropEngine (.copy c m.tid)
    | .coll _ => t) s
  s.updCore c fun x => { x with en := { x.en with flight := x.en.flight.filter fun e => !gone.contains e },
                                li := { x.li with twinOut := [], outstanding := x.li.outstanding - msgs.length } }

/-- Whether the node may be restarted (R226). -/
def restartable (n : Node) : Bool := !n.d.flag 3 && n.restarts < 2

/-- A halt of a node (R72, R226, R258, R302): the node stops on its core, and on its twin's; a node to be restarted waits for
NODE_RESTART, any other is FAILED; a halted taste run ends without a digest. DESIGN CHOICE: on a core that runs no dispatched node, as a
service core, the halt stops the contexts and leaves what they have queued and a handler without its reply (log 34). -/
def haltNode (s : State) (c : CoreId) (cause : Nat) (restart : Bool) : State :=
  match (s.core c).run with
  | none => s.updCore c fun x => x.updBar stopAll
  | some r =>
    let d := coreDie c
    let n := s.node d r.launch r.node
    let s := s.clearRun c
    match r.kind with
    | .original =>
      let s := if r.twin then
          match n.core, n.twinCore with
          | some a, some b => (((s.clearRun a).clearRun b).dropUnpaired a).dropUnpaired b
          | _, _ => s
        else s
      if restart && restartable n then
        s.updNode d r.launch r.node fun n => { n with core := none, twinCore := none, cause := cause }
      else
        let s := s.updNode d r.launch r.node fun n => { n with st := .failed, core := none, twinCore := none, cause := cause }
        (s.recordFault d r.launch ⟨3, r.node, cause⟩).releaseTaste d r.launch r.node
    | k => s.tasteRunDone d r.launch r.node k none

end State
end Sys2Proof.Machine
end

