-- ==== Sys2Proof/Machine/Slots.lean ====
section
/-!
DEFINITION. The slots of a buffer handle (R117 to R120): arrivals, expectations, and the release and completion that a full slot
hands to HWAITF (R119).
-/
namespace Sys2Proof.Machine

namespace Handle

/-- Slot `j` of a handle. -/
def slotAt (h : Handle) (j : Nat) : HSlot := h.slots.get j {}
/-- Replace slot `j`. -/
def setSlot (h : Handle) (j : Nat) (x : HSlot) : Handle := { h with slots := h.slots.set j x }

/-- Arrival of `b` bytes on a slot (R118), with what its HWAITF will acquire; none on overflow. -/
def arrive (h : Handle) (j b : Nat) (rel : Row) (mc : Option (Nat × Nat)) : Option Handle :=
  let x := h.slotAt j
  let keep := if mc.isSome then mc else x.mcast
  match x.st with
  | .free => if h.size < b then none
             else some (h.setSlot j { x with st := .filling, exp := 0, arr := b, rel := rel, mcast := keep })
  | .filling =>
    let a := x.arr + b
    if h.size < a ∨ (x.exp ≠ 0 ∧ x.exp < a) then none
    else some (h.setSlot j { x with st := if x.exp ≠ 0 ∧ a = x.exp then .full else .filling, arr := a,
                                    rel := Row.join x.rel rel, mcast := keep })
  | _ => none

/-- HEXP of `e` bytes on a slot (R118); none on overflow. -/
def expect (h : Handle) (j e : Nat) : Option Handle :=
  let x := h.slotAt j
  if e = 0 then some h
  else if h.size < e then none
  else match x.st with
  | .free => some (h.setSlot j { x with st := .filling, exp := e, arr := 0 })
  | .filling =>
    let t := x.exp + e
    if h.size < t ∨ t < x.arr then none
    else some (h.setSlot j { x with exp := t, st := if x.arr = t then .full else .filling })
  | _ => if h.size < x.nxt + e then none else some (h.setSlot j { x with nxt := x.nxt + e })

/-- A slot becomes free (R118): an expectation already posted for the next phase makes it filling in the same cycle. -/
def freeSlot (h : Handle) (j : Nat) : Handle :=
  let x := h.slotAt j
  if x.nxt = 0 then h.setSlot j {} else h.setSlot j { st := .filling, exp := x.nxt }

/-- The slots of `n` phases from a pointer (R117). -/
def slotsFrom (h : Handle) (p n : Nat) : List Nat := (List.range n).map fun i => (p + i) % h.n
/-- Whether the slots of a count from CP are each full or draining (R169). -/
def fullFrom (h : Handle) (n : Nat) : Bool :=
  (h.slotsFrom h.cp n).all fun j => (h.slotAt j).st == .full || (h.slotAt j).st == .draining
/-- Whether the slots of a count from PP are free (R169). -/
def freeFrom (h : Handle) (n : Nat) : Bool := (h.slotsFrom h.pp n).all fun j => (h.slotAt j).st == .free
/-- The slots of a count from CP become draining, as HWAITF returns over them (R118, R169). -/
def drain (h : Handle) (n : Nat) : Handle :=
  (h.slotsFrom h.cp n).foldl (fun y j => y.setSlot j { y.slotAt j with st := .draining }) h
/-- What made the slots of a count from CP full, which HWAITF's return acquires (R119). -/
def fullRel (h : Handle) (n : Nat) : Row := (h.slotsFrom h.cp n).foldl (fun r j => Row.join r (h.slotAt j).rel) ({} : Row)

end Handle

namespace Core

/-- A handle, if it is initialised. -/
def handle? (c : Core) (h : Nat) : Option Handle := c.sp.handles.get? h
/-- Replace a handle. -/
def putHandle (c : Core) (h : Nat) (x : Handle) : Core := c.updSp fun sp => { sp with handles := sp.handles.set h x }

end Core

/-- The release with which a handle's new state ends a wait on it: HWAITF over full or draining slots, HWAITE over free ones
(R70, R169). -/
def Handle.ends (x : Handle) (h : Nat) : Wait → Option Row
  | .handleFull k n => if k = h ∧ n ≤ x.n ∧ x.fullFrom n then some (x.fullRel n) else none
  | .handleEmpty k n => if k = h ∧ n ≤ x.n ∧ x.freeFrom n then some {} else none
  | _ => none

/-- The counts of the HWAITFs that a handle's new state lets return. -/
def Core.returning (c : Core) (h : Nat) (x : Handle) : List Nat :=
  c.bar.ctxs.entries.filterMap fun e => match e.2.wait with
    | some (.handleFull k n) => if k = h ∧ n ≤ x.n ∧ x.fullFrom n then some n else none
    | _ => none

namespace Core

/-- A handle changes: the waits on it whose condition now holds end, HWAITFs over its full slots in slot order (R118, R119, R169). -/
def setHandle (c : Core) (h : Nat) (x : Handle) : Core :=
  (c.endWaits (x.ends h)).putHandle h ((c.returning h x).foldl Handle.drain x)
/-- Arrival of bytes on a handle's slot; none on overflow, or where the handle is not initialised. -/
def arrive (c : Core) (h j b : Nat) (rel : Row) (mc : Option (Nat × Nat)) : Option Core :=
  (c.handle? h).bind fun x => (x.arrive j b rel mc).map (c.setHandle h)

end Core
end Sys2Proof.Machine
end

