-- ==== Sys2Proof/Machine/Ops.lean ====
section
/-!
DEFINITION. The named operations every meaning shares: how an instruction stops (trap, wait, not ready), TAKING A TRAP (R72,
R73) and the return of ERET (R93), killing a core (R131), the end of a handler (R216), the channels (R210), advancing the pc.
-/
namespace Sys2Proof.Machine

/-- The code of a cause (R73). -/
def causeCode : Cause → Nat
  | .illegal => 1 | .priv => 2 | .align => 3 | .bounds => 4 | .regwin => 5 | .mmx => 6 | .wdog => 7 | .handle => 8
  | .guard => 9 | .rope => 10 | .graph => 11 | .cadence => 12 | .press => 13 | .copy => 14 | .trapi => 15 | .bkpt => 16
  | .channel => 17 | .mapstale => 18 | .quota => 19

/-- How an instruction ends other than by its own effect: it traps (R72); it begins a wait (R70); it is not ready and nothing
changes (R69); it consumed poison at a location, which kills the core (R130); it abandons a taste run (R302). -/
inductive Stop where
  | trap (cause : Cause) (eval : Word)
  | wait (w : Wait)
  | hold
  | kill (loc : Nat)
  | void
  deriving DecidableEq, Repr

/-! ### The code image -/

/-- The bytes from `a` to the end of its 32-byte fetch block (R38). -/
def Core.blockBytes (c : Core) (a : Nat) : List Byte := c.code.readBytes a (32 - a % 32)

/-- The instruction bytes that EVAL holds (R43): up to 8, and for a fetch-control word its own 4. -/
def Core.instrBytes (c : Core) (a : Nat) : Word :=
  let bs := c.blockBytes a
  let len := BitVec.ofNat 2 (leNat (bs.take 1))
  BitVec.ofNat 64 (leNat (bs.take (if len = 3#2 then 4 else 8)))

namespace State

/-- The context whose turn it is. -/
def me (s : State) : Ctx := s.here.ctx s.slot
/-- Change the context whose turn it is. -/
def updMe (s : State) (f : Ctx → Ctx) : State := s.updCore s.cur fun c => c.updCtx s.slot f
/-- Act for a slot of a core, and give the turn back. -/
def onSlot (s : State) (core slot : Nat) (f : State → State) : State :=
  { f { s with cur := core, slot := slot } with cur := s.cur, slot := s.slot }
/-- Change the core whose turn it is. -/
def updHere (s : State) (f : Core → Core) : State := s.updCore s.cur f
/-- The bytes of the instruction at the pc, as EVAL holds them (R43). -/
def bytesHere (s : State) : Word := s.here.instrBytes s.me.pc.toNat
/-- The instruction is done: the pc moves past its `len` bytes, and nothing waits or is held. -/
def advance (s : State) (len : Nat) : State :=
  s.updMe fun x => { x with pc := x.pc + BitVec.ofNat 64 len, wait := none, held := none, heldOn := none, declared := none }
/-- The instruction is done and fetch goes to `t`. -/
def jump (s : State) (t : Word) : State :=
  s.updMe fun x => { x with pc := t, wait := none, held := none, heldOn := none, declared := none }
/-- The run of the core whose turn it is is a taste run or a third run (R302). -/
def inTaste (s : State) : Bool := s.here.run.any fun r => r.kind != .original

/-! ### Active messages: the end of a handler (R216) -/

/-- The end of the handler in a core's slot 11 (R216, R230): a release; then the target-handle arrival, which where it would
overflow is discarded and makes the reply BADARG; then the reply. -/
def endHandler (s : State) (i : CoreId) (status cause : Nat) (value : Word) : State :=
  match (s.core i).li.handling with
  | none => s
  | some m =>
    let c := (s.core i).release 11
    let rel := c.sp.relRow 11
    let c := (c.updLi fun l => { l with handling := none, replyVal := 0#64 }).endSlot 11
    match m.th with
    | none => (s.setCore i c).reply m status cause value rel
    | some (h, n) =>
      match c.handle? h with
      | none => (s.setCore i c).reply m 5 0 0#64 rel
      | some x =>
        match c.arrive h x.pp n rel none with
        | some c' => (s.setCore i c').reply m status cause value rel
        | none => (s.setCore i c).reply m 5 0 0#64 rel

/-! ### Channels (R210, R211, R226) -/

/-- The role entry in force for a core: that of its last dispatch, whatever RECAST has written since (R209). -/
def wireOf (s : State) (i : CoreId) : Option (BitVec 32) := (s.logicalNo i).map fun _ => (s.core i).wired

/-- Where an output channel leads: `out` 0 for q2 and 1 for q3; the receiving core and its input (R209). -/
def outDest (s : State) (i : CoreId) (out : Nat) : Option (CoreId × Nat) :=
  (s.wireOf i).bind fun w =>
    let dst := if out = 0 then w.toNat / 2 ^ 18 % 16 else w.toNat / 2 ^ 13 % 16
    let ch := if out = 0 then w.toNat / 2 ^ 17 % 2 else w.toNat / 2 ^ 12 % 2
    if dst = 15 then none else (s.logicalCore (coreCluster i) dst).map fun j => (j, ch)

/-- The core and output that an input channel is fed from: one that runs a node, else one between nodes whose last dispatch wired it so
(R209, R210). -/
def inputFrom (s : State) (i : CoreId) (ch : Nat) : Option (CoreId × Nat) :=
  let all := ((List.range 10).map (coreOf (coreCluster i))).filterMap fun j =>
    if s.outDest j 0 = some (i, ch) then some (j, 0) else if s.outDest j 1 = some (i, ch) then some (j, 1) else none
  (all.find? fun x => (s.core x.1).run.isSome).or all.head?

/-- A word leaves an output for the input that it leads to, which notes its sender (R210). -/
def sendWord (s : State) (i : CoreId) (out : Nat) (w : Word) : State :=
  match s.outDest i out with
  | some (j, ch) => s.updCore j fun c => c.updLi fun l =>
      { l with wire := l.wire.set ch (l.wire.get ch [] ++ [w]), fed := l.fed.set ch (l.fed.get ch [] ++ [(i, out)]) }
  | none => s

/-- Append an ERRMSG marker behind the last word delivered to an input channel, for a kill or not (R226, R314). -/
def appendErr (s : State) (i : CoreId) (ch : Nat) (kill : Bool) : State :=
  s.updCore i fun c => c.updLi fun l =>
    { l with inq := l.inq.set ch (l.inq.get ch [] ++ (l.wire.get ch []).map .word ++ [.errmsg kill]), wire := l.wire.set ch [] }

/-! ### Traps (R72) -/

/-- Whether the first ERRMSG marker of an input was left by a kill; none where no marker stands. -/
def markerKill (l : List ChItem) : Option Bool :=
  l.findSome? fun
    | .errmsg k => some k
    | .word _ => none

/-- Whether the CHANNEL trap of a channel is owed to a kill: the marker that the read of the input meets is a killed core's, or without a
marker the core that feeds it has been killed; or the output leads to a killed core (R226). -/
def killNear (s : State) (i : CoreId) (ch : Nat) : Bool :=
  if ch < 2 then (markerKill ((s.core i).li.inq.get ch [])).getD ((s.inputFrom i ch).any fun j => (s.core j.1).li.killed)
  else (s.outDest i (ch - 2)).any fun j => (s.core j.1).li.killed

/-- Whether the key domain of the partition that a core runs is not ABSENT (R361). -/
def secretRun (s : State) (i : CoreId) : Bool :=
  (s.core i).run.any fun r => s.mod.mem.keys.get r.part .absent != .absent

/-- TAKE A TRAP in the context whose turn it is (R72): the service slot's handler is abandoned and replies TRAPPED; with
TVEC ≠ 0, EPC, ECAUSE and EVAL are written, TVEC is cleared and fetch goes to the old TVEC; otherwise the context halts, which
ends the node, and the service core is told. `epc` is the trapping instruction's address. -/
def takeTrapAt (s : State) (epc : Word) (cause : Cause) (eval : Word) : State :=
  let code := BitVec.ofNat 64 (causeCode cause)
  if s.slot = 11 then
    let s := s.tell s.cur (.halt s.cur 11 epc code eval (s.secretRun s.cur))
    s.endHandler s.cur 2 (causeCode cause) eval
  else if s.me.tvec ≠ 0#64 then
    s.updMe fun x => { x with epc := epc, ecause := code, eval := eval, tvec := 0#64, pc := x.tvec, wait := none,
                              held := none, heldOn := none, declared := none }
  else
    let s := s.tell s.cur (.halt s.cur s.slot epc code eval (s.secretRun s.cur))
    s.haltNode s.cur (causeCode cause) (cause == .channel && s.killNear s.cur (eval.toNat % 4))

/-- Take a trap at the instruction that the pc names (R73). -/
def takeTrap (s : State) (cause : Cause) (eval : Word) : State := s.takeTrapAt s.me.pc cause eval

/-- The return of ERET (R93): TVEC takes a value and fetch goes to EPC, in one step. -/
def trapReturn (s : State) (t : Word) : State :=
  s.updMe fun x => { x with tvec := t, pc := x.epc, wait := none, held := none, heldOn := none, declared := none }

/-- The contexts that wait to write to an input of a core which is sealed or killed trap CHANNEL at once (R131 step 4, R226). -/
def trapWriters (s : State) (i : CoreId) : State :=
  ((List.range 10).map (coreOf (coreCluster i))).foldl (fun t j => (List.range 12).foldl (fun t k =>
    match ((t.core j).ctx k).wait with
    | some (.chanWrite out) =>
      if (t.outDest j out).any (·.1 == i) then t.onSlot j k fun u => u.takeTrap .channel (BitVec.ofNat 64 (34 + out)) else t
    | _ => t) t) s

/-! ### Killing a core (R131) -/

/-- A copy that names a core which is killed or sealed as a destination will end with SEALED (R219, R226). -/
def sealEntry (i : CoreId) : CEntry → CEntry
  | .copy m => .copy (if m.status.isNone && m.rcv.any fun r => r.1 == i then { m with status := some 0x18#16 } else m)
  | .coll m => .coll m

/-- Every copy that has been launched and names a core as a destination, queued or in flight, will end with SEALED (R219, R226). -/
def sealCopies (s : State) (i : CoreId) : State :=
  { s with cores := s.cores.mapVals fun _ c => c.updEn fun e => { e with copyQ := e.copyQ.map (sealEntry i), flight := e.flight.map (sealEntry i) } }

/-- Seal a core, by a kill or by SEAL alone: its channel ends and mailbox; queued and arriving messages reply ERRMSG, copies to it end
with SEALED, and who waits to write to it traps (R131 step 4, R219, R226). -/
def sealLinks (s : State) (i : CoreId) (kill : Bool) : State :=
  let l := (s.core i).li
  let s := (l.mailbox ++ l.amIn).foldl (fun t m => t.reply m 3 0 0#64) s
  let s := s.updCore i fun c => c.updLi fun l => { l with isSealed := true, mailbox := [], amIn := [] }
  let s := s.sealCopies i
  let s := match s.outDest i 0 with | some (j, ch) => s.appendErr j ch kill | none => s
  (match s.outDest i 1 with | some (j, ch) => s.appendErr j ch kill | none => s).trapWriters i

/-- Kill a core (R131): contexts stop; queues are discarded; copies in flight are abandoned without a record; its links are
sealed; the service core is told; the core's memories are cleared; the node is to be restarted or FAILED (R226). Cause 0 is
consumed poison, 1 SEAL. DESIGN CHOICE: an edit that runs goes with the other engine commands, and the records and the piece reserved for it
never return to the pool (R188 is silent on a killed edit's reservation; log 64). -/
def killCore (s : State) (i : CoreId) (cause loc : Nat) : State :=
  let c := s.core i
  let ids := c.en.flight.map fun
    | .copy m => EngineId.copy i m.tid
    | .coll m => EngineId.copy i m.tid
  let ids := ids ++ (c.en.editRun.map fun e => EngineId.edit i e.ticket).toList
    ++ (c.en.press.keys.map fun t => EngineId.press i t)
  let s := ids.foldl dropEngine (c.en.flight.foldl (fun t x => match x with
    | .copy m => t.unpinCopy i m
    | .coll _ => t) s)
  let s := s.updCore i fun c =>
    { c with bar := { c.bar with ctxs := {} },
             en := { c.en with matQ := [], seq := none, copyQ := [], flight := [], ropeQ := [], editRun := none, press := {},
                               defers := [] },
             li := { c.li with handling := none, killed := true } }
  let s := s.sealLinks i true
  let s := s.tell i (.kill i cause loc)
  let s := s.updCore i fun c =>
    { c with un := { c.un with vfile := {}, accs := {}, latchA := none, latchB := none, latchC := none, mla := {}, poisonV := [], poisonA := [] },
             sp := { c.sp with mem := [], poison := [], gran := {}, srcs := [], dsts := [] } }
  s.haltNode i 0 true

/-! ### How an instruction stops -/

/-- Abandon a taste run at the present instruction; the taste ends as VOID (R302). -/
def voidRun (s : State) : State :=
  match s.here.run with
  | none => s
  | some r => (s.clearRun s.cur).voidTaste (coreDie s.cur) r.launch r.node

/-- An instruction stops. A wait resets WDCNT as it begins (R71). -/
def stop (s : State) : Stop → State
  | .trap c v => s.takeTrap c v
  | .wait w => s.updMe fun x => { x with wait := some w, wdcnt := 0#64 }
  | .hold => s
  | .kill loc => s.killCore s.cur 0 loc
  | .void => s.voidRun

/-- An instruction that acts on its core alone: it stops, or the core takes its new state and the pc moves on. -/
def finish (s : State) (len : Nat) : Except Stop Core → State
  | .error e => s.stop e
  | .ok c => (s.setCore s.cur c).advance len

/-- Trap ILLEGAL with EVAL holding the instruction bytes (R73). -/
def illegal (s : State) : State := s.takeTrap .illegal s.bytesHere

/-- A trap where `bad`, as a check of an instruction that acts on its core. -/
def trapIf (bad : Bool) (cause : Cause) (eval : Word) : Except Stop Unit :=
  if bad then .error (.trap cause eval) else .ok ()

end State
end Sys2Proof.Machine
end

