-- ==== Sys2Proof/Machine/Operands.lean ====
section
/-!
DEFINITION. The operand forms: scalars with the channels q0 to q3 (R28, R75, R210), predicates and lane masks, the predicate
field PR (R27), vector operands with their latches (R110, R111), sign extension, the scratchpad's checks (R88, R130).
-/
namespace Sys2Proof.Machine

/-- Sign extension of the low `n` bits of a word. -/
def sextTo (n : Nat) (v : Word) : Word := BitVec.ofInt 64 ((BitVec.ofNat n v.toNat).toInt)

/-- A signed field of an instruction as a word. -/
def immWord {n : Nat} (v : BitVec n) : Word := BitVec.ofInt 64 v.toInt

/-- The predicate field of an instruction (R27): bits [2:0] name a predicate, bit 3 inverts it. -/
def Ctx.holds (x : Ctx) (pr : BitVec 4) : Bool :=
  let p := x.rp (pr.toNat % 8)
  if pr.getLsbD 3 then !p else p

namespace State

/-- Whether a source field names an input channel (R28). -/
def isIn (f : Fld) : Bool := f.toNat == 32 || f.toNat == 33
/-- Whether a destination field names an output channel (R28). -/
def isOut (f : Fld) : Bool := f.toNat == 34 || f.toNat == 35

/-- The words that stand in an input channel before any ERRMSG marker. -/
def inWords (s : State) (ch : Nat) : List Word :=
  ((s.here.li.inq.get ch []).takeWhile fun | .word _ => true | .errmsg _ => false).filterMap fun
    | .word w => some w
    | .errmsg _ => none

/-- Whether a read of an input channel that lacks words traps CHANNEL: a marker follows, or the feeding core is sealed and
nothing is on its way (R70, R226). -/
def inDead (s : State) (ch : Nat) : Bool :=
  (markerKill (s.here.li.inq.get ch [])).isSome
  || ((s.here.li.wire.get ch []).isEmpty && (s.inputFrom s.cur ch).any fun j => (s.core j.1).li.isSealed)

/-- The check of an input channel that `need` operands read (R75, R210). -/
def readCheck (s : State) (ch need : Nat) : Option Stop :=
  if need = 0 then none
  else if (s.inputFrom s.cur ch).isNone then some (.trap .channel (BitVec.ofNat 64 (32 + ch)))
  else if (s.inWords ch).length < need then
    if s.inDead ch then some (.trap .channel (BitVec.ofNat 64 (32 + ch))) else some (.wait (.chanRead ch need))
  else none

/-- The check of an output channel that an instruction writes (R75, R210, R226). -/
def writeCheck (s : State) (out : Nat) : Option Stop :=
  match s.outDest s.cur out with
  | none => some (.trap .channel (BitVec.ofNat 64 (34 + out)))
  | some (j, _) =>
    if (s.core j).li.killed || (s.core j).li.isSealed then some (.trap .channel (BitVec.ofNat 64 (34 + out)))
    else if s.here.li.credit.get out 0 = 0 then some (.wait (.chanWrite out))
    else none

/-- The unwired channels among those an instruction names trap before any wait begins (R210). -/
def unwired (s : State) (ins outs : List Nat) : Option Stop :=
  match ins.find? fun ch => (s.inputFrom s.cur ch).isNone with
  | some ch => some (.trap .channel (BitVec.ofNat 64 (32 + ch)))
  | none => match outs.find? fun o => (s.outDest s.cur o).isNone with
    | some o => some (.trap .channel (BitVec.ofNat 64 (34 + o)))
    | none => none

/-- The channel check of an instruction that reads the scalar fields `rs` and writes `ws` (R75): in a taste run any channel
abandons the run (R302). DESIGN CHOICE: of two channels that both trap or wait, q0 comes before q1 and inputs before outputs, whatever
the field order (log 62). -/
def chanCheck (s : State) (rs ws : List Fld) : Option Stop :=
  if !(rs.any isIn || ws.any isOut) then none
  else if s.inTaste then some .void
  else
    let need : Nat → Nat := fun ch => (rs.filter fun f => f.toNat == 32 + ch).length
    let ins := [0, 1].filter fun ch => need ch != 0
    let outs := [0, 1].filter fun o => ws.any fun f => f.toNat == 34 + o
    (s.unwired ins outs).or ((ins.findSome? fun ch => s.readCheck ch (need ch)).or (outs.findSome? s.writeCheck))

/-- The sender of the oldest word of an input channel, to which its credit goes back (R210). -/
def creditTo (s : State) (ch : Nat) : Option (CoreId × Nat) := (s.here.li.fed.get ch []).head?.or (s.inputFrom s.cur ch)

/-- Take the oldest word of an input channel; its credit starts back to the sender (R210). -/
def popWord (s : State) (ch : Nat) : Word × State :=
  match s.here.li.inq.get ch [] with
  | .word w :: rest =>
    let t := s.updHere fun c => c.updLi fun l => { l with inq := l.inq.set ch rest, fed := l.fed.set ch (l.fed.get ch []).tail }
    (w, match s.creditTo ch with
        | some (j, out) => t.updCore j fun c => c.updLi fun l =>
            { l with creditBack := l.creditBack.set out (l.creditBack.get out 0 + 1) }
        | none => t)
  | _ => (0#64, s)

/-- Put a word on an output channel: a credit goes, and the word is on its way, or waits for the twin's (R210, R227). -/
def pushWord (s : State) (out : Nat) (w : Word) : State :=
  let t := s.updHere fun c => c.updLi fun l => { l with credit := l.credit.set out (l.credit.get out 0 - 1) }
  if s.here.run.any (·.twin) then t.updHere fun c => c.updLi fun l =>
    { l with twinOut := l.twinOut ++ [.chan l.twinNext out w], twinNext := l.twinNext + 1 }
  else t.sendWord s.cur out w

/-- Read a scalar source: a g register, or the oldest word of q0 or q1 (R28, R75). -/
def getScalar (s : State) (f : Fld) : Word × State := if isIn f then s.popWord (f.toNat - 32) else (s.me.rg f.toNat, s)

/-- Write a scalar destination: a g register, or a word on q2 or q3 (R28, R75). -/
def putScalar (s : State) (f : Fld) (v : Word) : State :=
  if isOut f then s.pushWord (f.toNat - 34) v else s.updMe (·.wg f.toNat v)

/-- An instruction D ← f(A) over scalars (R75). -/
def scalar1 (s : State) (len : Nat) (d a : Fld) (f : Word → Word) : State :=
  match s.chanCheck [a] [d] with
  | some e => s.stop e
  | none =>
    let p := s.getScalar a
    (p.2.putScalar d (f p.1)).advance len

/-- An instruction D ← f(A, B) over scalars (R75). -/
def scalar2 (s : State) (d a b : Fld) (f : Word → Word → Word) : State :=
  match s.chanCheck [a, b] [d] with
  | some e => s.stop e
  | none =>
    let p := s.getScalar a
    let q := p.2.getScalar b
    (q.2.putScalar d (f p.1 q.1)).advance 8

/-- An instruction P[D] ← f(A, B) over scalars (R81). -/
def compare2 (s : State) (d a b : Fld) (f : Word → Word → Bool) : State :=
  match s.chanCheck [a, b] [] with
  | some e => s.stop e
  | none =>
    let p := s.getScalar a
    let q := p.2.getScalar b
    (q.2.updMe (·.wp d.toNat (f p.1 q.1))).advance 8

/-- An instruction D ← v, with no scalar source (R84, R81). -/
def scalar0 (s : State) (len : Nat) (d : Fld) (v : Word) : State :=
  match s.chanCheck [] [d] with
  | some e => s.stop e
  | none => (s.putScalar d v).advance len

end State

/-! ### The scratchpad (R88, R114, R130) -/

/-- The poisoned word among those of `n` bytes from `a`, as its offset (R130). -/
def Spad.poisonIn (sp : Spad) (a n : Nat) : Option Nat :=
  (sp.poison.find? fun w => n != 0 && w * 8 < a + n && a < w * 8 + 8).map (· * 8)

/-- Clear the poison of the words that `n` bytes from `a` overwrite whole (R130). -/
def Spad.clearPoison (sp : Spad) (a n : Nat) : Spad :=
  { sp with poison := sp.poison.filter fun w => !(a ≤ w * 8 && w * 8 + 8 ≤ a + n) }

/-- Write bytes to the scratchpad. -/
def Spad.store (sp : Spad) (a : Nat) (bs : List Byte) : Spad :=
  { (sp.clearPoison a bs.length) with mem := sp.mem.writeBytes a bs }

/-- BOUNDS, then ALIGN, of an access of `n` bytes (R88). -/
def addrCheck (a : Word) (n : Nat) : Except Stop Unit := do
  State.trapIf (0xBFFFF < a.toNat) .bounds a
  State.trapIf (a.toNat % n != 0) .align a

/-- The race check of a read of ranges by a context, which neither reads nor stamps them (R124). -/
def Core.raceCheck (c : Core) (k : Nat) (rs : List (Nat × Nat)) : Except Stop Unit :=
  match c.sp.readRace k rs with
  | some q => .error (.trap .mmx (BitVec.ofNat 64 q))
  | none => .ok ()

/-- The checks and stamps of a read of ranges by a context: MMX on a race, then poison (R124, R130). -/
def Core.readRanges (c : Core) (k : Nat) (rs : List (Nat × Nat)) : Except Stop Core :=
  match c.sp.readRace k rs with
  | some q => .error (.trap .mmx (BitVec.ofNat 64 q))
  | none =>
    match rs.findSome? fun r => c.sp.poisonIn r.1 r.2 with
    | some w => .error (.kill w)
    | none => .ok (c.updSp (·.stampReads k rs))

/-- The checks and stamps of a write of ranges by a context: MMX on a race (R124). -/
def Core.writeRanges (c : Core) (k : Nat) (rs : List (Nat × Nat)) : Except Stop Core :=
  match c.sp.writeRace k rs with
  | some q => .error (.trap .mmx (BitVec.ofNat 64 q))
  | none => .ok (c.updSp (·.stampWrites k rs))

/-- A block of `n` bytes at a scratchpad address that must be a multiple of 8 and lie wholly within the scratchpad: BOUNDS
before ALIGN, EVAL the address (R200, R238, R279, R375). -/
def blockCheck (a : Word) (n : Nat) : Except Stop Unit := do
  State.trapIf (spadSize < a.toNat + n) .bounds a
  State.trapIf (a.toNat % 8 != 0) .align a

/-! ### Vector operands (R110, R111, R130) -/

/-- The operand positions of the latches. -/
inductive Pos where
  | a | b | c
  deriving DecidableEq, Repr

/-- The latch of a position. -/
def Units.latch (u : Units) : Pos → Option OpLatch
  | .a => u.latchA
  | .b => u.latchB
  | .c => u.latchC

/-- Load a latch. -/
def Units.setLatch (u : Units) (p : Pos) (l : OpLatch) : Units :=
  match p with
  | .a => { u with latchA := some l }
  | .b => { u with latchB := some l }
  | .c => { u with latchC := some l }

/-- Read a vector register from its bank; poison in an element read kills the core (R110, R130). -/
def Core.readBank (c : Core) (k : Nat) (f : Fld) : Except Stop VReg :=
  let ph := (c.ctx k).phys f.toNat
  match c.un.poisonV.find? fun e => e / 32 == ph with
  | some e => .error (.kill (2 ^ 32 + e))
  | none => .ok (c.un.vfile.get ph 0#1024)

/-- Read a vector operand through a position (R111): a held operand whose latch is valid, owned by the context and records the
register comes from the latch; any other is read from its bank and loads the latch. -/
def Core.readVec (c : Core) (k : Nat) (p : Pos) (held : Bool) (f : Fld) : Except Stop (VReg × Core) :=
  let ph := (c.ctx k).phys f.toNat
  let served := (c.un.latch p).filter fun l => held && l.owner == k && l.reg == ph
  match served with
  | some l => .ok (l.val, c)
  | none => do
    let v ← c.readBank k f
    .ok (v, c.updUn (·.setLatch p ⟨k, ph, v⟩))

end Sys2Proof.Machine
end

