-- ==== Sys2Proof/Machine/Engine.lean ====
section
/-!
DEFINITION. What the engines of a core share: deferred traps (R382), event records (R127, R128), the guard of a queued command
(R122, R171), checks by a command's snapshot row (R124, R158).
-/
namespace Sys2Proof.Machine

/-- The handle of the core that a deferred trap's command names (R382). -/
def DeferKey.handle : DeferKey → Option Nat
  | .copy _ h => h
  | .mat _ h _ => h
  | .edit _ => none

/-- Whether a deferred trap is that of a transfer id (R382). -/
def DeferKey.isCopy (k : DeferKey) (tid : Nat) : Bool :=
  match k with
  | .copy t _ => t == tid
  | _ => false

/-- Whether a deferred trap is that of a matrix command on an accumulator (R113). -/
def DeferKey.isAcc (k : DeferKey) (acc : Nat) : Bool :=
  match k with
  | .mat a _ _ => a == some acc
  | _ => false

/-- Whether a deferred trap is that of a rope edit's ticket (R199). -/
def DeferKey.isEdit (k : DeferKey) (ticket : Nat) : Bool :=
  match k with
  | .edit t => t == ticket
  | _ => false

/-- An instruction that takes its context's deferred trap of a kind in place of its effect, which clears the trap; else `t`
(R382). -/
def State.orDeferred (s : State) (p : DeferKey → Bool) (t : State) : State :=
  match s.here.en.defers.find? fun q => q.owner == s.slot && p q.key with
  | some q => (s.updHere (·.updEn fun e => { e with defers := e.defers.erase q })).takeTrap q.cause q.eval
  | none => t

/-- An instruction that names a handle (R382). -/
def State.orHandleTrap (s : State) (h : Nat) (t : State) : State := s.orDeferred (fun q => q.handle == some h) t

namespace Core

/-- A deferred trap becomes pending. -/
def addDefer (c : Core) (q : Defer) : Core := c.updEn fun e => { e with defers := e.defers ++ [q] }

/-- A record enters the event queue, and every EVWAIT returns (R70, R98). -/
def enterEvent (c : Core) (r : EvRec) : Core :=
  (c.updEn fun e => { e with events := e.events ++ [r] }).endWaits fun w => if w = .event then some {} else none

/-- A record enters the event queue in its turn, or is kept where the queue holds 32 (R128). -/
def post (c : Core) (r : EvRec) : Core :=
  if c.en.events.length < 32 ∧ c.en.evHeld.isEmpty then c.enterEvent r else c.updEn fun e => { e with evHeld := e.evHeld ++ [r] }

/-- The KIND of a record (R127). -/
def recKind (r : EvRec) : Nat := r.w0.toNat % 256

/-- The engine whose command a record ends: of the discarded commands those with a transfer id are the copy queue's (R122, R127). -/
def recEngine (r : EvRec) : Option EngineQ :=
  match recKind r with
  | 1 | 3 => some .copy
  | 2 => some .rope
  | 4 => some .matrix
  | 5 => if r.w0.toNat / 2 ^ 16 % 2 ^ 16 = 0 then some .matrix else some .copy
  | _ => none

/-- Whether a record of an engine has not entered the queue yet, so that the engine starts nothing (R128). -/
def holdsRecord (c : Core) (q : EngineQ) : Bool := c.en.evHeld.any fun r => recEngine r == some q

/-- Word 0 of a record (R127): kind, slot, id, status, and the handle with its slot. -/
def recWord (kind slot id status : Nat) (h : Option (Nat × Nat)) : Word :=
  BitVec.ofNat 64 (kind + 2 ^ 8 * slot + 2 ^ 16 * id + 2 ^ 32 * status
    + (match h with
       | some (h, j) => 2 ^ 48 * (128 + h) + 2 ^ 56 * j
       | none => 0))

/-- A guard slot (R122). -/
def guard (c : Core) (g : Nat) : Guard := c.sp.guards.get g {}

/-- The scratchpad side with context X's SEEN row replaced by a command's snapshot, for its checks (R124, R158). -/
def withRow (c : Core) (x : Nat) (r : Row) : Spad := { c.sp with seen := c.sp.seen.set x r, dsts := [] }

end Core

/-- A command's guard: GE, GS and the slot (R35, R217, R373). -/
structure GuardRef where
  ge : Bool
  gs : Bool
  slot : Nat
  deriving DecidableEq, Repr

/-- A guard from the byte in which a shadow set or a collective block holds it (R217, R373). -/
def GuardRef.ofByte (n : Nat) : GuardRef := ⟨n / 32 % 2 == 1, n / 16 % 2 == 1, n % 16⟩

/-- The guard of a matrix command, from its descriptor (R35). -/
def MatCmd.guardRef (q : MatCmd) : GuardRef :=
  match q.instr with
  | .latch _ _ _ e | .gath _ _ _ _ _ e | .mepi _ _ e | .tmm _ _ _ e => ⟨e.ge == 1#1, e.gs == 1#1, e.gsl.toNat⟩
  | _ => ⟨false, false, 0⟩

/-- The guard of a command of the copy queue, from its GUARD word or its block. -/
def CEntry.guardRef : CEntry → GuardRef
  | .copy m => .ofByte (m.sh.get 10 0#64).toNat
  | .coll m => .ofByte (field m.block 34 1)

/-- What a queued command's guard comes to at the head of its queue (R122): it waits, it is let through with the release to
acquire, or it is discarded. -/
inductive GuardFate where
  | waits
  | passes (rel : Row)
  | discarded
  deriving DecidableEq, Repr

/-- The fate of a guarded command: `ge` guarded, `sense` GS, `g` the slot (R36, R122, R171). -/
def guardFate (c : Core) (ge sense : Bool) (g : Nat) : GuardFate :=
  if !ge then .passes {}
  else match (c.guard g).val with
    | none => .waits
    | some v => if v != sense then .passes (c.guard g).rel else .discarded

/-- The fate of a command by its guard. -/
def GuardRef.fate (c : Core) (g : GuardRef) : GuardFate := guardFate c g.ge g.gs g.slot

/-- A matrix command at the head of its queue with its guard decided once and for all, where it is resolved (R122, R171). -/
def MatCmd.decide (c : Core) (q : MatCmd) : MatCmd :=
  if q.fate.isSome then q
  else match q.guardRef.fate c with
    | .waits => q
    | .passes rel => { q with fate := some true, row := Row.join q.row rel }
    | .discarded => { q with fate := some false }

/-- A command at the head of the copy queue with its guard decided (R122, R171). -/
def CEntry.decide (c : Core) : CEntry → CEntry
  | .copy m => if m.fate.isSome then .copy m
    else match (CEntry.copy m).guardRef.fate c with
      | .waits => .copy m
      | .passes rel => .copy { m with fate := some true, row := Row.join m.row rel }
      | .discarded => .copy { m with fate := some false }
  | .coll m => if m.fate.isSome then .coll m
    else match (CEntry.coll m).guardRef.fate c with
      | .waits => .coll m
      | .passes rel => .coll { m with fate := some true, row := Row.join m.row rel }
      | .discarded => .coll { m with fate := some false }

/-- The source range that a guarded copy takes as it passes its guard (R124, R171). -/
def CEntry.takes (c : Core) (e : CEntry) : List SrcRange :=
  match e with
  | .copy m => if m.fate.isNone then (match e.guardRef.fate c with
      | .passes _ => m.lock.toList
      | _ => []) else []
  | .coll _ => []

/-- Change the head of a list. -/
def onHead {α : Type} (f : α → α) : List α → List α
  | [] => []
  | x :: xs => f x :: xs

/-- The commands at the heads of the matrix and the copy queue are decided by their guards in the first cycle in which they stand there
and the guard is resolved: a later GSET or GCLR changes nothing of it (R122). -/
def Core.decideHeads (c : Core) : Core :=
  { c with sp := { c.sp with srcs := c.sp.srcs ++ (c.en.copyQ.head?.map (CEntry.takes c)).getD [] },
           en := { c.en with matQ := onHead (MatCmd.decide c) c.en.matQ, copyQ := onHead (CEntry.decide c) c.en.copyQ } }

end Sys2Proof.Machine
end

