-- ==== Sys2Proof/Machine/Handles.lean ====
section
/-!
DEFINITION. The meanings of HANDLE, GUARD and TAG (R116 to R120, R169 to R172).
-/
namespace Sys2Proof.Machine
open State

/-! ### Handles (R169, R170) -/

/-- The EVAL of a HANDLE trap (R120). -/
def handleEval (reason h : Nat) : Word := BitVec.ofNat 64 (reason * 16 + h)

/-- Trap HANDLE with a reason. -/
def handleTrap (reason h : Nat) : Stop := .trap .handle (handleEval reason h)

/-- The handle an instruction names, reason 1 where it is not initialised (R169). -/
def needHandle (c : Core) (h : Nat) : Except Stop Handle :=
  match c.handle? h with
  | some x => .ok x
  | none => .error (handleTrap 1 h)

/-- The count of HWAITF, HWAITE, HADV and HPUB: reason 5 outside 1 to N (R169). -/
def needCount (x : Handle) (h n : Nat) : Except Stop Unit :=
  if n = 0 ∨ x.n < n then .error (handleTrap 5 h) else .ok ()

/-- Whether a matrix command names a handle. -/
def matNames (h : Nat) (m : MatCmd) : Bool :=
  match m.instr with
  | .latch _ _ _ e | .gath _ _ _ _ _ e | .mepi _ _ e | .tmm _ _ _ e => e.he == 1#1 && e.hnd.toNat == h
  | _ => false

/-- Whether a copy delivers into a handle of a core (R218). -/
def copyNames (core h : Nat) : CEntry → Bool
  | .copy m => m.targets.any fun t => t.core == core && t.h == h
  | .coll _ => false

/-- Whether an incomplete copy or a queued command names a handle of a core (R169). -/
def handleInUse (s : State) (i : CoreId) (h : Nat) : Bool :=
  let c := s.core i
  c.en.matQ.any (matNames h) || c.en.seq.any (matNames h)
  || s.cores.entries.any fun e => (e.2.en.copyQ ++ e.2.en.flight).any (copyNames i h)

/-- HINIT (R169). -/
def execHinit (h a : Fld) (sz : BitVec 13) (n : Fld) (s : State) : Out :=
  let base := s.me.rg a.toNat
  let size := 8 * (sz.toNat + 1)
  .next (s.orHandleTrap h.toNat (if handleInUse s s.cur h.toNat then s.stop .hold
    else s.finish 8 do
      trapIf (base.toNat % 8 != 0) .align base
      trapIf (spadSize < base.toNat + (n.toNat + 1) * size) .bounds base
      .ok (s.here.setHandle h.toNat { base := base.toNat, size := size, n := n.toNat + 1 })))

/-- HWAITF (R169): full slots become draining, and the return acquires what made them full (R119). -/
def execHwaitf (h : Fld) (n : BitVec 7) (s : State) : Out :=
  .next (s.orHandleTrap h.toNat (s.finish 8 do
    let x ← needHandle s.here h.toNat
    needCount x h.toNat n.toNat
    if x.fullFrom n.toNat then .ok ((s.here.setHandle h.toNat (x.drain n.toNat)).acquire s.slot (x.fullRel n.toNat))
    else .error (.wait (.handleFull h.toNat n.toNat))))

/-- HWAITE (R169). -/
def execHwaite (h : Fld) (n : BitVec 7) (s : State) : Out :=
  .next (s.orHandleTrap h.toNat (s.finish 8 do
    let x ← needHandle s.here h.toNat
    needCount x h.toNat n.toNat
    if x.freeFrom n.toNat then .ok s.here else .error (.wait (.handleEmpty h.toNat n.toNat))))

/-- The multicast counters that HADV raises: a freed slot that a multicast filled returns its bit to the sender (R221). -/
def returnMcast (s : State) (x : Handle) (js : List Nat) : State :=
  js.foldl (fun t j => match (x.slotAt j).mcast with
    | some (core, bit) => t.updCore core fun c => c.updEn fun e =>
        { e with mcredit := e.mcredit.set bit (e.mcredit.get bit 0 + 1) }
    | none => t) s

/-- HADV (R169): a release; the slots become free, and CP advances. -/
def execHadv (h : Fld) (n : BitVec 7) (s : State) : Out :=
  .next (s.orHandleTrap h.toNat (match (do
      let x ← needHandle s.here h.toNat
      needCount x h.toNat n.toNat
      if x.fullFrom n.toNat then .ok x else .error (handleTrap 2 h.toNat) : Except Stop Handle) with
    | .error e => s.stop e
    | .ok x =>
      let js := x.slotsFrom x.cp n.toNat
      let y := js.foldl (fun y j => y.freeSlot j) x
      let y := { y with cp := (x.cp + n.toNat) % x.n }
      let t := s.setCore s.cur ((s.here.release s.slot).setHandle h.toNat y)
      (returnMcast t x js).advance 8))

/-- HPUB (R169): a release; free slots become full with it, and PP advances. -/
def execHpub (h : Fld) (n : BitVec 7) (s : State) : Out :=
  .next (s.orHandleTrap h.toNat (s.finish 8 do
    let x ← needHandle s.here h.toNat
    needCount x h.toNat n.toNat
    let js := x.slotsFrom x.pp n.toNat
    if js.all fun j => (x.slotAt j).st == .free || (x.slotAt j).st == .filling then
      let c := s.here.release s.slot
      let rel := c.sp.relRow s.slot
      let y := js.foldl (fun y j =>
        let q := y.slotAt j
        if q.st == .free then y.setSlot j { q with st := .full, rel := rel } else y) x
      .ok (c.setHandle h.toNat { y with pp := (x.pp + n.toNat) % x.n })
    else .error (handleTrap 3 h.toNat)))

/-- HEXP (R169). -/
def execHexp (h a sd : Fld) (s : State) : Out :=
  .next (s.orHandleTrap h.toNat (s.finish 8 do
    let x ← needHandle s.here h.toNat
    if x.n ≤ sd.toNat then .error (handleTrap 5 h.toNat)
    else match x.expect ((x.pp + sd.toNat) % x.n) (s.me.rg a.toNat).toNat with
      | some y => .ok (s.here.setHandle h.toNat y)
      | none => .error (handleTrap 4 h.toNat)))

/-- A slot state's code in the handle word (R170). -/
def slotCode : SlotSt → Nat
  | .free => 0 | .filling => 1 | .full => 2 | .draining => 3

/-- The handle word of a slot (R170). -/
def handleWord (c : Core) (h d : Nat) : Word :=
  match c.handle? h with
  | none => 0#64
  | some x =>
    let q := x.slotAt (d % x.n)
    BitVec.ofNat 64 (2 ^ 63 + 2 ^ 57 * x.pp + 2 ^ 51 * x.cp + 2 ^ 44 * x.n + 2 ^ 42 * slotCode q.st + 2 ^ 25 * q.exp
      + 2 ^ 8 * q.arr)

/-- HST (R169, R170). -/
def execHst (d h sd : Fld) (s : State) : Out :=
  .next ((s.updMe (·.wg d.toNat (handleWord s.here h.toNat sd.toNat))).advance 8)

/-! ### Guards (R171) -/

/-- GSET: a full release; the slot takes the predicate, and a command that waits for it at the head of a queue is decided (R122, R171).
DESIGN CHOICE: the release that a guarded command takes over is the setter's SEEN row as it stands at the GSET, whenever the command starts
(log 28). -/
def execGset (gd a : Fld) (s : State) : Out :=
  let c := s.here.release s.slot
  let g : Guard := { val := some (s.me.rp a.toNat), rel := c.sp.relRow s.slot }
  .next (s.finish 8 (.ok (c.updSp fun sp => { sp with guards := sp.guards.set gd.toNat g }).decideHeads))
/-- GCLR (R171). -/
def execGclr (gd : Fld) (s : State) : Out :=
  .next (s.finish 8 (.ok (s.here.updSp fun sp => { sp with guards := sp.guards.set gd.toNat {} })))
/-- GST (R171). -/
def execGst (d gd : Fld) (s : State) : Out :=
  .next ((s.updMe (·.wg d.toNat (match (s.here.guard gd.toNat).val with
    | none => 0#64
    | some true => 1#64
    | some false => 2#64))).advance 8)

/-! ### The tag table (R116, R172) -/

/-- The searchable ways (R172). -/
def progWays (sp : Spad) : Nat := if sp.ropesFlag then 6 else 8
/-- The line of an address (R172). -/
def lineOf (v : Word) : Nat := v.toNat / 1024
/-- The slots of a line's set that a program may use. -/
def setSlots (sp : Spad) (line : Nat) : List Nat := (List.range (progWays sp)).map fun w => 8 * (line % sp.tagSets) + w
/-- The way that holds a line. -/
def findTag (sp : Spad) (line : Nat) : Option Nat := (setSlots sp line).find? fun j => sp.tags.get? j == some line
/-- A slot becomes the most recently returned. -/
def touchTag (sp : Spad) (j : Nat) : Spad := { sp with tagAge := j :: sp.tagAge.filter (· != j) }
/-- The suggested victim of a line's set (R116): the lowest invalid way, else the least recently returned. -/
def tagVictim (sp : Spad) (line : Nat) : Nat :=
  let js := setSlots sp line
  match js.find? fun j => !sp.tags.has j with
  | some j => j
  | none => (sp.tagAge.reverse.find? js.contains).getD (js.headD 0)

/-- A tag instruction needs a region (R172). -/
def needRegion (c : Core) : Except Stop Unit := trapIf (c.sp.tagSets == 0) .bounds 0xC0000#64

/-- LOOKUP (R172). -/
def execLookup (d a : Fld) (s : State) : Out :=
  let line := lineOf (s.me.rg a.toNat)
  .next (s.finish 8 do
    needRegion s.here
    match findTag s.here.sp line with
    | some j => .ok ((s.here.updSp (touchTag · j)).wg s.slot d.toNat (BitVec.ofNat 64 j))
    | none =>
      let v := tagVictim s.here.sp line
      .ok (s.here.wg s.slot d.toNat (BitVec.ofNat 64 (2 ^ 63 + (if s.here.sp.tags.has v then 2 ^ 62 else 0) + v))))

/-- The slot check of TAGW and TAGINV (R172). -/
def needSlot (sp : Spad) (slot : Word) : Except Stop Unit :=
  trapIf (8 * sp.tagSets ≤ slot.toNat || (sp.ropesFlag && 6 ≤ slot.toNat % 8)) .bounds
    (BitVec.ofNat 64 sp.tagBase + 1024#64 * slot)

/-- TAGW (R172). -/
def execTagw (a b : Fld) (s : State) : Out :=
  let line := lineOf (s.me.rg a.toNat)
  let slot := s.me.rg b.toNat
  .next (s.finish 8 do
    needRegion s.here
    needSlot s.here.sp slot
    .ok (s.here.updSp fun sp =>
      let j := slot.toNat
      let kept := sp.tags.filterVals fun i l => !(i / 8 == j / 8 && l == line)
      touchTag { sp with tags := kept.set j line } j))

/-- TAGINV_SLOT (R172). -/
def execTaginvSlot (a : Fld) (s : State) : Out :=
  let slot := s.me.rg a.toNat
  .next (s.finish 8 do
    needRegion s.here
    needSlot s.here.sp slot
    .ok (s.here.updSp fun sp => { sp with tags := sp.tags.erase slot.toNat }))

/-- TAGINV_LINE (R172). -/
def execTaginvLine (a : Fld) (s : State) : Out :=
  .next (s.finish 8 do
    needRegion s.here
    .ok (s.here.updSp fun sp => match findTag sp (lineOf (s.me.rg a.toNat)) with
      | some j => { sp with tags := sp.tags.erase j }
      | none => sp))

end Sys2Proof.Machine
end

