-- ==== Sys2Proof/Machine/Flags.lean ====
section
/-!
DEFINITION. The conditions of comparisons (R80, R138), the fields of FMODE (R59), the flags an instruction raises and how they
gather in FMODE (R60), and the rounding an instruction takes (R30, R61).
-/
namespace Sys2Proof.Machine

/-- The condition of CMP, CMPI and integer VCMP by its code (R80, R138), on numbers of one width. -/
def condHolds {w : Nat} (cc : Nat) (x y : BitVec w) : Bool :=
  match cc with
  | 0 => x == y
  | 1 => x != y
  | 2 => x.toInt < y.toInt
  | 3 => y.toInt ≤ x.toInt
  | 4 => x.toNat < y.toNat
  | 5 => y.toNat ≤ x.toNat
  | 6 => y.toInt < x.toInt
  | 7 => x.toInt ≤ y.toInt
  | 8 => y.toNat < x.toNat
  | _ => x.toNat ≤ y.toNat

/-- The flags of R59 that an operation raises. -/
structure Flags where
  nv : Bool := false
  of : Bool := false
  uf : Bool := false
  nx : Bool := false
  deriving DecidableEq, Repr

namespace Flags
/-- Flags of either of two operations. -/
def or (a b : Flags) : Flags := ⟨a.nv || b.nv, a.of || b.of, a.uf || b.uf, a.nx || b.nx⟩
/-- The bits of FMODE [11:8] (R59). -/
def bits (f : Flags) : Word :=
  (if f.nv then 0x800#64 else 0#64) ||| (if f.of then 0x400#64 else 0#64) ||| (if f.uf then 0x200#64 else 0#64)
    ||| (if f.nx then 0x100#64 else 0#64)
/-- VSFU instructions never set NX (R60). -/
def noNx (f : Flags) : Flags := { f with nx := false }
end Flags

/-- The rounding modes (R54). -/
inductive Rnd where
  | rne | rtz | rdn | rup | rto
  deriving DecidableEq, Repr

/-- A rounding mode by its code (R54). -/
def Rnd.ofCode (n : Nat) : Rnd :=
  match n with
  | 0 => .rne | 1 => .rtz | 2 => .rdn | 3 => .rup | _ => .rto

/-- FMODE.RND (R59). -/
def fmodeRnd (f : Word) : Rnd := Rnd.ofCode (f.toNat % 8)
/-- FMODE.FTZ (R59). -/
def fmodeFtz (f : Word) : Bool := f.getLsbD 3
/-- FMODE.SAT (R59). -/
def fmodeSat (f : Word) : Bool := f.getLsbD 4
/-- The rounding of an instruction: its RND, or FMODE's for code 7 (R30, R61). -/
def rounding (m : VMod) (fmode : Word) : Rnd := if m.rnd = 7#3 then fmodeRnd fmode else Rnd.ofCode m.rnd.toNat

/-- Whether a value may stand in FMODE (R59, R60): reserved bits zero, RND assigned. -/
def fmodeOk (v : Word) : Bool := v.toNat < 0x1000 && v.toNat / 32 % 8 == 0 && v.toNat % 8 < 5

/-- The sticky flags gather in a context's FMODE (R59). -/
def Ctx.raise (x : Ctx) (f : Flags) : Ctx := { x with fmode := x.fmode ||| f.bits }

/-- The four flags of FMODE cleared (R60). -/
def clearFlags (f : Word) : Word := f &&& ~~~0xF00#64

end Sys2Proof.Machine
end

