-- ==== Sys2Proof/Machine/Scalar.lean ====
section
/-!
DEFINITION. The meanings of ALU, ALUI, MULDIV, CMP, BIT and CONST but VLDL (R77 to R86), and of the fetch-control words (R40).
-/
namespace Sys2Proof.Machine
open State

/-! ### Fetch control (R40) -/

/-- PAD: fetch goes to the start of the next fetch block (R40). -/
def execPad (s : State) : Out := .next (s.jump (BitVec.ofNat 64 ((s.me.pc.toNat / 32 + 1) * 32)))
/-- POOL: fetch goes to the start of the block n + 1 blocks on (R40). -/
def execPool (n : BitVec 8) (s : State) : Out := .next (s.jump (BitVec.ofNat 64 ((s.me.pc.toNat / 32 + n.toNat + 1) * 32)))

/-! ### ALU (R77) -/

/-- A shift left by a whole register: 0 from 64 on (R77). -/
def shlWord (x y : Word) : Word := if y.toNat < 64 then x <<< y.toNat else 0#64
/-- A logical shift right by a whole register: 0 from 64 on (R77). -/
def shrWord (x y : Word) : Word := if y.toNat < 64 then x >>> y.toNat else 0#64
/-- An arithmetic shift right by at most 63 (R77). -/
def sarWord (x y : Word) : Word := x.sshiftRight (Nat.min y.toNat 63)

/-- ADD (R77). -/
def execAdd (d a b : Fld) (s : State) : Out := .next (s.scalar2 d a b fun x y => x + y)
/-- SUB (R77). -/
def execSub (d a b : Fld) (s : State) : Out := .next (s.scalar2 d a b fun x y => x - y)
/-- AND (R77). -/
def execAnd (d a b : Fld) (s : State) : Out := .next (s.scalar2 d a b fun x y => x &&& y)
/-- OR (R77). -/
def execOr (d a b : Fld) (s : State) : Out := .next (s.scalar2 d a b fun x y => x ||| y)
/-- XOR (R77). -/
def execXor (d a b : Fld) (s : State) : Out := .next (s.scalar2 d a b fun x y => x ^^^ y)
/-- ANDN (R77). -/
def execAndn (d a b : Fld) (s : State) : Out := .next (s.scalar2 d a b fun x y => x &&& ~~~y)
/-- SHL (R77). -/
def execShl (d a b : Fld) (s : State) : Out := .next (s.scalar2 d a b shlWord)
/-- SHR (R77). -/
def execShr (d a b : Fld) (s : State) : Out := .next (s.scalar2 d a b shrWord)
/-- SAR (R77). -/
def execSar (d a b : Fld) (s : State) : Out := .next (s.scalar2 d a b sarWord)
/-- ROL (R77). -/
def execRol (d a b : Fld) (s : State) : Out := .next (s.scalar2 d a b fun x y => x.rotateLeft (y.toNat % 64))
/-- ROR (R77). -/
def execRor (d a b : Fld) (s : State) : Out := .next (s.scalar2 d a b fun x y => x.rotateRight (y.toNat % 64))
/-- MIN (R77). -/
def execMin (d a b : Fld) (s : State) : Out := .next (s.scalar2 d a b fun x y => if x.toInt ≤ y.toInt then x else y)
/-- MAX (R77). -/
def execMax (d a b : Fld) (s : State) : Out := .next (s.scalar2 d a b fun x y => if y.toInt ≤ x.toInt then x else y)
/-- MINU (R77). -/
def execMinu (d a b : Fld) (s : State) : Out := .next (s.scalar2 d a b fun x y => if x.toNat ≤ y.toNat then x else y)
/-- MAXU (R77). -/
def execMaxu (d a b : Fld) (s : State) : Out := .next (s.scalar2 d a b fun x y => if y.toNat ≤ x.toNat then x else y)
/-- SEL: A where P[C], else B (R77). -/
def execSel (d a b c : Fld) (s : State) : Out := .next (s.scalar2 d a b fun x y => if s.me.rp c.toNat then x else y)
/-- ABS (R77). -/
def execAbs (d a : Fld) (s : State) : Out := .next (s.scalar1 8 d a fun x => if x.toInt < 0 then 0#64 - x else x)

/-! ### ALUI (R78) -/

/-- ADDI (R78). -/
def execAddi (d a : Fld) (imm : BitVec 25) (s : State) : Out := .next (s.scalar1 8 d a fun x => x + immWord imm)
/-- ANDI (R78). -/
def execAndi (d a : Fld) (imm : BitVec 25) (s : State) : Out := .next (s.scalar1 8 d a fun x => x &&& immWord imm)
/-- ORI (R78). -/
def execOri (d a : Fld) (imm : BitVec 25) (s : State) : Out := .next (s.scalar1 8 d a fun x => x ||| immWord imm)
/-- XORI (R78). -/
def execXori (d a : Fld) (imm : BitVec 25) (s : State) : Out := .next (s.scalar1 8 d a fun x => x ^^^ immWord imm)
/-- SHLI (R78). -/
def execShli (d a sh : Fld) (s : State) : Out := .next (s.scalar1 8 d a fun x => x <<< sh.toNat)
/-- SHRI (R78). -/
def execShri (d a sh : Fld) (s : State) : Out := .next (s.scalar1 8 d a fun x => x >>> sh.toNat)
/-- SARI (R78). -/
def execSari (d a sh : Fld) (s : State) : Out := .next (s.scalar1 8 d a fun x => x.sshiftRight sh.toNat)

/-! ### MULDIV (R79) -/

/-- The quotient of DIV (R79): −1 by zero, the dividend at −2^63 by −1, else truncated toward zero. -/
def divWord (x y : Word) : Word := if y = 0#64 then BitVec.allOnes 64 else BitVec.ofInt 64 (x.toInt.tdiv y.toInt)
/-- The remainder of REM (R79): the dividend by zero, else with the dividend's sign. -/
def remWord (x y : Word) : Word := if y = 0#64 then x else BitVec.ofInt 64 (x.toInt.tmod y.toInt)
/-- The quotient of DIVU (R79). -/
def divuWord (x y : Word) : Word := if y = 0#64 then BitVec.allOnes 64 else BitVec.ofNat 64 (x.toNat / y.toNat)
/-- The remainder of REMU (R79). -/
def remuWord (x y : Word) : Word := if y = 0#64 then x else BitVec.ofNat 64 (x.toNat % y.toNat)

/-- MUL (R79). -/
def execMul (d a b : Fld) (s : State) : Out := .next (s.scalar2 d a b fun x y => x * y)
/-- MULH (R79). -/
def execMulh (d a b : Fld) (s : State) : Out :=
  .next (s.scalar2 d a b fun x y => BitVec.ofInt 64 (x.toInt * y.toInt / 2 ^ 64))
/-- MULHU (R79). -/
def execMulhu (d a b : Fld) (s : State) : Out :=
  .next (s.scalar2 d a b fun x y => BitVec.ofNat 64 (x.toNat * y.toNat / 2 ^ 64))
/-- DIV (R79). -/
def execDiv (d a b : Fld) (s : State) : Out := .next (s.scalar2 d a b divWord)
/-- DIVU (R79). -/
def execDivu (d a b : Fld) (s : State) : Out := .next (s.scalar2 d a b divuWord)
/-- REM (R79). -/
def execRem (d a b : Fld) (s : State) : Out := .next (s.scalar2 d a b remWord)
/-- REMU (R79). -/
def execRemu (d a b : Fld) (s : State) : Out := .next (s.scalar2 d a b remuWord)

/-! ### CMP (R80, R81) -/

/-- CMP (R81). -/
def execCmp (cc d a b : Fld) (s : State) : Out := .next (s.compare2 d a b fun x y => condHolds cc.toNat x y)
/-- CMPI: the comparison of A with the sign-extended immediate (R81). -/
def execCmpi (cc : BitVec 4) (d a : Fld) (imm : BitVec 21) (s : State) : Out :=
  .next (s.compare2 d a 0#6 fun x _ => condHolds cc.toNat x (immWord imm))

/-- P[D] ← a Boolean function of predicates (R81). -/
def predOp (s : State) (d : Fld) (v : Bool) : State := (s.updMe (·.wp d.toNat v)).advance 8

/-- PAND (R81). -/
def execPand (d a b : Fld) (s : State) : Out := .next (predOp s d (s.me.rp a.toNat && s.me.rp b.toNat))
/-- POR (R81). -/
def execPor (d a b : Fld) (s : State) : Out := .next (predOp s d (s.me.rp a.toNat || s.me.rp b.toNat))
/-- PXOR (R81). -/
def execPxor (d a b : Fld) (s : State) : Out := .next (predOp s d (s.me.rp a.toNat != s.me.rp b.toNat))
/-- PANDN (R81). -/
def execPandn (d a b : Fld) (s : State) : Out := .next (predOp s d (s.me.rp a.toNat && !s.me.rp b.toNat))
/-- PNOT (R81). -/
def execPnot (d a : Fld) (s : State) : Out := .next (predOp s d (!s.me.rp a.toNat))

/-- PSET: P[1] to P[7] from bits 1 to 7 of A, which may be a channel (R81). -/
def execPset (a : Fld) (s : State) : Out :=
  .next (match s.chanCheck [a] [] with
    | some e => s.stop e
    | none =>
      let p := s.getScalar a
      (p.2.updMe fun x => { x with p := (p.1.setWidth 8) ||| 1#8 }).advance 8)

/-- PGET: the predicates as a byte, bit 0 reading 1 (R81). -/
def execPget (d : Fld) (s : State) : Out := .next (s.scalar0 8 d ((s.me.p ||| 1#8).setWidth 64))

/-! ### BIT (R82) -/

/-- The number of leading zero bits (R82). -/
def clzWord (x : Word) : Nat := if x = 0#64 then 64 else 63 - x.toNat.log2
/-- The number of trailing zero bits (R82). -/
def ctzWord (x : Word) : Nat := ((List.range 64).find? x.getLsbD).getD 64
/-- The number of set bits (R82). -/
def popWord64 (x : Word) : Nat := (List.range 64).countP x.getLsbD
/-- The bytes reversed (R82). -/
def bswapWord (x : Word) : Word := BitVec.ofNat 64 (leNat (leBytes 8 x.toNat).reverse)
/-- A mask of `w` ones from bit `pos`. -/
def fieldMask (pos w : Nat) : Word := BitVec.ofNat 64 ((2 ^ w - 1) * 2 ^ pos)

/-- CLZ (R82). -/
def execClz (d a : Fld) (s : State) : Out := .next (s.scalar1 8 d a fun x => BitVec.ofNat 64 (clzWord x))
/-- CTZ (R82). -/
def execCtz (d a : Fld) (s : State) : Out := .next (s.scalar1 8 d a fun x => BitVec.ofNat 64 (ctzWord x))
/-- POPC (R82). -/
def execPopc (d a : Fld) (s : State) : Out := .next (s.scalar1 8 d a fun x => BitVec.ofNat 64 (popWord64 x))
/-- BSWAP (R82). -/
def execBswap (d a : Fld) (s : State) : Out := .next (s.scalar1 8 d a bswapWord)
/-- BFX: the field sign-extended (R82). -/
def execBfx (d a pos wm1 : Fld) (s : State) : Out :=
  .next (s.scalar1 8 d a fun x => sextTo (wm1.toNat + 1) (x >>> pos.toNat))
/-- BFXU: the field zero-extended (R82). -/
def execBfxu (d a pos wm1 : Fld) (s : State) : Out :=
  .next (s.scalar1 8 d a fun x => (x >>> pos.toNat) &&& fieldMask 0 (wm1.toNat + 1))
/-- BFI: the low bits of A into a field of D (R82). -/
def execBfi (d a pos wm1 : Fld) (s : State) : Out :=
  .next (s.scalar1 8 d a fun x =>
    let m := fieldMask pos.toNat (wm1.toNat + 1)
    (s.me.rg d.toNat &&& ~~~m) ||| ((x <<< pos.toNat) &&& m))

/-! ### CONST (R84, R85) -/

/-- The `n` bytes of a literal at a code address, with the checks of R85 and R147: ALIGN to `al`, then BOUNDS, an order that
R85 leaves open (log 71). -/
def codeLiteral (c : Core) (a : Word) (al n : Nat) : Except Stop Nat := do
  trapIf (a.toNat % al != 0) .align a
  trapIf (c.codeLen < a.toNat + n) .bounds a
  .ok (c.code.readLE a.toNat n)

/-- MOVI (R84). -/
def execMovi (d : Fld) (imm : BitVec 32) (s : State) : Out := .next (s.scalar0 12 d (immWord imm))
/-- MOVHI (R84). -/
def execMovhi (d : Fld) (imm : BitVec 32) (s : State) : Out :=
  .next (s.scalar0 12 d (imm ++ (s.me.rg d.toNat).setWidth 32))
/-- LDL: the literal at PC + IMM32 of the code image (R84, R85). -/
def execLdl (d : Fld) (imm : BitVec 32) (s : State) : Out :=
  .next (match s.chanCheck [] [d] with
    | some e => s.stop e
    | none => match codeLiteral s.here (s.me.pc + immWord imm) 8 8 with
      | .error e => s.stop e
      | .ok v => (s.putScalar d (BitVec.ofNat 64 v)).advance 12)
/-- ADDPC (R84). -/
def execAddpc (d : Fld) (imm : BitVec 32) (s : State) : Out := .next (s.scalar0 12 d (s.me.pc + immWord imm))

end Sys2Proof.Machine
end

