-- ==== Sys2Proof/Machine/LoadStore.lean ====
section
/-!
DEFINITION. The meanings of LOAD and STORE (R87 to R90), ATOM (R173, R174) and ORDER (R175).
-/
namespace Sys2Proof.Machine
open State

/-- The bytes of an access of a size code (R32). -/
def memBytes (f : MemForm) : Nat := 2 ^ f.size.toNat
/-- The value a load writes: sign- or zero-extended from its size (R88). -/
def memExtend (f : MemForm) (v : Nat) : Word :=
  if f.sgn = 1#1 then sextTo (8 * (memBytes f)) (BitVec.ofNat 64 v) else BitVec.ofNat 64 v
/-- The effective address base + sext(OFF16) (R87). -/
def effAddr (s : State) (a : Fld) (off : BitVec 16) : Word := s.me.rg a.toNat + immWord off
/-- The effective address base + index (R87). -/
def effIndex (s : State) (a ix : Fld) : Word := s.me.rg a.toNat + s.me.rg ix.toNat

/-- A load of a context: BOUNDS, ALIGN, the acquire of ord=acq, the race check, and the value (R88, R89, R124). -/
def loadCore (c : Core) (k : Nat) (f : MemForm) (a : Word) : Except Stop (Nat × Core) := do
  addrCheck a (memBytes f)
  let c := if f.ord = 1#2 then c.updSp (·.acquireTag k (a.toNat / 64)) else c
  let c ← c.readRanges k [(a.toNat, (memBytes f))]
  .ok (c.sp.mem.readLE a.toNat (memBytes f), c)

/-- A store of a context: BOUNDS, ALIGN, the race check, the bytes, and the release of ord=rel (R88, R89, R124). -/
def storeCore (c : Core) (k : Nat) (f : MemForm) (a v : Word) : Except Stop Core := do
  addrCheck a (memBytes f)
  let c ← c.writeRanges k [(a.toNat, (memBytes f))]
  let c := c.updSp (·.store a.toNat (leBytes (memBytes f) v.toNat))
  .ok (if f.ord = 2#2 then (c.release k).updSp (·.setTag k (a.toNat / 64)) else c)

/-- A load into D, which may be an output channel (R87, R88). -/
def loadTo (s : State) (d : Fld) (f : MemForm) (a : Word) : State :=
  match s.chanCheck [] [d] with
  | some e => s.stop e
  | none => match loadCore s.here s.slot f a with
    | .error e => s.stop e
    | .ok p => ((s.setCore s.cur p.2).putScalar d (memExtend f p.1)).advance 8

/-- A store of B, which may be an input channel; an address that traps leaves its word there (R88, R90). -/
def storeFrom (s : State) (b : Fld) (f : MemForm) (a : Word) : State :=
  match s.chanCheck [b] [] with
  | some e => s.stop e
  | none =>
    let p := s.getScalar b
    match storeCore s.here s.slot f a p.1 with
    | .error e => s.stop e
    | .ok _ => p.2.finish 8 (storeCore p.2.here s.slot f a p.1)

/-- LD (R88). -/
def execLd (d a : Fld) (f : MemForm) (off : BitVec 16) (s : State) : Out := .next (loadTo s d f (effAddr s a off))
/-- LDX (R88). -/
def execLdx (d a ix : Fld) (f : MemForm) (s : State) : Out := .next (loadTo s d f (effIndex s a ix))
/-- ST (R88). -/
def execSt (b a : Fld) (f : MemForm) (off : BitVec 16) (s : State) : Out := .next (storeFrom s b f (effAddr s a off))
/-- STX (R88). -/
def execStx (b a ix : Fld) (f : MemForm) (s : State) : Out := .next (storeFrom s b f (effIndex s a ix))

/-! ### Atomics (R173, R174) -/

/-- The new value of an atomic at width `w` bits (R173). -/
def amoValue (aop : Nat) (w : Nat) (old y : BitVec w) : BitVec w :=
  match aop with
  | 0 => y
  | 1 => old + y
  | 2 => old &&& y
  | 3 => old ||| y
  | 4 => old ^^^ y
  | 5 => if old.toInt ≤ y.toInt then old else y
  | 6 => if y.toInt ≤ old.toInt then old else y
  | 7 => if old.toNat ≤ y.toNat then old else y
  | _ => if y.toNat ≤ old.toNat then old else y

/-- An indivisible access of `n` bytes of the scratchpad by a context: no race check and no stamp; ord=acq acquires first and
ord=rel releases after and tags the granule (R124, R174). `f` gives the new value, or none to store nothing. -/
def atomicCore (c : Core) (k n ord : Nat) (a : Word) (f : Nat → Option Nat) : Except Stop (Nat × Core) := do
  addrCheck a n
  let c := if ord = 1 then c.updSp (·.acquireTag k (a.toNat / 64)) else c
  match c.sp.poisonIn a.toNat n with
  | some w => .error (.kill w)
  | none =>
    let old := c.sp.mem.readLE a.toNat n
    let c := match f old with
      | some v => c.updSp (·.store a.toNat (leBytes n v))
      | none => c
    .ok (old, if ord = 2 then (c.release k).updSp (·.setTag k (a.toNat / 64)) else c)

/-- An atomic instruction: D ← the old value (R173). -/
def atomicTo (s : State) (d a : Fld) (f : MemForm) (off : BitVec 16) (g : Nat → Option Nat) : State :=
  match atomicCore s.here s.slot (memBytes f) f.ord.toNat (effAddr s a off) g with
  | .error e => s.stop e
  | .ok p => ((s.setCore s.cur p.2).updMe (·.wg d.toNat (memExtend f p.1))).advance 8

/-- AMO (R173). -/
def execAmo (aop : BitVec 4) (d b a : Fld) (f : MemForm) (off : BitVec 16) (s : State) : Out :=
  let w := 8 * (memBytes f)
  .next (atomicTo s d a f off fun old =>
    some (amoValue aop.toNat w (BitVec.ofNat w old) (BitVec.ofNat w (s.me.rg b.toNat).toNat)).toNat)
/-- CAS: stores B where the old value is D's (R173). -/
def execCas (d b a : Fld) (f : MemForm) (off : BitVec 16) (s : State) : Out :=
  let w := 8 * (memBytes f)
  .next (atomicTo s d a f off fun old =>
    if old = (s.me.rg d.toNat).toNat % 2 ^ w then some ((s.me.rg b.toNat).toNat % 2 ^ w) else none)

/-- FENCE: every earlier access of a context is performed as it issues, so nothing is left to wait for; it releases and acquires
nothing (R175, log 4). -/
def execFence (_kind : BitVec 2) (_scope : BitVec 3) (s : State) : Out := .next (s.advance 8)

end Sys2Proof.Machine
end

