-- ==== Sys2Proof/Machine/Message.lean ====
section
/-!
DEFINITION. The meanings of AMSG and ROLE (R229 to R233), and the events of active messages and channels (R210 to R216).
-/
namespace Sys2Proof.Machine
open State

/-! ### Control words (R229) -/

/-- A bit field of a word. -/
def bitsAt (w : Word) (lo n : Nat) : Nat := w.toNat / 2 ^ lo % 2 ^ n

/-- Whether a control word is well formed; RSST and RAMO name no handler. -/
def controlOk (w : Word) (named : Bool) : Bool :=
  bitsAt w 42 22 == 0 && (bitsAt w 31 1 == 1 || (bitsAt w 36 6 == 0 && bitsAt w 32 4 == 0))
  && (bitsAt w 20 1 == 1 || (bitsAt w 25 6 == 0 && bitsAt w 21 4 == 0)) && (named || bitsAt w 12 8 == 0)

/-- The target that a control word names, where the cluster's map carries its logical core (R208, R229). -/
def controlTarget (s : State) (w : Word) : Option CoreId := s.logicalCore (bitsAt w 9 3 * 64 + bitsAt w 3 6) (bitsAt w 0 3)

/-! ### Sending (R216, R230, R231) -/

/-- Lines 04 to 08 of R230: the reply slot, with 16 bytes expected on it. -/
def replySlot (c : Core) (w : Word) : Except Stop (Option (Nat × Nat) × Core) :=
  if bitsAt w 20 1 = 0 then .ok (none, c)
  else do
    let h := bitsAt w 21 4
    let x ← needHandle c h
    if x.n ≤ bitsAt w 25 6 then .error (handleTrap 5 h)
    else
      let j := (x.pp + bitsAt w 25 6) % x.n
      match x.expect j 16 with
      | none => .error (handleTrap 4 h)
      | some y => .ok (some (h, j), c.setHandle h y)

/-- A message on its way to its target; one to a core that no map names replies ERRMSG. -/
def sendOn (s : State) (m : Msg) : State :=
  if m.exists_ then s.updCore m.tgt fun c => c.updLi fun l => { l with amIn := l.amIn ++ [m] } else s.reply m 3 0 0#64

/-- A message leaves its core, or waits for its pair where the core is one of twins (R227). -/
def deliver (s : State) (m : Msg) : State :=
  if (s.core m.src).run.any (·.twin) then s.updCore m.src fun c => c.updLi fun l =>
    { l with twinOut := l.twinOut ++ [.msg l.twinNext m], twinNext := l.twinNext + 1 }
  else sendOn s m

/-- The deferred trap that an instruction takes which names a reply handle (R230, R382). -/
def State.orReplyTrap (s : State) (w : Word) (t : State) : State :=
  if bitsAt w 20 1 = 1 then s.orHandleTrap (bitsAt w 21 4) t else t

/-- Send a message (R230, R231): `named` that the control word names the handler, `hnum` the handler otherwise. -/
def sendMessage (s : State) (w arg dat : Word) (named : Bool) (hnum : Nat) : State :=
  if s.inTaste && controlTarget s w != some s.cur then s.stop .void
  else if 16 ≤ s.here.li.outstanding then s.stop .hold
  else if s.slot = 11 then s.illegal
  else if !controlOk w named then s.takeTrap .illegal w
  else s.orReplyTrap w <| match replySlot s.here w with
    | .error e => s.stop e
    | .ok (rs, c) =>
      let c := (c.release s.slot).updLi fun l => { l with outstanding := l.outstanding + 1 }
      let tgt := controlTarget s w
      let m : Msg :=
        { src := s.cur, tgt := tgt.getD 0, exists_ := tgt.isSome, hnum := if named then bitsAt w 12 8 else hnum, arg := arg,
          dat := dat, reply := rs, th := if bitsAt w 31 1 = 1 then some (bitsAt w 32 4, bitsAt w 36 6 + 1) else none,
          gen := s.mod.gen, launch := s.here.run.elim s.mod.launchNext (·.launch), rel := c.sp.relRow s.slot }
      (deliver (s.setCore s.cur c) m).advance 8

/-- AMSEND (R230). -/
def execAmsend (a b c : Fld) (s : State) : Out :=
  .next (sendMessage s (s.me.rg a.toNat) (s.me.rg b.toNat) (s.me.rg c.toNat) true 0)

/-- ARG of a remote store: bits of G[B] above the bit address reach the target as malformed bits (R231). -/
def rsstArg (wc : BitVec 3) (v : Word) : Word :=
  BitVec.ofNat 64 (bitsAt v 3 20 + 2 ^ 20 * bitsAt v 0 3 + 2 ^ 23 * wc.toNat + 2 ^ 26 * (if bitsAt v 23 41 = 0 then 0 else 1))
/-- ARG of a remote atomic (R231). -/
def ramoArg (aop : BitVec 4) (sz : BitVec 1) (v : Word) : Word :=
  BitVec.ofNat 64 (bitsAt v 0 20 + 2 ^ 20 * aop.toNat + 2 ^ 24 * sz.toNat + 2 ^ 25 * (if bitsAt v 20 44 = 0 then 0 else 1))

/-- RSST (R231). -/
def execRsst (wc : BitVec 3) (a b c : Fld) (s : State) : Out :=
  .next (sendMessage s (s.me.rg a.toNat) (rsstArg wc (s.me.rg b.toNat)) (s.me.rg c.toNat) false 1)
/-- RAMO (R231). -/
def execRamo (aop : BitVec 4) (sz : BitVec 1) (a b c : Fld) (s : State) : Out :=
  .next (sendMessage s (s.me.rg a.toNat) (ramoArg aop sz (s.me.rg b.toNat)) (s.me.rg c.toNat) false 2)

/-- AMREPLY (R232). -/
def execAmreply (a : Fld) (s : State) : Out :=
  .next (if s.slot ≠ 11 then s.illegal
    else (s.updHere (·.updLi fun l => { l with replyVal := s.me.rg a.toNat })).advance 8)
/-- AMRET: the end of the handler (R216, R232). -/
def execAmret (s : State) : Out :=
  .next (if s.slot ≠ 11 then s.illegal else s.endHandler s.cur 0 0 s.here.li.replyVal)

/-! ### Roles (R209, R233) -/

/-- ROLE (R233). -/
def execRole (d : Fld) (s : State) : Out :=
  let v := match s.logicalNo s.cur with
    | some l => (s.roleEntry (coreCluster s.cur) l).setWidth 64
    | none => 0#64
  .next ((s.updMe (·.wg d.toNat v)).advance 8)

/-- A field of a role entry. -/
def roleField (e : BitVec 32) (lo n : Nat) : Nat := e.toNat / 2 ^ lo % 2 ^ n

/-- Whether an entry's fields hold no reserved code (R209). -/
def roleCodesOk (e : BitVec 32) : Bool :=
  let dst : Nat → Bool := fun d => d < 8 || d == 15
  let dry := roleField e 7 5
  dst (roleField e 18 4) && dst (roleField e 13 4) && (dry == 0 || (10 ≤ dry && dry ≤ 24)) && roleField e 0 7 == 0

/-- The inputs that the outputs of an entry name, as receiver and input. -/
def roleOuts (e : BitVec 32) : List (Nat × Nat) :=
  [(roleField e 18 4, roleField e 17 1), (roleField e 13 4, roleField e 12 1)].filter fun p => p.1 != 15

/-- Whether a table of eight entries is a single wiring: no output names its own core, no two the same input (R209). -/
def wiringOk (es : List (BitVec 32)) : Bool :=
  let outs := es.map roleOuts
  (outs.zipIdx.all fun p => p.1.all fun o => o.1 != p.2) && decide outs.flatten.Nodup

/-- RECAST: PRIV at level U (R42); ILLEGAL where the new table breaks R209 (R233). -/
def execRecast (a : Fld) (c : BitVec 3) (s : State) : Out :=
  let v := s.me.rg a.toNat
  let e : BitVec 32 := v.setWidth 32
  let q := coreCluster s.cur
  let table := (List.range 8).map fun l => if l = c.toNat then e else s.roleEntry q l
  .next (if !s.isService s.cur then s.takeTrap .priv s.bytesHere
    else if v.toNat / 2 ^ 32 ≠ 0 ∨ !roleCodesOk e ∨ !wiringOk table then s.takeTrap .illegal v
    else (s.updCluster q fun x => { x with roles := x.roles.set c.toNat e }).advance 8)

/-! ### The target's side (R214 to R216, R230) -/

/-- Whether an item's generation is the current or the draining one (R297). -/
def genOk (s : State) (g : BitVec 16) : Bool := g == s.mod.gen || s.mod.map.draining == some g

/-- AM_ARRIVAL: the oldest message on its way to a core enters its mailbox, if it has room; a sealed one replies ERRMSG (R216,
R226). -/
def execAmArrival (core : Nat) (s : State) : Out :=
  let c := s.core core
  .next (match c.li.amIn with
  | [] => s
  | m :: rest =>
    let t := s.updCore core fun c => c.updLi fun l => { l with amIn := rest }
    if (c.li.killed || c.li.isSealed) && genOk s m.gen then t.reply m 3 0 0#64
    else if c.li.killed || c.li.isSealed then t.reply m 4 0 (s.mod.gen.setWidth 64)
    else if c.li.mailbox.length < 16 then t.updCore core fun c => c.updLi fun l => { l with mailbox := l.mailbox ++ [m] }
    else s)

/-- The message that a core's service slot starts next: the head of its mailbox, when no handler runs and the node is not
ending (R267 line 04). -/
def nextMsg (c : Core) : Option Msg :=
  if c.li.handling.isSome || (c.ctx 11).live || c.ending then none else c.li.mailbox.head?

/-- The status and value of the reply to a message that does not start, if it does not (R215, R230). -/
def refusal (s : State) (core : Nat) (m : Msg) : Option (Nat × Word) :=
  let c := s.core core
  if !genOk s m.gen then some (4, s.mod.gen.setWidth 64)
  else if c.li.killed || c.li.isSealed || !c.run.any (·.launch == m.launch) then some (3, 0#64)
  else if !(1 ≤ m.hnum && m.hnum ≤ 3) && (m.hnum < 16 || c.bar.amtab.toNat % 256 ≤ m.hnum - 16) then some (1, 0#64)
  else if m.th.any fun t => !c.sp.handles.has t.1 then some (5, 0#64)
  else none

/-- Take the next message of a core's mailbox to be handled: the start acquires its sender's release, of another core what crosses cores
(R216, R225). -/
def takeMsg (s : State) (core : Nat) (m : Msg) : State :=
  s.updCore core fun c =>
    let c := c.updLi fun l => { l with mailbox := l.mailbox.tail, handling := some m, replyVal := 0#64 }
    c.acquire 11 (if m.src = core then m.rel else m.rel.export m.src)

/-- A message that does not start leaves the mailbox and is replied to. -/
def refuseMsg (s : State) (core : Nat) (m : Msg) (r : Nat × Word) : State :=
  (s.updCore core fun c => c.updLi fun l => { l with mailbox := l.mailbox.tail }).reply m r.1 0 r.2

/-- AM_HANDLER_START: the next message is refused, or its user handler starts in the service slot (R66, R213, R216). DESIGN CHOICE: an
entry of AMTAB that is no multiple of 4 starts the handler at that very address, where what decodes runs; R213 states no alignment check
(log 66). -/
def execAmHandlerStart (core : Nat) (s : State) : Out :=
  .next (match nextMsg (s.core core) with
  | none => s
  | some m => match refusal s core m with
    | some r => refuseMsg s core m r
    | none =>
      if m.hnum < 16 then s
      else
        let c := s.core core
        let pc := c.code.readLE (c.bar.amtab.toNat / 256 * 8 + 8 * (m.hnum - 16)) 8
        (takeMsg s core m).updCore core fun c =>
          c.setCtx 11 { live := true, pc := BitVec.ofNat 64 pc, g := Tab.set {} 1 m.arg })

/-- How a built-in ends: BADARG, its reply value, a trap of slot 11, consumed poison (R214, R215). -/
inductive BuiltinEnd where
  | badArg
  | value (v : Nat) (c : Core)
  | trap (cause : Cause) (eval : Word)
  | poison (loc : Nat)

/-- The checks of a slot-11 access as a built-in meets them. -/
def builtinOf (r : Except Stop (Nat × Core)) : BuiltinEnd :=
  match r with
  | .ok p => .value p.1 p.2
  | .error (.trap .bounds _) | .error (.trap .align _) => .badArg
  | .error (.trap c v) => .trap c v
  | .error (.kill loc) => .poison loc
  | .error _ => .badArg

/-- STORE (R214). -/
def builtinStore (c : Core) (arg dat : Word) : BuiltinEnd :=
  let off := BitVec.ofNat 64 (bitsAt arg 0 20)
  let b := bitsAt arg 20 3
  let wc := bitsAt arg 23 3
  let w := 2 ^ wc
  if bitsAt arg 26 38 ≠ 0 ∨ wc = 7 ∨ (w < 8 ∧ b % w ≠ 0) ∨ (8 ≤ w ∧ b ≠ 0) then .badArg
  else builtinOf (do
    let n := if w < 8 then 1 else w / 8
    addrCheck off n
    let c ← if w < 8 then c.readRanges 11 [(off.toNat, 1)] else .ok c
    let c ← c.writeRanges 11 [(off.toNat, n)]
    let old := c.sp.mem.readLE off.toNat n
    let v := if w < 8 then old - old / 2 ^ b % 2 ^ w * 2 ^ b + dat.toNat % 2 ^ w * 2 ^ b else dat.toNat
    .ok (0, c.updSp (·.store off.toNat (leBytes n v))))

/-- ATOMIC (R214, R173). -/
def builtinAtomic (c : Core) (arg dat : Word) : BuiltinEnd :=
  let n := if bitsAt arg 24 1 = 1 then 8 else 4
  let aop := bitsAt arg 20 4
  if bitsAt arg 25 39 ≠ 0 ∨ 8 < aop then .badArg
  else builtinOf (atomicCore c 11 n 0 (BitVec.ofNat 64 (bitsAt arg 0 20)) fun old =>
    some (amoValue aop (8 * n) (BitVec.ofNat (8 * n) old) (BitVec.ofNat (8 * n) dat.toNat)).toNat)

/-- LOAD (R214). -/
def builtinLoad (c : Core) (arg : Word) : BuiltinEnd :=
  let off := BitVec.ofNat 64 (bitsAt arg 0 20)
  let n := if bitsAt arg 24 1 = 1 then 8 else 4
  if bitsAt arg 20 4 ≠ 0 ∨ bitsAt arg 25 39 ≠ 0 then .badArg
  else builtinOf (do
    addrCheck off n
    let c ← c.readRanges 11 [(off.toNat, n)]
    .ok (c.sp.mem.readLE off.toNat n, c))

/-- A built-in handler of a core runs whole, in the service slot (R214, R216). DESIGN CHOICE: one that ends with BADARG performs nothing
of its own, and its end still makes the arrival on the message's target handle (log 44). -/
def runBuiltin (s : State) (core hnum : Nat) (f : Core → Msg → BuiltinEnd) : State :=
  match nextMsg (s.core core) with
  | none => s
  | some m =>
    if m.hnum ≠ hnum then s
    else match refusal s core m with
      | some r => refuseMsg s core m r
      | none =>
        let t := takeMsg s core m
        match f (t.core core) m with
        | .value v c => (t.setCore core c).endHandler core 0 0 (BitVec.ofNat 64 v)
        | .badArg => t.endHandler core 5 0 0#64
        | .trap cause v =>
          (t.tell core (.halt core 11 0#64 (BitVec.ofNat 64 (causeCode cause)) v (t.secretRun core))).endHandler core 2 (causeCode cause) v
        | .poison loc => (t.reply m 6 0 0#64).killCore core 0 loc

/-- BUILTIN_STORE (R214). -/
def execBuiltinStore (core : Nat) (s : State) : Out := .next (runBuiltin s core 1 fun c m => builtinStore c m.arg m.dat)
/-- BUILTIN_ATOMIC (R214). -/
def execBuiltinAtomic (core : Nat) (s : State) : Out := .next (runBuiltin s core 2 fun c m => builtinAtomic c m.arg m.dat)
/-- BUILTIN_LOAD (R214). -/
def execBuiltinLoad (core : Nat) (s : State) : Out := .next (runBuiltin s core 3 fun c m => builtinLoad c m.arg)

/-- The 16 bytes of a reply reach their slot, behind the bytes that have arrived there, as an arrival of the DMA port (R230), which brings the
handler's release (R216). -/
def landReply (c : Core) (h j : Nat) (bytes : List Byte) (rel : Row) : Core :=
  match c.handle? h with
  | none => c
  | some x =>
    let at_ := x.base + j * x.size + (x.slotAt j).arr
    let n := c.sp.compl
    match c.arrive h j bytes.length (Row.join (Row.obs (n + 1)) rel) none with
    | none => c
    | some c => c.updSp fun sp =>
        let sp := sp.store at_ bytes
        let sp := (granules at_ bytes.length).foldl (fun t q =>
          { t with gran := t.gran.set q { t.granule q with w := some 12, n := n, rt := none } }) sp
        Spad.forget { sp with compl := n + 1 } 12 (n + 1)

/-- AM_REPLY_ARRIVAL: the oldest reply on its way to a core arrives, and its message is no longer outstanding (R215, R216). -/
def execAmReplyArrival (core : Nat) (s : State) : Out :=
  .next (match (s.core core).li.replies with
  | [] => s
  | r :: rest => s.updCore core fun c =>
    let c := c.updLi fun l => { l with replies := rest, outstanding := l.outstanding - 1 }
    if c.li.killed then c
    else match r.dest with
      | none => c
      | some (h, j) => landReply c h j r.bytes r.rel)

/-! ### Channels (R210, R211) -/

/-- CHANNEL_WORD_ARRIVAL: the oldest word in flight to an input becomes readable; its dry count restarts (R210, R211). -/
def execChannelWordArrival (core ch : Nat) (s : State) : Out :=
  .next (match (s.core core).li.wire.get ch [] with
  | [] => s
  | w :: rest =>
    if 8 ≤ ((s.core core).li.inq.get ch []).length then s
    else s.updCore core fun c => c.updLi fun l =>
      { l with inq := l.inq.set ch (l.inq.get ch [] ++ [.word w]), wire := l.wire.set ch rest, dry := l.dry.set ch 0,
               dryTold := l.dryTold.set ch false })

/-- CHANNEL_CREDIT_RETURN: a credit reaches the sender of an output (R210). -/
def execChannelCreditReturn (core ch : Nat) (s : State) : Out :=
  .next (if (s.core core).li.creditBack.get ch 0 = 0 then s
    else s.updCore core fun c => c.updLi fun l =>
      { l with creditBack := l.creditBack.set ch (l.creditBack.get ch 0 - 1), credit := l.credit.set ch (l.credit.get ch 0 + 1) })

/-- DRYLIM of a core (R209). -/
def dryLimit (s : State) (core : Nat) : Nat := (s.wireOf core).elim 0 fun w => roleField w 7 5

/-- Whether a context of a core is blocked reading an input that holds no word (R211). -/
def isDry (c : Core) (ch : Nat) : Bool :=
  (c.li.inq.get ch []).isEmpty && c.bar.ctxs.entries.any fun p => match p.2.wait with
    | some (.chanRead n _) => n == ch
    | _ => false

/-- DRY_NOTICE: the service core is told once that an input's dry count has reached its limit (R211). -/
def execDryNotice (core ch : Nat) (s : State) : Out :=
  let c := s.core core
  let lim := dryLimit s core
  .next (if lim = 0 ∨ c.li.dryTold.get ch false ∨ c.li.dry.get ch 0 < 2 ^ lim then s
    else (s.updCore core fun c => c.updLi fun l => { l with dryTold := l.dryTold.set ch true }).tell core (.dry core ch))

end Sys2Proof.Machine
end

