-- ==== Sys2Proof/Machine/Codec.lean ====
section
/-!
DEFINITION. The zero-run and delta-byte codings of compressed pages and of the press (R223, R238, R240).
-/
namespace Sys2Proof.Machine

/-- How many zero bytes a list begins with. -/
def zeroRun (bs : List Byte) : Nat := (bs.takeWhile (· == 0#8)).length

/-- The literal that begins a list: up to n bytes, to its end, or to where two zero bytes begin (R238). -/
def literal : Nat → List Byte → List Byte
  | 0, _ => []
  | _ + 1, [] => []
  | n + 1, b :: rest => if b == 0#8 && rest.head? == some 0#8 then [] else b :: literal n rest

/-- The zero-run coding of bytes (R223, R238); the fuel is their number. -/
def encodeRuns : Nat → List Byte → List Byte
  | 0, _ => []
  | _ + 1, [] => []
  | n + 1, bs =>
    let z := zeroRun bs
    if 2 ≤ z then
      let k := Nat.min z 128
      BitVec.ofNat 8 (0x7F + k) :: encodeRuns n (bs.drop k)
    else
      let l := literal 128 bs
      BitVec.ofNat 8 (l.length - 1) :: l ++ encodeRuns n (bs.drop l.length)

/-- The bytes a zero-run stream yields, and whether it ends outside a literal token (R223, R240). -/
def decodeRuns : Nat → List Byte → List Byte × Bool
  | 0, _ => ([], true)
  | _ + 1, [] => ([], true)
  | n + 1, t :: rest =>
    if 0x80 ≤ t.toNat then
      let r := decodeRuns n rest
      (List.replicate (t.toNat - 0x7F) 0#8 ++ r.1, r.2)
    else
      let k := t.toNat + 1
      if rest.length < k then (rest, false)
      else
        let r := decodeRuns n (rest.drop k)
        (rest.take k ++ r.1, r.2)

/-- Each byte less the one before it (R223). -/
def deltas (prev : Byte) : List Byte → List Byte
  | [] => []
  | b :: rest => (b - prev) :: deltas b rest

/-- The bytes whose differences are given. -/
def undeltas (prev : Byte) : List Byte → List Byte
  | [] => []
  | d :: rest => (prev + d) :: undeltas (prev + d) rest

/-- Bytes coded as one stream in kind 1 or 2. -/
def encodeKind (kind : Nat) (bs : List Byte) : List Byte :=
  encodeRuns bs.length (if kind = 2 then deltas 0#8 bs else bs)

/-- A stream of kind 1 or 2 decoded, and whether it ends outside a literal token. -/
def decodeKind (kind : Nat) (bs : List Byte) : List Byte × Bool :=
  let r := decodeRuns bs.length bs
  (if kind = 2 then undeltas 0#8 r.1 else r.1, r.2)

end Sys2Proof.Machine
end

