-- ==== Sys2Proof/Machine/Memory.lean ====
section
/-!
DEFINITION. HBM and translation: sectors, poison and integrity (R286 to R289), last-level, cluster and rope TLBs (R291, R292),
dirty state and harvest (R295), quotas (R296), reads and writes by virtual address, and XLAT (R318 to R322).
-/
namespace Sys2Proof.Machine
open State

/-! ### Entries (R292) -/

namespace TlbE

/-- Bits `lo` to `hi` of word 0. -/
def f0 (e : TlbE) (lo n : Nat) : Nat := e.w0.toNat / 2 ^ lo % 2 ^ n
/-- Bits of word 1. -/
def f1 (e : TlbE) (lo n : Nat) : Nat := e.w1.toNat / 2 ^ lo % 2 ^ n
/-- Valid. -/
def valid (e : TlbE) : Bool := e.f0 63 1 == 1
/-- The base-two logarithm of the page size. -/
def shift (e : TlbE) : Nat :=
  match e.f0 61 2 with
  | 0 => 16 | 1 => 21 | _ => 29
/-- Partition. -/
def part (e : TlbE) : Nat := e.f0 57 4
/-- The page's virtual address. -/
def vaddr (e : TlbE) : Nat := e.f0 16 40 * 2 ^ 16
/-- Reads allowed. -/
def canRead (e : TlbE) : Bool := e.f1 63 1 == 1
/-- Writes allowed. -/
def canWrite (e : TlbE) : Bool := e.f1 62 1 == 1
/-- Dirty. -/
def dirty (e : TlbE) : Bool := e.f1 61 1 == 1
/-- Compression kind. -/
def kind (e : TlbE) : Nat := e.f1 58 3
/-- Whether the page lies in another module. -/
def remote (e : TlbE) : Bool := e.f1 29 1 == 1
/-- The module that a remote page lies in (R367). -/
def moda (e : TlbE) : Nat := e.f1 30 20
/-- Whether the entry names a POD that is never assigned: its accesses end as unreachable (R365). -/
def nowhere (e : TlbE) : Bool := 768 ≤ e.moda / 1024
/-- The incarnation under which a remote entry was made (R367). -/
def inc (e : TlbE) : Nat := e.f1 50 8
/-- The physical address of a virtual one. -/
def phys (e : TlbE) (va : Nat) : Nat := e.f1 0 25 * 2 ^ 16 + va % 2 ^ e.shift
/-- The entry with D set or cleared. -/
def setDirty (e : TlbE) (d : Bool) : TlbE :=
  { e with w1 := if d then e.w1 ||| (1#64 <<< 61) else e.w1 &&& ~~~(1#64 <<< 61) }
/-- Whether the entry matches an access (R292). -/
def hits (e : TlbE) (part va : Nat) : Bool := e.valid && e.part == part && va / 2 ^ e.shift == e.vaddr / 2 ^ e.shift
/-- Whether two entries are of the same page: PART, SIZE and VPN. -/
def samePage (e f : TlbE) : Bool := e.part == f.part && e.shift == f.shift && e.vaddr == f.vaddr
/-- Whether the entry allows an access. -/
def allows (e : TlbE) (write : Bool) : Bool := if write then e.canWrite else e.canRead

end TlbE

/-- The populated bytes of a stack before the sidecar store (R286). -/
def stackTop : Nat := 95906249984

/-- Whether a page of physical memory is clear of holes and of the sidecar store (R286, R319). -/
def physOk (pa n : Nat) : Bool := pa % 2 ^ 37 + n ≤ stackTop

/-- The word of an entry that a TLBW refuses, if any (R319). -/
def tlbwBad (w0 w1 : Word) : Option Word :=
  let e : TlbE := ⟨w0, w1⟩
  if !e.valid || e.f0 61 2 == 3 || e.f0 56 1 != 0 || e.f0 0 16 != 0 || e.vaddr % 2 ^ e.shift != 0 then some w0
  else if e.f1 25 4 != 0 || e.f1 0 25 * 2 ^ 16 % 2 ^ e.shift != 0 then some w1
  else if !e.remote && e.f1 30 28 != 0 then some w1
  else if !e.remote && !physOk (e.f1 0 25 * 2 ^ 16) (2 ^ e.shift) then some w1
  else none

/-! ### The last-level TLB -/

/-- The entries of a last-level TLB (R291). -/
def tlbSize : Nat := 16384

namespace Die

/-- An entry becomes the most recently used. -/
def touch (x : Die) (i : Nat) : Die := { x with tlbAge := i :: x.tlbAge.filter (· != i) }
/-- The place for a new entry: the lowest invalid one, else the least recently used unpinned one (R292). -/
def place (x : Die) : Nat :=
  if x.tlb.entries.length < tlbSize then ((List.range (x.tlb.entries.length + 1)).find? fun i => !x.tlb.has i).getD 0
  else (x.tlbAge.reverse.find? fun i => !x.pinned i).getD 0
/-- Write an entry (R292, R319): the entry it replaces keeps its D, and what it evicts is answered for its harvest. -/
def install (x : Die) (e : TlbE) : Die × Option TlbE :=
  match x.tlb.entries.find? fun p => p.2.samePage e with
  | some (i, o) => ({ x with tlb := x.tlb.set i (e.setDirty (o.dirty || e.dirty)) }.touch i, none)
  | none =>
    let i := x.place
    ({ x with tlb := x.tlb.set i e }.touch i, (x.tlb.get? i).filter TlbE.dirty)

end Die

namespace State

/-- The service core of a core's cluster. -/
def serviceOf (s : State) (i : CoreId) : Option CoreId :=
  ((s.cluster (coreCluster i)).service).map (coreOf (coreCluster i))

/-- A harvest posts a record of kind 0x06 to a service core (R127, R320). -/
def postHarvest (s : State) (i : CoreId) (slot : Nat) (e : TlbE) : State :=
  s.updCore i (·.post { w0 := Core.recWord 6 slot 0 0 none, w1 := e.w0 })

/-- Remember a physical page as one that a partition's tables map or that was allocated to it (R296, R359). -/
def notePage (s : State) (part : Nat) (pa n : Nat) : State :=
  s.updMem fun m => let l := m.pages.get part []
                    if l.contains (pa, n) then m else { m with pages := m.pages.set part (l ++ [(pa, n)]) }

/-- A physical page is no longer one that a partition's tables map or that is allocated to it (R296, R359). -/
def dropPage (s : State) (part : Nat) (pa n : Nat) : State :=
  s.updMem fun m => { m with pages := m.pages.set part ((m.pages.get part []).filter (· != (pa, n))) }

/-- The frame of an entry that maps a page of this module, with its size. -/
def frameOf (e : TlbE) : Option (Nat × Nat) := if e.remote then none else some (e.f1 0 25 * 2 ^ 16, 2 ^ e.shift)

/-- An entry shows a page that its partition's tables map; the frame of the entry that it replaces stays the partition's, until a turn of the
outside says that no table maps it and that it has gone back to the pool (R292, R296, R359; log 39). -/
def notePages (s : State) (e : TlbE) : State :=
  match frameOf e with
  | some f => s.notePage e.part f.1 f.2
  | none => s

/-- A TLBW by a service core's slot (R319): the evicted entry is harvested, the page is known as its partition's (R359), and what the die's
engines were told of an access that the entry allows no longer holds (R293). -/
def tlbWrite (s : State) (i : CoreId) (slot : Nat) (e : TlbE) : State :=
  let d := coreDie i
  let r := (s.die d).install e
  let t := s.setDie d { r.1 with declared := r.1.declared.filter fun q => !(e.hits q.1.part q.1.va && e.allows q.1.write) }
  let t := t.notePages e
  match r.2 with
  | some o => t.postHarvest i slot o
  | none => t

/-- What an engine of a die that lacks a translation finds: the status declared for its request, or it waits for the answer (R293). -/
def dieAwait (s : State) (d : Nat) (r : XReq) : Option Nat × State :=
  match (s.die d).declared.find? fun q => q.1 == r with
  | some q => (some q.2, s.updDie d fun x => { x with declared := x.declared.erase q })
  | none => (none, if (s.die d).waits.contains r then s else s.updDie d fun x => { x with waits := x.waits ++ [r] })

/-- Harvest every dirty entry of a die: D is cleared and the page is marked in the tables (R295). -/
def harvestAll (s : State) (d : Nat) : State :=
  s.updDie d fun x =>
    { x with marked := (x.tlb.entries.filter fun p => p.2.dirty).foldl (fun m p => if m.contains p.2.w0 then m else m ++ [p.2.w0]) x.marked,
             tlb := x.tlb.mapVals fun _ e => e.setDirty false }

end State

/-! ### Translation (R291, R293, R295) -/

/-- Who accesses HBM: through its cluster's TLB, its rope unit's, or the die's alone; in a partition (R291); whether its
writes may reach the pages of a cadence set (R272), whether it is the host's aperture (R346), which of a die's engines it is, and whether a
sector that gives no answer ends the attempt, as it does a copy's, which replays (R219, R288). -/
structure Access where
  core : Nat
  rope : Bool
  l1 : Bool
  part : Nat
  cad : Bool := false
  host : Bool := false
  dieEng : XEngine := .die
  replays : Bool := false
  deriving DecidableEq, Repr

/-- The engine that an access's request names (R291, R293). -/
def Access.engine (a : Access) : XEngine := if a.host then .host else if a.rope then .rope else if a.l1 then .copy else a.dieEng

/-- The refill-or-fault request of an access (R293). -/
def Access.request (a : Access) (va : Nat) (write : Bool) : XReq :=
  { core := a.core, va := va, part := a.part, write := write, eng := a.engine }

/-- Why an access by virtual address did not happen: a refill-or-fault request, a reserved kind, a block that does not decode, a
page that a cadence set holds, an access of a locked key domain or the sector whose tag does not match, a page of another module, for a copy
a sector that gave no answer. -/
inductive AccErr where
  | miss (r : XReq)
  | kind
  | codec
  | pinned
  | integrity (sector : Option Nat)
  | remote (e : TlbE)
  | mute (q : Nat)
  deriving DecidableEq, Repr

/-- The copy status of an access error (R219, R223, R272, R288); a miss, a page of a peer and an unanswered sector have their own ways. -/
def AccErr.status : AccErr → Nat
  | .kind => 0x14
  | .codec => 0x10
  | .integrity _ => 0x15
  | _ => 0x11

namespace State

/-- The first-level TLB of an access (R291). -/
def l1 (s : State) (a : Access) : List TlbE :=
  if !a.l1 then [] else if a.rope then (s.core a.core).en.ropeTlb else (s.cluster (coreCluster a.core)).tlb

/-- Put an entry at the front of the first-level TLB, in place of the page's old one (R291, R292). -/
def fillL1 (s : State) (a : Access) (e : TlbE) : State :=
  let put : List TlbE → Nat → List TlbE := fun l n => (e :: l.filter fun f => !f.samePage e).take n
  if !a.l1 then s
  else if a.rope then s.updCore a.core (·.updEn fun en => { en with ropeTlb := put en.ropeTlb 16 })
  else s.updCluster (coreCluster a.core) fun c => { c with tlb := put c.tlb 64 }

/-- Set D of a last-level entry before the first write through it, and make it the most recently used (R292, R295). -/
def useEntry (s : State) (d i : Nat) (e : TlbE) (write : Bool) : State :=
  s.updDie d fun x => { x with tlb := x.tlb.set i (e.setDirty (write || e.dirty)) }.touch i

/-- Whether an entry may match: that of a remote page only under its peer's present incarnation (R368). -/
def current (s : State) (e : TlbE) : Bool := !e.remote || e.inc == (s.mod.peers.get e.moda {}).inc.toNat

/-- The last-level entry of a die that matches an access and may (R292, R368). -/
def findEntry (s : State) (d part va : Nat) : Option (Nat × TlbE) :=
  (s.die d).tlb.entries.find? fun p => p.2.hits part va && s.current p.2

/-- Translate an access: a first-level hit that allows it, where a write also finds the last-level entry that holds D; else a
last-level entry that allows it (R291, R295); else a refill-or-fault request (R293). -/
def translate (s : State) (a : Access) (va : Nat) (write : Bool) : Except AccErr (TlbE × State) :=
  let d := coreDie a.core
  let hit := (s.l1 a).find? fun e => e.hits a.part va && e.allows write && s.current e
  match hit, s.findEntry d a.part va with
  | some e, some (i, f) => .ok (e, (if write then s.useEntry d i f true else s).fillL1 a e)
  | some e, none => if write then .error (.miss (a.request va write)) else .ok (e, s.fillL1 a e)
  | none, some (i, f) =>
    if f.allows write then .ok (f, (s.useEntry d i f write).fillL1 a f) else .error (.miss (a.request va write))
  | none, none => .error (.miss (a.request va write))

/-- Whether `n` bytes from a virtual address of a partition meet the members of a cadence set (R272). -/
def cadPage (s : State) (part va n : Nat) : Bool :=
  s.dies.entries.any fun x => x.2.sets.entries.any fun k =>
    k.2.part == part && va < k.2.base + 512 * k.2.m && k.2.base < va + n

/-- Whether a transaction to a peer finds a port that takes traffic: in its pod one of ports 0 to 35, else one of 36 to 39 (R366). -/
def pathUp (s : State) (moda : Nat) : Bool :=
  let ports := if moda / 1024 = s.mod.addr.toNat / 1024 then List.range 36 else [36, 37, 38, 39]
  ports.any fun p => !s.mod.portsDown.contains p

/-- Whether a remote entry leads nowhere: to a POD that is never assigned, or over no port that takes traffic (R365, R366). -/
def lost (s : State) (e : TlbE) : Bool := e.nowhere || !s.pathUp e.moda

/-- A transaction leaves for a peer, with this module's address and map generation (R365, R366). -/
def sendFabric (s : State) (x : FabSent) : State :=
  s.updMod fun k => { k with fabOut := k.fabOut ++ [{ x with source := k.addr, gen := k.gen }] }

/-- Translate to a physical address of this module, with its page's kind and the checks of R223, R288 and R365. -/
def physOf (s : State) (a : Access) (va : Nat) (write : Bool) : Except AccErr ((Nat × Nat) × State) := do
  let (e, t) ← s.translate a va write
  if write && !a.cad && s.cadPage a.part (va / 2 ^ e.shift * 2 ^ e.shift) (2 ^ e.shift) then .error .pinned
  else if e.remote then .error (.remote e)
  else if 3 < e.kind then .error .kind
  else if t.mod.mem.keys.get a.part .absent == .locked then .error (.integrity none)
  else .ok ((e.phys va, e.kind), t)

end State

namespace Memory

/-- The key that a sector was last written under, 0 for none (R287). -/
def keyAt (m : Memory) (q : Nat) : Nat := ((m.tagRuns.find? fun r => r.1 ≤ q && q < r.1 + r.2.1).map (·.2.2)).getD 0
/-- The key of a partition's domain, 0 while it is ABSENT (R287, R358). -/
def keyOf (m : Memory) (part : Nat) : Nat := if m.keys.get part .absent = .absent then 0 else m.keyNo.get part 0
/-- `n` sectors from `q` have been written under a key. -/
def stampKey (m : Memory) (q n key : Nat) : Memory :=
  if n = 0 ∨ key = 0 ∧ m.tagRuns.isEmpty then m
  else { m with tagRuns := (q, n, key) :: m.tagRuns.filter fun r => !(q ≤ r.1 && r.1 + r.2.1 ≤ q + n) }
/-- Sectors as they are read without their key: the ciphertext (R287). -/
def cipherView (m : Memory) (secs : List Nat) : Memory :=
  if m.tagRuns.isEmpty then m
  else secs.foldl (fun m q => if m.keyAt q = 0 then m else
    ({ m with hbm := m.hbm.writeLE (64 * q) 64 (Config.cipher (m.keyAt q) q (m.hbm.readLE (64 * q) 64)) } : Memory).stampKey q 1 0) m
/-- Sectors as a partition reads them: decrypted for a confidential one, which has met no mismatch; as stored for another (R287, R288). -/
def seenBy (m : Memory) (part : Nat) (secs : List Nat) : Memory := if m.keyOf part = 0 then m.cipherView secs else m

end Memory

namespace State

/-- The sectors of `n` bytes from a physical address (R286). -/
def sectors (pa n : Nat) : List Nat := granules pa n

/-- Count an error of a stack: kind 0 corrected, 1 uncorrectable, 2 integrity, 3 transient; the counts saturate (R288, R352). -/
def countError (s : State) (sector kind : Nat) : State :=
  let k := sector / 2 ^ 31 * 4 + kind
  s.updMem fun m => { m with errors := m.errors.set k (Nat.min 0xFFFFFFFF (m.errors.get k 0 + 1)) }

/-- What the ECC finds in a sector (R287): one erroneous 16-bit symbol of its 64 bytes and 16 of check data it corrects, two it detects.
DESIGN CHOICE: more than two, which R287 leaves open, are detected too (log 74). -/
def eccOf (m : Memory) (q : Nat) : EccResult :=
  match (m.flips.filter fun f => f.1 == q).length with
  | 0 => .clean
  | 1 => .corrected
  | _ => .uncorrectable

/-- A read of a sector meets its ECC (R288): a corrected sector is rewritten, an uncorrectable one takes the poison pattern, and the error is
reported; a poisoned one is left. -/
def eccRead (s : State) (q : Nat) : State :=
  let gone : Memory → Memory := fun m => { m with flips := m.flips.filter fun f => f.1 != q }
  if s.mod.mem.poison.contains q then s
  else match eccOf s.mod.mem q with
    | .clean => s
    | .corrected => (s.countError q 0).updMem gone
    | .uncorrectable => (s.countError q 1).updMem fun m => { gone m with poison := m.poison ++ [q] }

/-- A requester reads sectors: one that gives no answer is reported as a transient error, and is read again; then their ECC decides (R288).
DESIGN CHOICE: so does every requester but a copy, whose attempt ends there (`answered`): of them the spec says no more than that the error is
transient (log 74). -/
def settleSectors (s : State) (secs : List Nat) : State :=
  if s.mod.mem.flips.isEmpty && s.mod.mem.mute.isEmpty then s
  else secs.foldl (fun t q =>
    let t := if t.mod.mem.mute.contains q then (t.countError q 3).updMem fun m => { m with mute := m.mute.filter (· != q) } else t
    t.eccRead q) s

/-- An integrity violation at a sector: it is reported, and the partition's key domain is locked (R288). -/
def lockDomain (s : State) (part : Nat) : Option Nat → State
  | none => s
  | some q => (s.countError q 2).updMem fun m => { m with keys := m.keys.set part .locked }

/-- The sectors whose tags an access of a partition meets as mismatches: only a confidential partition's are evaluated, where the sector is
not poisoned; a tag written under another key, or under none, mismatches (R287, R288). -/
def violated (m : Memory) (part : Nat) (secs : List Nat) : Option Nat :=
  let key := m.keyOf part
  if key = 0 then none
  else secs.find? fun q => !m.poison.contains q && (m.badTag.contains q || m.keyAt q != key)

/-- A physical piece of an access: its address, length and page kind. -/
structure Piece where
  pa : Nat
  n : Nat
  kind : Nat
  deriving DecidableEq, Repr

/-- The physical pieces of an access, none across a 4 KiB block: every page is translated (R291, R223). -/
def pieces (s : State) (a : Access) (write : Bool) : Nat → Nat → Nat → Except AccErr (List Piece × State)
  | 0, _, _ => .ok ([], s)
  | fuel + 1, va, n =>
    if n = 0 then .ok ([], s)
    else do
      let k := Nat.min n (4096 - va % 4096)
      let (p, t) ← s.physOf a va write
      let (rest, u) ← t.pieces a write fuel (va + k) (n - k)
      .ok (⟨p.1, k, p.2⟩ :: rest, u)

/-- Every piece of `n` bytes from a virtual address. -/
def allPieces (s : State) (a : Access) (va n : Nat) (write : Bool) : Except AccErr (List Piece × State) :=
  s.pieces a write (n / 4096 + 2) va n

end State

/-! ### Compressed blocks (R223) -/

namespace Memory

/-- The physical address of a block's entry in its sidecar line (R223). -/
def sidecarAt (pa : Nat) : Nat := pa / 2 ^ 37 * 2 ^ 37 + stackTop + 64 * (pa % 2 ^ 37 / 65536) + 4 * (pa / 4096 % 16)

/-- A block's stored size, from its sidecar entry. -/
def storedSize (m : Memory) (pa : Nat) : Nat := m.hbm.readLE (sidecarAt pa) 4 % 8192

/-- Whether a page of a kind stores its blocks coded. -/
def coded (kind : Nat) : Bool := kind == 1 || kind == 2

/-- The sidecar sector that a piece of a compressed page uses. -/
def sidecarSectors (p : State.Piece) : List Nat := if p.kind = 0 then [] else State.sectors (sidecarAt (p.pa / 4096 * 4096)) 4

/-- The sectors that a piece's stored bytes lie in, and its sidecar's. -/
def pieceSectors (m : Memory) (p : State.Piece) : List Nat :=
  (if coded p.kind then
    let home := p.pa / 4096 * 4096
    State.sectors home (Nat.min 4096 (m.storedSize home))
  else State.sectors p.pa p.n) ++ sidecarSectors p

/-- The sectors whose poison is that of a piece's bytes: those it is stored in; of a block stored as zero, which has none, its home's first. -/
def dataSectors (m : Memory) (p : State.Piece) : List Nat :=
  if coded p.kind then State.sectors (p.pa / 4096 * 4096) (Nat.max 1 (Nat.min 4096 (m.storedSize (p.pa / 4096 * 4096))))
  else State.sectors p.pa p.n

/-- KEEP of a block of a plane-truncation page: its sidecar entry's, or where none has been written yet a free one (R223; log 41). -/
def keepOf (m : Memory) (home : Nat) : Nat :=
  let e := m.hbm.readLE (sidecarAt home) 4
  (if e = 0 then (Config.keepPlanes (home / 4096)).toNat else e / 8192 % 8) + 1

/-- A coded block expanded; none on a length mismatch (R223). -/
def expand (m : Memory) (kind home : Nat) : Option (List Byte) :=
  let size := m.storedSize home
  if size = 0 then some (List.replicate 4096 0#8)
  else if size = 4096 then some (m.hbm.readBytes home 4096)
  else
    let r := decodeKind kind (m.hbm.readBytes home size)
    if r.1.length = 4096 ∧ r.2 then some r.1 else none

/-- A piece's expanded bytes; none on a length mismatch. -/
def readPiece (m : Memory) (p : State.Piece) : Option (List Byte) :=
  if coded p.kind then (m.expand p.kind (p.pa / 4096 * 4096)).map fun b => (b.drop (p.pa % 4096)).take p.n
  else some (m.hbm.readBytes p.pa p.n)

/-- Write bytes by physical address (R289): a whole sector clears poison, a bad tag and errors, a part of one keeps its poison. -/
def writeAt (m : Memory) (pa : Nat) (bs : List Byte) : Memory :=
  let whole : Nat → Bool := fun q => pa ≤ q * 64 && q * 64 + 64 ≤ pa + bs.length
  { m with hbm := m.hbm.writeBytes pa bs, poison := m.poison.filter fun q => !whole q,
           badTag := m.badTag.filter fun q => !whole q, flips := m.flips.filter fun f => !whole f.1 }

/-- Store a coded block: zero, raw where coding does not shorten it, or coded, with its sidecar entry (R223); what stood in its home is
replaced whole (R289). -/
def storeBlock (m : Memory) (kind home : Nat) (b : List Byte) : Memory :=
  let c := encodeKind kind b
  let size := if b.all (· == 0#8) then 0 else if 4096 ≤ c.length then 4096 else c.length
  let m := (m.writeAt home (List.replicate 4096 0#8)).writeAt home (if size = 0 then [] else if size = 4096 then b else c)
  { m with hbm := m.hbm.writeLE (sidecarAt home) 4 size }

/-- Sectors that were poisoned and have been written in part stay poisoned (R289). -/
def keepPoison (m old : Memory) (secs : List Nat) : Memory :=
  { m with poison := m.poison ++ secs.filter fun q => old.poison.contains q && !m.poison.contains q }

/-- Write a piece: a part of a coded block is read, modified and written, and what was poisoned of it stays so; none on a length mismatch.
A plane-truncation block is stored at its home with its KEEP in the sidecar (R223, R289). -/
def writePiece (m : Memory) (p : State.Piece) (bs : List Byte) : Option Memory :=
  let home := p.pa / 4096 * 4096
  let o := p.pa % 4096
  if coded p.kind then
    if p.n = 4096 then some (m.storeBlock p.kind home bs)
    else (m.expand p.kind home).map fun b =>
      (m.storeBlock p.kind home (b.take o ++ bs ++ b.drop (o + p.n))).keepPoison m (m.pieceSectors p ++ m.dataSectors p)
  else
    let t := m.writeAt p.pa bs
    some (if p.kind = 3 then { t with hbm := t.hbm.writeLE (sidecarAt home) 4 (4096 + 8192 * (m.keepOf home - 1)) } else t)

/-- The sectors that a write of a piece does not overwrite whole (R289). -/
def partSectors (m : Memory) (p : State.Piece) : List Nat :=
  (m.pieceSectors p).filter fun q => (sidecarSectors p).contains q ||
    !(if coded p.kind then p.n == 4096 else p.pa ≤ q * 64 && q * 64 + 64 ≤ p.pa + p.n)

/-- The sectors that leave poison where a piece is written: those it does not overwrite whole (R289). -/
def staySectors (m : Memory) (p : State.Piece) : List Nat :=
  m.partSectors p ++ if coded p.kind && p.n != 4096 then m.dataSectors p else []

/-- Write pieces in order. -/
def writePieces (m : Memory) : List State.Piece → List Byte → Option Memory
  | [], _ => some m
  | p :: ps, bs => (m.writePiece p (bs.take p.n)).bind fun m' => m'.writePieces ps (bs.drop p.n)

end Memory

namespace State

/-- Read the bytes of pieces for a partition, and whether any lies in a poisoned sector (R287, R288). -/
def readPieces (m : Memory) (part : Nat) (ps : List Piece) : Except AccErr (List Byte × Bool) :=
  let m := m.seenBy part (ps.flatMap Memory.sidecarSectors)
  let secs := ps.flatMap m.pieceSectors
  match violated m part secs with
  | some q => .error (.integrity (some q))
  | none => match ps.mapM (m.seenBy part secs).readPiece with
    | none => .error .codec
    | some bs => .ok (bs.flatten, (secs ++ ps.flatMap m.dataSectors).any m.poison.contains)

/-- Write the bytes of pieces for a partition, under its key if it has one; answers whether a sector stays poisoned (R287, R289). -/
def putPieces (m : Memory) (part : Nat) (ps : List Piece) (bs : List Byte) : Except AccErr (Bool × Memory) :=
  let m := m.seenBy part (ps.flatMap Memory.sidecarSectors)
  let parts := ps.flatMap m.partSectors
  match violated m part parts with
  | some q => .error (.integrity (some q))
  | none => match (m.seenBy part parts).writePieces ps bs with
    | none => .error .codec
    | some m' => .ok ((ps.flatMap m.staySectors).any m.poison.contains, (ps.flatMap m'.pieceSectors).foldl (fun m q => m.stampKey q 1 (m.keyOf part)) m')

/-- Read pieces: the ECC of their sectors decides, then their tags and poison (R288). -/
def fetchPieces (s : State) (part : Nat) (ps : List Piece) : Except AccErr (List Byte × Bool × State) := do
  let t := s.settleSectors (ps.flatMap s.mod.mem.pieceSectors)
  let (b, bad) ← readPieces t.mod.mem part ps
  .ok (b, bad, t)

/-- Write pieces: a sector that is written in part is read first (R288, R289). -/
def storePieces (s : State) (part : Nat) (ps : List Piece) (bs : List Byte) : Except AccErr (Bool × State) := do
  let t := s.settleSectors (ps.flatMap s.mod.mem.partSectors)
  let (stays, m) ← putPieces t.mod.mem part ps bs
  .ok (stays, t.updMem fun _ => m)

/-- An access that is replayed where a sector gives no answer ends at the first such sector (R219, R288). -/
def answered (s : State) (a : Access) (secs : List Nat) : Except AccErr Unit :=
  match if a.replays then secs.find? s.mod.mem.mute.contains else none with
  | some q => .error (.mute q)
  | none => .ok ()

/-- The pieces of a read by virtual address, whose sectors answer. -/
def readyPieces (s : State) (a : Access) (va n : Nat) : Except AccErr (List Piece × State) := do
  let (ps, t) ← s.allPieces a va n false
  t.answered a (ps.flatMap t.mod.mem.pieceSectors)
  .ok (ps, t)

/-- The pieces of a write by virtual address: the sectors that it reads, those it overwrites in part, answer. -/
def openPieces (s : State) (a : Access) (va n : Nat) : Except AccErr (List Piece × State) := do
  let (ps, t) ← s.allPieces a va n true
  t.answered a (ps.flatMap t.mod.mem.partSectors)
  .ok (ps, t)

/-- Read bytes by virtual address: the bytes, and whether any lies in a poisoned sector (R288). -/
def readVirt (s : State) (a : Access) (va n : Nat) : Except AccErr (List Byte × Bool × State) := do
  let (ps, t) ← s.readyPieces a va n
  t.fetchPieces a.part ps

/-- Write bytes by virtual address; answers whether a sector stays poisoned (R289). -/
def writeVirt (s : State) (a : Access) (va : Nat) (bs : List Byte) : Except AccErr (Bool × State) := do
  let (ps, t) ← s.openPieces a va bs.length
  t.storePieces a.part ps bs

/-! ### What an access that fails has met (R288) -/

/-- What an attempt's reads have met stands whatever becomes of the attempt: locked domains, reported errors, sectors that were corrected or
took the poison pattern (R288). -/
def metErrors (s v : State) : State :=
  s.updMem fun m => { m with
    keys := v.mod.mem.keys, errors := v.mod.mem.errors, flips := v.mod.mem.flips, mute := v.mod.mem.mute
    poison := m.poison ++ ((m.flips.map (·.1)).eraseDups.filter fun q =>
      eccOf m q == .uncorrectable && !(v.mod.mem.flips.any fun f => f.1 == q) && !m.poison.contains q) }

/-- What an access of a partition that ended with an error leaves: a violation locks the domain, and what the ECC found in the sectors that it
has read stands, but for the one whose tag did not match, which stays as it is (R288). -/
def refused (s : State) (part : Nat) (secs : List Nat) : AccErr → State
  | .integrity q => (s.settleSectors (secs.filter fun x => some x != q)).lockDomain part q
  | .codec => s.settleSectors secs
  | _ => s

/-- The same of one by virtual address, with the sectors of each of its pieces that it reads. -/
def refusedAt (s : State) (a : Access) (va n : Nat) (write : Bool) (secs : Memory → Piece → List Nat) (e : AccErr) : State :=
  s.refused a.part (match s.allPieces a va n write with
    | .ok (ps, _) => ps.flatMap (secs s.mod.mem)
    | .error _ => []) e

/-- What a read that ended with an error leaves. -/
def refusedRead (s : State) (a : Access) (va n : Nat) (e : AccErr) : State := s.refusedAt a va n false Memory.pieceSectors e
/-- What a write that ended with an error leaves: it has read the sectors that it would have written in part (R289). -/
def refusedWrite (s : State) (a : Access) (va n : Nat) (e : AccErr) : State := s.refusedAt a va n true Memory.partSectors e

/-- What the reading of bytes leaves, whatever it comes to. -/
def metRead (s : State) (a : Access) (va n : Nat) : State :=
  match s.readVirt a va n with
  | .ok (_, _, t) => s.metErrors t
  | .error e => s.refusedRead a va n e

/-! ### Writes that a reader has not acquired (R225, R298 note 2) -/

/-- Who reads or writes memory for a copy or collective: its core, the row that its context had, the mark that its writes carry until it completes,
its launch, and the count of free values. -/
structure Party where
  core : CoreId
  row : Row
  no : Nat := 0
  launch : Option Nat := none
  free : Nat := 0

/-- The mark that the writes of an engine command carry until it completes, which no observation reaches. -/
def pendMark (tid : Nat) : Nat := 2 ^ 64 + tid

/-- An engine command completes: who observes this completion of its core acquires what it has written (R125, R225). -/
def stampWrites (s : State) (core : CoreId) (tid : Nat) : State :=
  s.updMem fun m => { m with stale := m.stale.map fun x =>
    if x.core = core ∧ x.no = pendMark tid then { x with no := (s.core core).sp.compl } else x }

/-- The addresses of the bytes of pieces, in order. -/
def pieceAddrs (ps : List Piece) : List Nat := ps.flatMap fun p => (List.range p.n).map (· + p.pa)

/-- Whether a numbered release orders a write for who has acquired it: all that its context had acquired, or of a participant of a collective
what its own core had written to the ranges and it had observed (R377, R378). -/
def covers (h : Handover) (x : Stale) : Bool :=
  h.row.knows h.core x.core x.no && h.part == x.part && (match h.ranges with
    | some l => x.core == h.core && l.any fun r => r.1 ≤ x.va && x.va < r.1 + r.2
    | none => true)

/-- Whether a party has acquired the write of a byte: by what its context has acquired of the writing core, or by a numbered release
(R225, R298, R377, R378). -/
def acquired (hands : Tab Handover) (w : Party) (x : Stale) : Bool :=
  w.row.knows w.core x.core x.no || hands.entries.any fun h => w.row.has (Row.via h.1) && covers h.2 x

/-- A byte as a party may read it: back through the writes of it that the party has not acquired, newest first, a free bit for each says
whether it reads what stood before. One bit holds for all of an element, whose address is `at_` (R219, R298 note 2). -/
def olderByte (hands : Tab Handover) (w : Party) (at_ pa : Nat) : List Stale → Byte → Byte
  | [], b => b
  | x :: xs, b =>
    if x.pa ≠ pa then olderByte hands w at_ pa xs b
    else if acquired hands w x then b
    else if Config.staleBit w.free at_ x.core x.no then olderByte hands w at_ pa xs x.old
    else b

/-- A party's write of pieces is about to take the place of their bytes: a party that has not acquired it may still read them. What it has
acquired itself can no longer be told from it. -/
def noteWrite (m : Memory) (w : Party) (part va : Nat) (ps : List Piece) : Memory :=
  match ps.mapM m.readPiece with
  | none => m
  | some bs =>
    let new : List Stale := ((pieceAddrs ps).zip bs.flatten).zipIdx.map fun x => ⟨x.1.1, x.1.2, w.core, w.no, w.launch, part, va + x.2⟩
    { m with stale := new ++ m.stale.filter fun x => !((pieceAddrs ps).contains x.pa && acquired m.hands w x) }

/-- Read an element by virtual address as a party may see it. -/
def readAs (s : State) (w : Party) (a : Access) (va n : Nat) : Except AccErr (List Byte × Bool × State) := do
  let (ps, t) ← s.readyPieces a va n
  let (b, bad, t) ← t.fetchPieces a.part ps
  .ok (if t.mod.mem.stale.isEmpty then b
    else (pieceAddrs ps).zip b |>.map fun x => olderByte t.mod.mem.hands w va x.1 t.mod.mem.stale x.2, bad, t)

/-- Write bytes by virtual address as a party whose write others have not acquired. -/
def writeAs (s : State) (w : Party) (a : Access) (va : Nat) (bs : List Byte) : Except AccErr (Bool × State) := do
  let (ps, t) ← s.openPieces a va bs.length
  (t.updMem fun m => noteWrite m w a.part va ps).storePieces a.part ps bs

/-- Every write of a launch stands for whoever reads later: its completion has been reported (R261, R343). -/
def settleLaunch (s : State) (l : Nat) : State :=
  s.updMem fun m => { m with stale := m.stale.filter fun x => x.launch != some l, hands := m.hands.filterVals fun _ h => h.launch != some l }

/-- A release that other modules may acquire takes its number (R377, R378). -/
def handOver (s : State) (h : Handover) : State :=
  s.updMem fun m => { m with hands := m.hands.set m.handNext h, handNext := m.handNext + 1 }

/-! ### Quotas (R296) -/

/-- The quota of a partition for which the SCC has set none: the 64 KiB pages of the populated memory (log 13). -/
def quotaReset : Nat := 16 * (stackTop / 65536)

/-- Raise a partition's page count by one operation, refused past its quota (R296). -/
def takePages (s : State) (part n : Nat) : Option State :=
  let m := s.mod.mem
  if m.used.get part 0 + n ≤ m.quota.get part quotaReset then
    some (s.updMem fun m => { m with used := m.used.set part (m.used.get part 0 + n) })
  else none

/-- Pages return to the pool (R296). -/
def givePages (s : State) (part n : Nat) : State :=
  s.updMem fun m => { m with used := m.used.set part (m.used.get part 0 - n) }

end State

/-! ### XLAT (R318 to R322) -/

/-- TLBW (R319). -/
def execTlbw (a b : Fld) (s : State) : Out :=
  let w0 := s.me.rg a.toNat
  let w1 := s.me.rg b.toNat
  .next (match tlbwBad w0 w1 with
    | some w => s.takeTrap .illegal w
    | none => (s.tlbWrite s.cur s.slot ⟨w0, w1⟩).advance 8)

/-- Remove entries from a die's TLBs (R294, R320): pinned ones stay in the last level, dirty ones are harvested. -/
def tlbInv (s : State) (p : TlbE → Bool) : State :=
  let d := coreDie s.cur
  let x := s.die d
  let gone := x.tlb.entries.filter fun q => p q.2 && !x.pinned q.1
  let t := s.setDie d { x with tlb := x.tlb.filterVals fun i e => !(p e && !x.pinned i),
                               tlbAge := x.tlbAge.filter fun i => !(gone.any fun q => q.1 == i) }
  let t := { t with
    clusters := t.clusters.mapVals fun q c => if q / 64 = d then { c with tlb := c.tlb.filter fun e => !p e } else c
    cores := t.cores.mapVals fun i c =>
      if coreDie i = d then c.updEn fun e => { e with ropeTlb := e.ropeTlb.filter fun f => !p f } else c }
  gone.foldl (fun u q => if q.2.dirty then u.postHarvest s.cur s.slot q.2 else u) t

/-- The entries that a TLBINV names (R320). -/
def tlbNames (m : BitVec 2) (va part : Nat) (e : TlbE) : Bool :=
  match m.toNat with
  | 0 => e.hits part va
  | 1 => e.valid && e.part == part
  | _ => e.valid

/-- Whether a reduction's apply phase on a die, operands of it still in the staging buffer, has pinned an entry that `p` names (R220, R294). -/
def State.applying (s : State) (d : Nat) (p : TlbE → Bool) : Bool :=
  s.cores.entries.any fun c => coreDie c.1 == d && c.2.en.flight.any fun
    | .copy m => !m.staged.isEmpty && m.pinned.any fun i => ((s.die d).tlb.get? i).any p
    | .coll _ => false

/-- TLBINV (R294, R312, R320): the entries that are not pinned go at once; it holds its context until every apply phase that has pinned an
entry it names has ended, what these have unpinned goes too, and the number that stay pinned is its result (log 39). -/
def execTlbinv (d a b : Fld) (m : BitVec 2) (s : State) : Out :=
  let pv := s.me.rg b.toNat
  let p := tlbNames m (s.me.rg a.toNat).toNat pv.toNat
  let x := s.die (coreDie s.cur)
  let n := (x.tlb.entries.filter fun q => p q.2 && x.pinned q.1).length
  .next (if m ≠ 2#2 ∧ 16 ≤ pv.toNat then s.takeTrap .illegal pv
    else if s.applying (coreDie s.cur) p then (tlbInv s p).updMe fun y => { y with held := some (.tlbinv d a b m), heldOn := none }
    else ((tlbInv s p).updMe (·.wg d.toNat (BitVec.ofNat 64 n))).advance 8)

/-- HARVEST (R321). -/
def execHarvest (d c a : Fld) (s : State) : Out :=
  let cursor := (s.me.rg a.toNat).toNat
  let x := s.die (coreDie s.cur)
  .next (match x.tlb.entries.find? fun q => cursor ≤ q.1 && q.2.valid && q.2.dirty with
    | some (i, e) =>
      let t := s.setDie (coreDie s.cur) { x with tlb := x.tlb.set i (e.setDirty false) }
      (t.updMe fun y => (y.wg d.toNat e.w0).wg c.toNat (BitVec.ofNat 64 (i + 1))).advance 8
    | none => (s.updMe fun y => (y.wg d.toNat 0#64).wg c.toNat 16384#64).advance 8)

/-- TLBR (R322). -/
def execTlbr (d c a : Fld) (s : State) : Out :=
  let i := (s.me.rg a.toNat).toNat
  .next (if tlbSize ≤ i then s.takeTrap .illegal (s.me.rg a.toNat)
    else
      let e := ((s.die (coreDie s.cur)).tlb.get? i).getD ⟨0#64, 0#64⟩
      (s.updMe fun y => (y.wg d.toNat e.w0).wg c.toNat e.w1).advance 8)

end Sys2Proof.Machine
end

