-- ==== Sys2Proof/Machine/Numeric.lean ====
section
/-!
DEFINITION. Number formats and exact values (R45 to R49), rounding (R54), saturation (R55), conversions (R56), flushing (R58),
exact arithmetic on values, and the elements of a vector register (R132).
-/
namespace Sys2Proof.Machine

/-! ### Formats (R47, R49) -/

/-- A floating-point format: width, exponent and fraction bits, bias, and the magnitude codes of the largest finite value, of
infinity (in E4M3, which has none, of its NaN) and of the canonical NaN. -/
structure Fmt where
  w : Nat
  eb : Nat
  fb : Nat
  bias : Nat
  top : Nat
  inf : Nat
  nan : Nat
  hasInf : Bool
  deriving DecidableEq, Repr

/-- FP32 (R47). -/
def f32 : Fmt := ⟨32, 8, 23, 127, 0x7F7FFFFF, 0x7F800000, 0x7FC00000, true⟩
/-- BF16 (R47). -/
def bf16 : Fmt := ⟨16, 8, 7, 127, 0x7F7F, 0x7F80, 0x7FC0, true⟩
/-- E5M2 (R47). -/
def e5m2 : Fmt := ⟨8, 5, 2, 15, 0x7B, 0x7C, 0x7E, true⟩
/-- E4M3 (R47). -/
def e4m3 : Fmt := ⟨8, 4, 3, 7, 0x7E, 0x7F, 0x7F, false⟩

/-- The floating-point format of a TYPE code (R30). -/
def fmtOf (ty : Nat) : Option Fmt :=
  match ty with
  | 0 => some f32
  | 1 => some bf16
  | 5 => some e4m3
  | 6 => some e5m2
  | _ => none

/-- The element width of a TYPE code (R132). -/
def typeWidth (ty : Nat) : Nat :=
  match ty with
  | 0 | 2 => 32
  | 1 | 3 => 16
  | _ => 8

/-! ### Values -/

/-- A value: NaN, an infinity, or the number ±m × 2^e with its sign kept at zero. -/
inductive Val where
  | nan
  | inf (neg : Bool)
  | num (neg : Bool) (m : Nat) (e : Int)
  deriving DecidableEq, Repr

/-- The value of a code; a subnormal reads as zero where the unit flushes (R47, R58). -/
def Fmt.unpack (F : Fmt) (ftz : Bool) (c : Nat) : Val :=
  let neg := c / 2 ^ (F.w - 1) % 2 == 1
  let mag := c % 2 ^ (F.w - 1)
  if F.top < mag then (if F.hasInf && mag == F.inf then .inf neg else .nan)
  else
    let ex := mag / 2 ^ F.fb
    let fr := mag % 2 ^ F.fb
    if ex = 0 then .num neg (if ftz then 0 else fr) (1 - (F.bias : Int) - F.fb)
    else .num neg (2 ^ F.fb + fr) ((ex : Int) - F.bias - F.fb)

/-- The value of a two's complement integer of `w` bits. -/
def intVal (w c : Nat) : Val :=
  let i := (BitVec.ofNat w c).toInt
  .num (i < 0) i.natAbs 0

/-- The number of bits of a magnitude. -/
def bitLen (m : Nat) : Nat := if m = 0 then 0 else m.log2 + 1

/-- The magnitude m × 2^e as a count of quanta 2^q, and whether it was inexact (R54). -/
def roundQuanta (rnd : Rnd) (neg : Bool) (m : Nat) (e q : Int) : Nat × Bool :=
  if q ≤ e then (m * 2 ^ (e - q).toNat, false)
  else
    let sh := (q - e).toNat
    let n := m / 2 ^ sh
    let rem := m % 2 ^ sh
    if rem = 0 then (n, false)
    else
      let up := match rnd with
        | .rne => 2 ^ sh < 2 * rem || (2 * rem == 2 ^ sh && n % 2 == 1)
        | .rtz => false
        | .rdn => neg
        | .rup => !neg
        | .rto => n % 2 == 0
      (if up then n + 1 else n, true)

/-- Whether overflow past the largest finite value goes to infinity (R54). -/
def overflowsToInf (rnd : Rnd) (neg : Bool) : Bool :=
  match rnd with
  | .rne => true
  | .rtz | .rto => false
  | .rdn => neg
  | .rup => !neg

/-- A value rounded once to a format (R54 to R56, R58): its code and flags. Tininess is detected before rounding. -/
def Fmt.pack (F : Fmt) (rnd : Rnd) (sat ftz : Bool) (v : Val) : Nat × Flags :=
  let sg : Bool → Nat := fun neg => if neg then 2 ^ (F.w - 1) else 0
  match v with
  | .nan => (F.nan, {})
  | .inf neg => (sg neg + (if sat then F.top else F.inf), {})
  | .num neg 0 _ => (sg neg, {})
  | .num neg m e =>
    let emin : Int := 1 - (F.bias : Int)
    let big := e + m.log2
    let tiny := big < emin
    if tiny && ftz then (sg neg, { uf := true, nx := true })
    else
      let q := (if tiny then emin else big) - F.fb
      let r := roundQuanta rnd neg m e q
      let code := (q - (emin - F.fb)).toNat * 2 ^ F.fb + r.1
      if F.top < code then
        (sg neg + (if !sat && overflowsToInf rnd neg then F.inf else F.top), { of := true, nx := true })
      else (sg neg + code, { uf := tiny && r.2, nx := r.2 })

/-- A code flushed after its rounding: a subnormal becomes the zero of its sign (R58). -/
def Fmt.flush (F : Fmt) (c : Nat) : Nat :=
  if c % 2 ^ (F.w - 1) < 2 ^ F.fb then c / 2 ^ (F.w - 1) * 2 ^ (F.w - 1) else c

/-- A value rounded to an integer of `w` bits (R56, column "To Int"). -/
def packInt (w : Nat) (rnd : Rnd) (sat : Bool) (v : Val) : Nat × Flags :=
  let lo : Int := -(2 ^ (w - 1))
  let hi : Int := 2 ^ (w - 1) - 1
  let code : Int → Nat := fun i => (i % 2 ^ w).toNat
  match v with
  | .nan => (0, { nv := true })
  | .inf neg => (code (if sat && !neg then hi else lo), { nv := true })
  | .num neg m e =>
    let r := roundQuanta rnd neg m e 0
    let i : Int := if neg then -(r.1 : Int) else r.1
    if i < lo ∨ hi < i then (code (if sat && 0 < i then hi else lo), { nv := true }) else (code i, { nx := r.2 })

/-- An exact integer result of an integer type (R46). -/
def wrapInt (w : Nat) (sat : Bool) (i : Int) : Nat :=
  let lo : Int := -(2 ^ (w - 1))
  let hi : Int := 2 ^ (w - 1) - 1
  ((if sat then (if i < lo then lo else if hi < i then hi else i) else i) % 2 ^ w).toNat

/-- The conversion of an element between two types (R56). -/
def convertElem (src dst : Nat) (rnd : Rnd) (sat ftz : Bool) (c : Nat) : Nat × Flags :=
  match fmtOf src, fmtOf dst with
  | some F, some G => G.pack rnd sat ftz (F.unpack ftz c)
  | some F, none => packInt (typeWidth dst) rnd sat (F.unpack ftz c)
  | none, some G => G.pack rnd sat ftz (intVal (typeWidth src) c)
  | none, none => (wrapInt (typeWidth dst) sat (BitVec.ofNat (typeWidth src) c).toInt, {})

namespace Val

/-- The negative of a value. -/
def neg : Val → Val
  | nan => nan
  | inf n => inf !n
  | num n m e => num (!n) m e

/-- A number from a signed count of 2^e; an exact zero takes the sign of the mode (R54). -/
def ofInt (rnd : Rnd) (i e : Int) : Val := num (if i = 0 then rnd == .rdn else i < 0) i.natAbs e

/-- A signed magnitude as an integer. -/
def signed (n : Bool) (m : Nat) : Int := if n then -(m : Int) else m

/-- The exact sum, and whether it is invalid (∞ − ∞). -/
def add (rnd : Rnd) : Val → Val → Val × Bool
  | nan, _ => (nan, false)
  | _, nan => (nan, false)
  | inf a, inf b => if a = b then (inf a, false) else (nan, true)
  | inf a, _ => (inf a, false)
  | _, inf b => (inf b, false)
  | num a m e, num b n f =>
    if m = 0 ∧ n = 0 ∧ a = b then (num a 0 0, false)
    else if m = 0 ∧ n ≠ 0 then (num b n f, false)
    else if n = 0 ∧ m ≠ 0 then (num a m e, false)
    else
      let g := min e f
      (ofInt rnd (signed a m * 2 ^ (e - g).toNat + signed b n * 2 ^ (f - g).toNat) g, false)

/-- The exact product, and whether it is invalid (∞ × 0). -/
def mul : Val → Val → Val × Bool
  | nan, _ => (nan, false)
  | _, nan => (nan, false)
  | inf a, inf b => (inf (a != b), false)
  | inf a, num b m _ => if m = 0 then (nan, true) else (inf (a != b), false)
  | num a m _, inf b => if m = 0 then (nan, true) else (inf (a != b), false)
  | num a m e, num b n f => (num (a != b) (m * n) (e + f), false)

/-- a × b + c, exact; an invalid product or sum is invalid whatever the addend (R136). -/
def fma (rnd : Rnd) (a b c : Val) : Val × Bool :=
  let p := mul a b
  let q := add rnd p.1 c
  (q.1, p.2 || q.2)

/-- The absolute value of a value. -/
def abs : Val → Val
  | nan => nan
  | inf _ => inf false
  | num _ m e => num false m e

/-- Whether a value is NaN. -/
def isNan : Val → Bool
  | nan => true
  | _ => false

/-- x < y, with −0 equal to +0; false where either is NaN. -/
def lt : Val → Val → Bool
  | nan, _ => false
  | _, nan => false
  | inf a, inf b => a && !b
  | inf a, _ => a
  | _, inf b => !b
  | num a m e, num b n f =>
    let g := min e f
    signed a m * 2 ^ (e - g).toNat < signed b n * 2 ^ (f - g).toNat

/-- x = y, with −0 equal to +0; false where either is NaN. -/
def eq (x y : Val) : Bool := !x.isNan && !y.isNan && !x.lt y && !y.lt x

/-- The sign of a value that is not NaN. -/
def sign : Val → Bool
  | nan => false
  | inf n => n
  | num n _ _ => n

/-- The smaller of two values, with −0 below +0; NaN where either is (R136). -/
def minV (x y : Val) : Val :=
  if x.isNan || y.isNan then nan else if y.lt x || (!x.lt y && y.sign && !x.sign) then y else x
/-- The larger of two values, with −0 below +0; NaN where either is (R136). -/
def maxV (x y : Val) : Val :=
  if x.isNan || y.isNan then nan else if x.lt y || (!y.lt x && x.sign && !y.sign) then y else x

end Val

/-- A result with its invalid bit, rounded once (R136). -/
def Fmt.result (F : Fmt) (rnd : Rnd) (sat ftz : Bool) (r : Val × Bool) : Nat × Flags :=
  let p := F.pack rnd sat ftz r.1
  (p.1, { p.2 with nv := p.2.nv || r.2 })

/-! ### Elements of a vector register (R132, R133) -/

/-- Element j of a register at width w. -/
def elem (w : Nat) (v : VReg) (j : Nat) : Nat := v.toNat / 2 ^ (w * j) % 2 ^ w
/-- A register from its elements at width w, element 0 first. -/
def ofElems (w : Nat) (es : List Nat) : VReg := BitVec.ofNat 1024 (es.foldr (fun e a => e % 2 ^ w + 2 ^ w * a) 0)
/-- Whether a lane mask enables an element (R133). -/
def enabled (w : Nat) (k : Lane) (j : Nat) : Bool := k.getLsbD (j * w / 32)

/-- A masked result (R133): the element results of the enabled elements, zero or the old value elsewhere; flags of the enabled
elements alone. -/
def maskedResult (w : Nat) (k : Lane) (z : Bool) (old : VReg) (f : Nat → Nat × Flags) : VReg × Flags :=
  let rs := (List.range (1024 / w)).map fun j =>
    if enabled w k j then f j else (if z then 0 else elem w old j, {})
  (ofElems w (rs.map (·.1)), rs.foldl (fun a r => a.or r.2) {})

end Sys2Proof.Machine
end

