-- ==== Sys2Proof/Machine/Move.lean ====
section
/-!
DEFINITION. What a copy moves: the snapshot's fields (R217) and checks (R218), runs and their units, the formats of a unit and its
conversion (R50 to R57), the values of a reduction (R220).
-/
namespace Sys2Proof.Machine
open State

/-! ### The snapshot (R217) -/

/-- The fields of a snapshot of the shadow set. -/
structure Plan where
  ssp : Bool
  src : Nat
  dsp : Bool
  dst : Nat
  dlog : Nat
  len : Nat
  s1 : Int
  s2 : Int
  d1 : Int
  d2 : Int
  e1 : Nat
  e2 : Nat
  e3 : Nat
  sf : Nat
  mf : Nat
  df : Nat
  he : Bool
  hd : Nat
  h : Nat
  init : Bool
  credit : Nat
  cl2 : Nat
  mask : Nat
  op : Nat
  ge : Bool
  gs : Bool
  gsl : Nat
  deriving DecidableEq, Repr

/-- A bit field of a shadow register. -/
def shBits (sh : Tab Word) (ix lo n : Nat) : Nat := (sh.get ix 0#64).toNat / 2 ^ lo % 2 ^ n
/-- A signed stride of a shadow register. -/
def shStride (sh : Tab Word) (ix lo : Nat) : Int := (BitVec.ofNat 32 (shBits sh ix lo 32)).toInt

/-- Read a snapshot (R217). -/
def readPlan (sh : Tab Word) : Plan :=
  let f := shBits sh
  let ssp := f 0 63 1 == 1
  let dsp := f 1 63 1 == 1
  { ssp := ssp, src := f 0 0 (if ssp then 20 else 56), dsp := dsp, dst := f 1 0 (if dsp then 20 else 56), dlog := f 1 20 3,
    len := f 2 0 24, s1 := shStride sh 3 0, s2 := shStride sh 3 32, d1 := shStride sh 4 0, d2 := shStride sh 4 32,
    e1 := f 5 0 16, e2 := f 5 16 16, e3 := f 5 32 16, sf := f 6 0 4, mf := f 6 4 4, df := f 6 8 4,
    he := f 7 15 1 == 1, hd := f 7 8 6, h := f 7 0 4, init := f 8 29 1 == 1, credit := f 8 23 6 + 1, cl2 := f 8 16 6,
    mask := f 8 0 16, op := f 9 0 2, ge := f 10 5 1 == 1, gs := f 10 4 1 == 1, gsl := f 10 0 4 }

/-! ### Formats (R50, R53, R217) -/

/-- P of a plane format. -/
def planeP (f : Nat) : Nat :=
  match f with
  | 5 => 4 | 6 => 6 | 7 => 8 | _ => 0

/-- Whether a format code is plane. -/
def isPlane (f : Nat) : Bool := planeP f != 0
/-- Whether a format code is an integer's. -/
def isIntFmt (f : Nat) : Bool := f == 8 || f == 9 || f == 10
/-- Whether a format code is a floating-point element's. -/
def isFloatFmt (f : Nat) : Bool := 1 ≤ f && f ≤ 4

/-- The bytes of an element that is not plane. -/
def fmtSize (f : Nat) : Nat :=
  match f with
  | 1 | 8 => 4
  | 2 | 9 => 2
  | _ => 1

/-- The TYPE code of a format that is not raw or plane. -/
def fmtType (f : Nat) : Nat :=
  match f with
  | 1 => 0 | 2 => 1 | 3 => 5 | 4 => 6 | 8 => 2 | 9 => 3 | _ => 4

namespace Plan

/-- The elements of a unit, which moves whole: 32 where a side is plane (R50), else one. -/
def unitLen (p : Plan) : Nat := if isPlane p.sf || isPlane p.df then 32 else 1
/-- The units of a run. -/
def units (p : Plan) : Nat := (p.len + p.unitLen - 1) / p.unitLen
/-- The runs of a copy. -/
def runs (p : Plan) : Nat := p.e1 * p.e2 * p.e3
/-- The bytes of a unit in a format: a record of 1 + 4P bytes, or its elements (R50). -/
def unitBytes (p : Plan) (f : Nat) : Nat := if isPlane f then 1 + 4 * planeP f else p.unitLen * fmtSize f
/-- The bytes of a stored row of a plane tile (R53). -/
def rowBytes (p : Plan) (f : Nat) : Nat := 8 * ((p.units * planeP f + 1) / 2)
/-- The bytes of a run on a side. -/
def runBytes (p : Plan) (sp : Bool) (f : Nat) : Nat := if sp && isPlane f then p.rowBytes f else p.units * p.unitBytes f
/-- The bytes of a plane tile's scales, padded to a whole word (R53). -/
def scaleBytes (p : Plan) : Nat := (p.runs * p.units + 7) / 8 * 8
/-- The offset of a plane tile's scales (R53). -/
def scaleBase (p : Plan) (base f : Nat) : Nat := base + p.runs * p.rowBytes f

/-- The start of run i (R217): virtual addresses have 56 bits. -/
def start (p : Plan) (source : Bool) (i : Nat) : Int :=
  let i1 := i % p.e1
  let i2 := i / p.e1 % p.e2
  let i3 := i / (p.e1 * p.e2)
  if source then p.src + i1 * p.s1 + i2 * p.s2 + i3 * p.e2 * p.s2 else p.dst + i1 * p.d1 + i2 * p.d2 + i3 * p.e2 * p.d2

/-- The start of run i as an address of its side. -/
def addr (p : Plan) (source : Bool) (i : Nat) : Nat :=
  let a := p.start source i
  if (if source then p.ssp else p.dsp) then a.toNat else (a % 2 ^ 56).toNat

/-- Where unit u of run i lies on a side, as ranges whose bytes in turn are the unit's (R50, R53). -/
def place (p : Plan) (source : Bool) (i u : Nat) : List (Nat × Nat) :=
  let f := if source then p.sf else p.df
  let sp := if source then p.ssp else p.dsp
  let a := p.addr source i
  if sp && isPlane f then
    [(p.scaleBase (if source then p.src else p.dst) f + i * p.units + u, 1), (a + 4 * u * planeP f, 4 * planeP f)]
  else [(a + u * p.unitBytes f, p.unitBytes f)]

/-- The zero bytes that pad a plane tile in the scratchpad (R53). -/
def padding (p : Plan) : List (Nat × Nat) :=
  if p.dsp && isPlane p.df then
    let used := 4 * p.units * planeP p.df
    ((List.range p.runs).map fun i => (p.addr false i + used, p.rowBytes p.df - used))
      ++ [(p.scaleBase p.dst p.df + p.runs * p.units, p.scaleBytes - p.runs * p.units)]
  else []

/-- The units of a copy. -/
def total (p : Plan) : Nat := p.runs * p.units

/-- What a copy writes, numbered: its units, then the paddings of a plane tile. -/
def spots (p : Plan) : Nat := p.total + p.padding.length

/-- Where number k of a copy lies on its destination side. -/
def spot (p : Plan) (k : Nat) : List (Nat × Nat) :=
  if k < p.total then p.place false (k / p.units) (k % p.units) else (p.padding[k - p.total]?).toList

/-- The bytes that a copy delivers to each receiver. -/
def delivered (p : Plan) : Nat :=
  p.runs * p.runBytes p.dsp p.df + (if p.dsp && isPlane p.df then p.scaleBytes else 0)

/-- The ranges of a side in the scratchpad. -/
def ranges (p : Plan) (source : Bool) : List (Nat × Nat) :=
  let f := if source then p.sf else p.df
  let sp := if source then p.ssp else p.dsp
  if !sp then []
  else ((List.range p.runs).map fun i => (p.addr source i, p.runBytes true f))
    ++ (if isPlane f then [(p.scaleBase (if source then p.src else p.dst) f, p.scaleBytes)] else [])

end Plan

/-! ### The checks of CELAUNCH (R218) -/

/-- FIELD (R218). -/
def planField (sh : Tab Word) (p : Plan) : Bool :=
  let f := shBits sh
  (if p.ssp then f 0 20 43 == 0 else f 0 56 7 == 0) && (if p.dsp then f 1 23 40 == 0 else f 1 56 7 == 0)
  && f 2 24 40 == 0 && p.len != 0 && f 5 48 16 == 0 && p.e1 != 0 && p.e2 != 0 && p.e3 != 0
  && f 6 12 52 == 0 && p.sf ≤ 10 && p.mf ≤ 10 && p.df ≤ 10
  && f 7 16 48 == 0 && f 7 14 1 == 0 && f 7 4 4 == 0 && (p.he || (p.hd == 0 && p.h == 0))
  && f 8 30 34 == 0 && f 8 22 1 == 0 && f 9 2 62 == 0 && p.op != 3 && f 10 6 58 == 0 && (p.ge || (!p.gs && p.gsl == 0))

/-- Whether a side's scratchpad bytes lie in the scratchpad (R218). -/
def planRange (p : Plan) (source : Bool) : Bool :=
  let f := if source then p.sf else p.df
  let base := if source then p.src else p.dst
  if !(if source then p.ssp else p.dsp) then true
  else ((List.range p.runs).all fun i => let a := p.start source i; 0 ≤ a && a + p.runBytes true f ≤ spadSize)
    && (!isPlane f || p.scaleBase base f + p.scaleBytes ≤ spadSize)

/-- CONVERT (R218). -/
def planConvert (p : Plan) : Bool :=
  (p.sf != 0 || (p.mf == 0 && p.df == 0)) && (p.df != 0 || p.sf == 0) && !isPlane p.mf && !isIntFmt p.mf
  && (!(isPlane p.sf || isPlane p.df) || p.len % 32 == 0)

/-- OP (R218). -/
def planOp (p : Plan) : Bool :=
  p.op == 0 || ((p.df == 1 || p.df == 2 || p.df == 8) && (if p.df = 8 then isIntFmt p.sf else isFloatFmt p.sf) && p.mf == 0
    && p.mask == 0)

/-- The receivers of a mask: each bit with its core, where the map carries it (R217). -/
def maskCores (s : State) (core : CoreId) (p : Plan) : List (Nat × Option CoreId) :=
  ((List.range 16).filter fun b => p.mask / 2 ^ b % 2 == 1).map fun b =>
    (b, s.logicalCore (if b < 8 then coreCluster core else coreDie core * 64 + p.cl2) (b % 8))

/-- The first check of R218 that a snapshot fails. -/
def planCheck (s : State) (core : CoreId) (sh : Tab Word) : Option Nat :=
  let p := readPlan sh
  -- a run is LEN bytes on both sides where SRCF is raw (R217)
  let q := { p with df := if p.sf = 0 then 0 else if p.df = 0 then p.sf else p.df }
  if !planField sh p then some 0x20
  else if !planRange q true || !planRange q false
      || (p.dsp && (s.logicalCore (coreCluster core) p.dlog).isNone) then some 0x21
  else if !planConvert p then some 0x22
  else if !planOp p then some 0x23
  else if p.mask != 0 && (!p.dsp || (maskCores s core p).any fun r => r.2.isNone) then some 0x24
  else none

/-- The cores a copy writes, each with its receiver bit; none for a virtual destination. -/
def receiversOf (s : State) (core : CoreId) (p : Plan) : List (CoreId × Option Nat) :=
  if !p.dsp then []
  else if p.mask = 0 then ((s.logicalCore (coreCluster core) p.dlog).map fun c => (c, none)).toList
  else (maskCores s core p).filterMap fun r => r.2.map fun c => (c, some r.1)

/-! ### Conversion (R50 to R57) -/

/-- The values of a plane record (R51). -/
def recordVals (pl : Nat) (b : List Byte) : List Val :=
  let e := field b 0 1
  (List.range 32).map fun l =>
    if e = 255 then .nan
    else
      let q : Int := ((List.range pl).map fun j =>
        if field b (1 + 4 * j) 4 / 2 ^ l % 2 = 1 then (if j = 0 then -(2 ^ (pl - 1) : Int) else 2 ^ (pl - 1 - j)) else 0).sum
      .num (q < 0) q.natAbs ((e : Int) - 127 - (pl - 1))

/-- A value rounded to an integer count of 2^q. -/
def roundInt (rnd : Rnd) (q : Int) : Val → Int
  | .num n m e => Val.signed n (roundQuanta rnd n m e q).1
  | _ => 0

/-- The bytes of a record from its scale and integers (R50). -/
def recordBytes (pl e : Nat) (qs : List Int) : List Byte :=
  BitVec.ofNat 8 e :: (List.range pl).flatMap fun j =>
    leBytes 4 ((List.range 32).map fun l => if (qs.getD l 0 % 2 ^ pl).toNat / 2 ^ (pl - 1 - j) % 2 = 1 then 2 ^ l else 0).sum

/-- Record formation (R52). DESIGN CHOICE: where step 3 gives e = 0xFF because saturation is off, every plane is zero, as in step 1
(log 23). -/
def formRecord (pl : Nat) (rnd : Rnd) (sat : Bool) (vs : List Val) : List Byte :=
  let lo : Int := -(2 ^ (pl - 1))
  let hi : Int := 2 ^ (pl - 1) - 1
  let at_ : Nat → List Int := fun e => vs.map (roundInt rnd ((e : Int) - 127 - (pl - 1)))
  let bad := vs.any fun
    | .num .. => false
    | _ => true
  if bad then recordBytes pl 255 []
  else match (List.range 255).find? fun e => (at_ e).all fun q => lo ≤ q && q ≤ hi with
    | some e => recordBytes pl e (at_ e)
    | none => if sat then recordBytes pl 254 ((at_ 254).map fun q => if q < lo then lo else if hi < q then hi else q)
              else recordBytes pl 255 []

/-- The values of a unit's bytes in a format. -/
def unitVals (f n : Nat) (b : List Byte) : List Val :=
  if isPlane f then recordVals (planeP f) b
  else (List.range n).map fun j =>
    let c := field b (j * fmtSize f) (fmtSize f)
    match fmtOf (fmtType f) with
    | some F => F.unpack false c
    | none => intVal (8 * fmtSize f) c

/-- The bytes of values in a format (R52, R56). -/
def valBytes (f : Nat) (rnd : Rnd) (sat : Bool) (vs : List Val) : List Byte :=
  if isPlane f then formRecord (planeP f) rnd sat vs
  else vs.flatMap fun v => leBytes (fmtSize f) (match fmtOf (fmtType f) with
    | some F => (F.pack rnd sat false v).1
    | none => (packInt (8 * fmtSize f) rnd sat v).1)

/-- A value after the intermediate step, which rounds to odd (R57). -/
def midVal (mf : Nat) (sat : Bool) (v : Val) : Val :=
  match fmtOf (fmtType mf) with
  | some F => if mf = 0 then v else F.unpack false (F.pack .rto sat false v).1
  | none => v

/-- A unit converted from the source format to the destination's, through MIDF where it is not 0 (R56, R57, R218). DESIGN CHOICE: a
plane record that goes to another plane format, or to its own through a MIDF, is formed again from its values under R52 (log 23). -/
def convUnit (p : Plan) (fmode : Word) (b : List Byte) : List Byte :=
  let rnd := fmodeRnd fmode
  let sat := fmodeSat fmode
  if p.sf = p.df ∧ p.mf = 0 then b
  else if isIntFmt p.sf && isIntFmt p.df && p.mf == 0 then
    leBytes (fmtSize p.df) (convertElem (fmtType p.sf) (fmtType p.df) rnd sat false (leNat b)).1
  else valBytes p.df rnd sat ((unitVals p.sf p.unitLen b).map (midVal p.mf sat))

/-- The new value of a destination element under a reduction (R220): the source's value is not rounded first. -/
def reduceElem (p : Plan) (fmode : Word) (old src : List Byte) : List Byte :=
  let rnd := fmodeRnd fmode
  let sat := fmodeSat fmode
  match fmtOf (fmtType p.df) with
  | some F =>
    let d := F.unpack false (leNat old)
    let x := (unitVals p.sf 1 src).headD .nan
    leBytes (fmtSize p.df) (if p.op = 1 then F.pack rnd sat false (Val.add rnd d x).1 else F.pack rnd false false (d.maxV x)).1
  | none =>
    let d := (BitVec.ofNat 32 (leNat old)).toInt
    let x := (BitVec.ofNat (8 * fmtSize p.sf) (leNat src)).toInt
    leBytes 4 (if p.op = 1 then wrapInt 32 sat (d + x) else wrapInt 32 false (if d < x then x else d))

end Sys2Proof.Machine
end

