-- ==== Sys2Proof/Machine/Copy.lean ====
section
/-!
DEFINITION. The copy engine: the shadow set (R217, R234), CELAUNCH (R218, R235), CEWAIT and CEPOLL (R236), the start of a queue's
head (R121, R122, R221), the moving of a copy's units (R219, R222, log 5) and reductions (R220).
-/
namespace Sys2Proof.Machine
open State

/-! ### The shadow set (R234) -/

/-- CEW (R234). -/
def execCew (ix : BitVec 4) (a : Fld) (s : State) : Out :=
  .next ((s.updHere (·.updEn fun e => { e with shadow := e.shadow.set (s.slot * 16 + ix.toNat) (s.me.rg a.toNat) })).advance 8)
/-- CER (R234). -/
def execCer (d : Fld) (ix : BitVec 4) (s : State) : Out :=
  .next ((s.updMe (·.wg d.toNat (s.here.shadowReg s.slot ix.toNat))).advance 8)

/-! ### Queue and ids (R121, R218, R236) -/

namespace CEntry
/-- The transfer id of a command. -/
def tid : CEntry → Nat
  | .copy c => c.tid
  | .coll c => c.tid
/-- The generation a command was stamped with (R297). -/
def gen : CEntry → BitVec 16
  | .copy c => c.gen
  | .coll c => c.gen
end CEntry

/-- Whether an id is that of an incomplete copy or collective of a core (R218). -/
def Core.incomplete (c : Core) (tid : Nat) : Bool := (c.en.copyQ ++ c.en.flight).any fun e => e.tid == tid

/-- The next transfer id (R218). -/
def Core.nextTid (c : Core) : Nat :=
  (((List.range 64).map fun j => (c.en.tidNext + j - 1) % 65535 + 1).find? fun t => !c.incomplete t).getD c.en.tidNext

/-- Take the next transfer id. -/
def Core.takeTid (c : Core) : Nat × Core :=
  let t := c.nextTid
  (t, c.updEn fun e => { e with tidNext := t % 65535 + 1 })

/-- A copy of a core's flight by its id. -/
def Core.copyOf (c : Core) (tid : Nat) : Option Copy :=
  c.en.flight.findSome? fun
    | .copy m => if m.tid = tid then some m else none
    | .coll _ => none

/-- Replace a copy of a core's flight. -/
def Core.setCopy (c : Core) (m : Copy) : Core :=
  c.updEn fun e => { e with flight := e.flight.map fun x => if x.tid = m.tid then .copy m else x }

/-- The snapshot of a context's shadow set (R218). -/
def shadowOf (c : Core) (k : Nat) : Tab Word :=
  (List.range 11).foldl (fun t ix => t.set ix (c.shadowReg k ix)) ({} : Tab Word)

/-- Trap COPY with a status (R218). -/
def copyTrap (st : Nat) : Stop := .trap .copy (BitVec.ofNat 64 (st * 65536))

/-- The slots that a copy's arrival falls on, recorded at CELAUNCH: the handle of each receiver, or of the launcher (R218). -/
def copyTargets (s : State) (core : CoreId) (p : Plan) : Except Stop (List Target) :=
  if !p.he then .ok []
  else
    let rs := if p.dsp then receiversOf s core p else [(core, none)]
    rs.mapM fun r => do
      let x ← needHandle (s.core r.1) p.h
      if x.n ≤ p.hd then .error (handleTrap 5 p.h)
      else .ok { core := r.1, h := p.h, slot := (x.pp + p.hd) % x.n, bit := r.2 }

/-- The free-slot counters that a snapshot with INIT sets (R221). -/
def initCredits (p : Plan) (t : Tab Nat) : Tab Nat :=
  if p.init then (List.range 16).foldl (fun t b => if p.mask / 2 ^ b % 2 = 1 then t.set b p.credit else t) t else t

/-- Whether a copy leaves the core of its launcher. -/
def goesOut (core : CoreId) (p : Plan) (rs : List (CoreId × Option Nat)) : Bool := !p.dsp || rs.any fun r => r.1 != core

/-- A twin's outgoing item takes its sequence number (R227). -/
def Core.takesTwinSeq (c : Core) (out : Bool) : Core :=
  if out && c.run.any (·.twin) then c.updLi fun l => { l with twinNext := l.twinNext + 1 } else c

/-- Whether a copy's destination handle lies in the launcher's own core (R218, R382). -/
def ownHandle (s : State) (core : CoreId) (p : Plan) : Bool :=
  p.he && (!p.dsp || (receiversOf s core p).any (·.1 == core))

/-- Whether a copy writes its launcher's own scratchpad. -/
def ownWrites (s : State) (core : CoreId) (p : Plan) : Bool := p.dsp && (receiversOf s core p).any (·.1 == core)

/-- The status that a copy has from its launch: SEALED where it names a killed or sealed core as a destination (R219, R226). -/
def launchStatus (s : State) (rs : List (CoreId × Option Nat)) : Option (BitVec 16) :=
  if rs.any fun r => (s.core r.1).li.killed || (s.core r.1).li.isSealed then some 0x18#16 else none

/-- CELAUNCH (R218, R235); a reduction abandons a taste run (R302). It names its destination handle (R382); the copy's source range is
held from now, or where it has a guard from its passing (R124, R171), its own destination against the launcher's stores (R74). -/
def execCelaunch (d : Fld) (s : State) : Out :=
  let sh := shadowOf s.here s.slot
  let p := readPlan sh
  let named : State → State := fun t => if ownHandle s s.cur p then s.orHandleTrap p.h t else t
  .next (if s.inTaste && (p.op == 1 || p.op == 2) then s.stop .void
    else if 16 ≤ s.here.en.copyQ.length then s.stop .hold
    else named <| match planCheck s s.cur sh with
      | some st => s.stop (copyTrap st)
      | none => s.finish 8 do
        let ts ← copyTargets s s.cur p
        let (tid, c) := s.here.takeTid
        let src : List SrcRange := if p.ssp then [⟨.copy s.cur tid, p.ranges true⟩] else []
        let m : Copy := { tid := tid, owner := s.slot, slot := s.slot, sh := sh, fmode := s.me.fmode, row := c.sp.seenRow s.slot,
                          targets := ts, rcv := receiversOf s s.cur p, gen := s.mod.gen, run := c.run,
                          lock := if p.ge then src.head? else none, twinSeq := c.li.twinNext,
                          status := launchStatus s (receiversOf s s.cur p) }
        let c := c.updSp fun sp => { sp with
          srcs := sp.srcs ++ (if p.ge then [] else src)
          dsts := sp.dsts ++ if ownWrites s s.cur p then [⟨.copy s.cur tid, s.slot, p.ranges false⟩] else [] }
        let c := c.updEn fun e => { e with copyQ := e.copyQ ++ [.copy m], mcredit := initCredits p e.mcredit }
        let c := c.takesTwinSeq (goesOut s.cur p (receiversOf s s.cur p))
        .ok (c.decideHeads.wg s.slot d.toNat (BitVec.ofNat 64 tid)))

/-- A remembered end status, which the context observes; or that of no known id (R236). -/
def recallEnd (s : State) (d : Fld) (tid : Nat) : State :=
  match s.here.en.remembered.find? fun r => r.tid == tid with
  | some r => ((s.updHere (·.acquire s.slot r.obs)).updMe (·.wg d.toNat (r.status.setWidth 64))).advance 8
  | none => (s.updMe (·.wg d.toNat 0x20000#64)).advance 8

/-- CEWAIT (R236): it holds its context until the copy is complete. -/
def execCewait (d a : Fld) (s : State) : Out :=
  let tid := (s.me.rg a.toNat).toNat % 65536
  .next (s.orDeferred (fun k => k.isCopy tid)
    (if s.here.incomplete tid then s.updMe fun x => { x with held := some (.cewait d a), heldOn := none }
     else recallEnd s d tid))

/-- CEPOLL (R236). -/
def execCepoll (d a : Fld) (s : State) : Out :=
  let tid := (s.me.rg a.toNat).toNat % 65536
  .next (s.orDeferred (fun k => k.isCopy tid)
    (if s.here.incomplete tid then (s.updMe (·.wg d.toNat 0x10000#64)).advance 8 else recallEnd s d tid))

/-! ### The end of a copy (R125, R127, R219, R236, R382) -/

/-- Keep an end status among the 16 latest (R236). -/
def Core.remember (c : Core) (r : Remember) : Core :=
  c.updEn fun e => { e with remembered := (r :: e.remembered.filter fun q => q.tid != r.tid).take 16 }

/-- The handle and slot that a copy's record names. -/
def Copy.handle (m : Copy) : Option (Nat × Nat) := m.targets.head?.map fun t => (t.h, t.slot)

/-- The deferred trap of a copy that ended with race or handle overflow (R382). -/
def copyDefer (core : CoreId) (m : Copy) (st : Nat) (detail : Nat) : Option Defer :=
  let own := (m.targets.find? fun t => t.core == core).map (·.h)
  let h := (m.targets.head?.map (·.h)).getD 0
  if st = 2 then some ⟨.copy m.tid own, m.owner, .mmx, BitVec.ofNat 64 detail⟩
  else if st = 3 then some ⟨.copy m.tid own, m.owner, .handle, handleEval 4 h⟩
  else none

/-- A copy ends at its launcher: its pins go, its id is complete, its status remembered, its record posted, its trap deferred. -/
def closeCopy (s : State) (core : CoreId) (m : Copy) (st detail : Nat) : State :=
  (s.unpinCopy core m).updCore core fun c =>
    let c := c.updEn fun e => { e with flight := e.flight.filter fun x => x.tid != m.tid }
    let df := copyDefer core m st detail
    let c := c.remember { tid := m.tid, status := BitVec.ofNat 16 st, obs := Row.obs c.sp.compl, gen := 0#16 }
    let c := c.post { w0 := Core.recWord 1 m.slot m.tid st m.handle, w1 := BitVec.ofNat 64 detail, key := df.map (·.key),
                      obs := Row.obs c.sp.compl }
    match df with
    | some q => c.addDefer q
    | none => c

/-- The cores whose DMA port a copy ends at: its launcher and its receivers. -/
def portCores (core : CoreId) (rs : List (CoreId × Option Nat)) : List CoreId := (core :: rs.map (·.1)).eraseDups

/-- The DMA ports complete: what they have taken is stamped (R125). -/
def completePorts (s : State) (id : EngineId) (cores : List CoreId) : State :=
  cores.foldl (fun t i => t.updCore i fun c => c.updSp (·.complete id)) s

/-- The arrivals of a copy on its slots; none where one overflows (R118, R120). -/
def arriveAll (s : State) (core : CoreId) (ts : List Target) (n : Nat) : Option State :=
  ts.foldlM (fun t x =>
    let c := t.core x.core
    (c.arrive x.h x.slot n (Row.obs c.sp.compl) (x.bit.map fun b => (core, b))).map (t.setCore x.core)) s

/-! ### Moving units -/

/-- How a copy's accesses by virtual address run (R291). -/
def copyAccess (core : CoreId) (m : Copy) : Access :=
  { core := core, rope := false, l1 := true, part := m.run.elim 0 (·.part) }

/-- A copy as a party that reads and writes memory: what its context had acquired, and the mark of its id (R125, R225, R298). -/
def copyParty (s : State) (core : CoreId) (m : Copy) : Party :=
  { core := core, row := m.row, no := pendMark m.tid, launch := m.run.map (·.launch), free := s.free }

/-- What the moving of units has come to: the state; the party that reads, none for one that reads what stands now; whether a sector without an
answer is read again, as a reduction's apply phase does; the statuses met, the first miss and the first sector that gave no answer; the bytes
of the peer still to be consumed, whether a page of a peer was met and whether its bytes ran out; the places written so far, each with the
core that holds it, those of them that carry poison, and the bytes for virtual places that wait to be written, newest first; what has been
read of units' sources, and the bytes that went. -/
structure Moved where
  s : State
  who : Option Party := none
  patient : Bool := false
  errs : List Nat := []
  miss : Option XReq := none
  mute : Option Nat := none
  data : List Byte := []
  far : Bool := false
  lack : Bool := false
  seen : List (CoreId × Nat × Nat) := []
  spoilt : List (CoreId × Nat × Nat) := []
  buf : List (Nat × List Byte × Bool) := []
  got : List (Nat × List Byte × Bool) := []
  out : List Byte := []

/-- Note an error of an access, which has left the state `t` (R219, R288). -/
def Moved.fail (v : Moved) (e : AccErr) (t : State) : Moved :=
  match e with
  | .miss r => { v with miss := v.miss.or (some r) }
  | .mute q => { v with mute := v.mute.or (some q) }
  | .remote _ => { v with far := true }
  | e => { v with s := t, errs := v.errs ++ [e.status] }

/-- Whether anything but poison has been met that keeps an attempt from its end: a status, a miss, a sector without an answer, a page of a
peer. -/
def Moved.clean (v : Moved) : Bool := v.errs.all (· == 4) && v.miss.isNone && v.mute.isNone && !v.far

/-- The byte that waits to be written at a virtual address, the newest of several. -/
def Moved.waiting (v : Moved) (va : Nat) : Option Byte :=
  v.buf.findSome? fun x => if x.1 ≤ va ∧ va < x.1 + x.2.1.length then x.2.1[va - x.1]? else none

/-- Read bytes by virtual address; a page of a peer gives the next bytes that the peer delivered, one that no path leads to is unreachable
(R365 to R367). -/
def Moved.readVa (v : Moved) (a : Access) (va n : Nat) : List Byte × Bool × Moved :=
  let a := { a with replays := !v.patient }
  match v.who.elim (v.s.readVirt a va n) fun w => v.s.readAs w a va n with
  | .ok (b, p, t) => (if v.buf.isEmpty then b else b.zipIdx.map fun x => (v.waiting (va + x.2)).getD x.1, p, { v with s := t })
  | .error (.remote e) => if v.s.lost e then (List.replicate n 0#8, false, { v with errs := v.errs ++ [0x12] }) else
    ((v.data.take n ++ List.replicate (n - v.data.length) 0#8), false,
    { v with data := v.data.drop n, far := true, lack := v.lack || v.data.length < n })
  | .error e => (List.replicate n 0#8, false, v.fail e (v.s.refusedRead a va n e))

/-- The byte that a taste run's retained inputs hold at an address (R302). -/
def retained (t : Taste) (va : Nat) : Option Byte :=
  t.tiles.findSome? fun x => if x.1 ≤ va ∧ va < x.1 + x.2.length then x.2[va - x.1]? else none

/-- The taste that a copy of a taste or third run belongs to. -/
def tasteOf (s : State) (core : CoreId) (m : Copy) : Option Taste :=
  (m.run.filter fun r => r.kind != .original).map fun r => ((s.partOf (coreDie core) r.launch).tastes.get? r.node).getD {}

/-- Read a virtual range of a copy: in a taste run, the bytes of retained tiles come from them (R302). -/
def Moved.readVirtOf (v : Moved) (core : CoreId) (m : Copy) (va n : Nat) : List Byte × Bool × Moved :=
  let a := copyAccess core m
  match tasteOf v.s core m with
  | none => v.readVa a va n
  | some t => (List.range n).foldl (fun (r : List Byte × Bool × Moved) j =>
      match retained t (va + j) with
      | some b => (r.1 ++ [b], r.2)
      | none => let q := r.2.2.readVa a (va + j) 1
                (r.1 ++ q.1, r.2.1 || q.2.1, q.2.2)) ([], false, v)

/-- A record's bytes as a page of plane-truncation holds them: the scale and the first KEEP planes, the rest zero planes (R223). -/
def truncRecord (s : State) (a : Access) (f va : Nat) (b : List Byte) : List Byte :=
  if !isPlane f then b
  else match s.physOf a va false with
    | .ok ((pa, 3), t) =>
      let n := 1 + 4 * Nat.min (t.mod.mem.keepOf (pa / 4096 * 4096)) (planeP f)
      b.take n ++ List.replicate (b.length - n) 0#8
    | _ => b

/-- Read a unit's bytes on a side, which holds them in format `f`. -/
def Moved.readUnit (v : Moved) (core : CoreId) (m : Copy) (sp : Bool) (f : Nat) (at_ : List (Nat × Nat)) (from_ : State) :
    List Byte × Bool × Moved :=
  at_.foldl (fun (r : List Byte × Bool × Moved) x =>
    if sp then
      let c := from_.core core
      (r.1 ++ c.sp.mem.readBytes x.1 x.2, r.2.1 || (c.sp.poisonIn x.1 x.2).isSome, r.2.2)
    else
      let q := ({ r.2.2 with s := r.2.2.s } : Moved).readVirtOf core m x.1 x.2
      (r.1 ++ truncRecord q.2.2.s (copyAccess core m) f x.1 q.1, r.2.1 || q.2.1, q.2.2)) ([], false, v)

/-- Mark the words of `n` bytes at a scratchpad offset as poisoned (R130). -/
def Spad.spoil (sp : Spad) (a n : Nat) : Spad :=
  { sp with poison := ((List.range ((a % 8 + n + 7) / 8)).map (· + a / 8)).foldl (fun l w => if l.contains w then l else l ++ [w]) sp.poison }

/-- Mark the sectors that hold the bytes of a virtual range as poisoned (R130, R289). -/
def poisonVirt (s : State) (a : Access) (va n : Nat) : State :=
  match s.allPieces a va n true with
  | .ok (ps, t) => t.updMem fun mem =>
      { mem with poison := (ps.flatMap mem.dataSectors).foldl (fun l q => if l.contains q then l else l ++ [q]) mem.poison }
  | .error _ => s

/-- Whether a copy may write the launch window of a peer: 128 raw bytes in one run at its offset 0 (R370). -/
def windowOk (p : Plan) (e : TlbE) : Bool :=
  e.f1 0 25 != 0x1FFFFFF || (p.sf == 0 && p.mask == 0 && p.runs == 1 && p.len == 128 && p.dst % 65536 == 0)

/-- The bytes that wait to be written, gathered into runs of consecutive addresses of one page: the address, the bytes, and those that
carry poison. -/
def runsOf : List (Nat × Byte × Bool) → List (Nat × List (Byte × Bool))
  | [] => []
  | c :: cs =>
    match runsOf cs with
    | (a, bs) :: rest => if c.1 + 1 = a ∧ a % 65536 ≠ 0 then (c.1, c.2 :: bs) :: rest else (c.1, [c.2]) :: (a, bs) :: rest
    | [] => [(c.1, [c.2])]

/-- Runs in groups: a unit that lies on both sides of a page's end joins the two runs that hold it, for it is written whole or not at all
(R50, R219). -/
def groupsOf (buf : List (Nat × List Byte × Bool)) : List (Nat × List (Byte × Bool)) → List (List (Nat × List (Byte × Bool)))
  | [] => []
  | r :: rs => match groupsOf buf rs with
    | (x :: g) :: gs =>
      let e := r.1 + r.2.length
      if x.1 = e ∧ buf.any (fun u => u.1 < e && e < u.1 + u.2.1.length) then (r :: x :: g) :: gs else [r] :: (x :: g) :: gs
    | gs => [r] :: gs

/-- Write a run of bytes by virtual address for a copy: a page of a peer takes them over the fabric (R367); the hand-out of a launch
acquires what the sender had (R378). -/
def Moved.writeRun (v : Moved) (w : Party) (p : Plan) (a : Access) (run : Nat × List (Byte × Bool)) : Moved :=
  let bs := run.2.map (·.1)
  let a := { a with replays := !v.patient }
  match v.s.writeAs w a run.1 bs with
  | .ok (stays, t) =>
    let t := run.2.zipIdx.foldl (fun t x => if x.1.2 then poisonVirt t a (run.1 + x.2) 1 else t) t
    { v with s := t, errs := if stays then v.errs ++ [4] else v.errs }
  | .error (.remote e) =>
    if v.s.lost e then { v with errs := v.errs ++ [0x12] }
    else if windowOk p e then
      let t := v.s.sendFabric ⟨e.moda, a.part, e.phys run.1, .write, bs, 0#20, 0#16⟩
      { v with far := true, s := if e.f1 0 25 != 0x1FFFFFF then t
          else t.handOver { core := w.core, row := w.row, part := a.part, peers := [e.moda], launch := w.launch } }
    else { v with errs := v.errs ++ [0x11] }
  | .error e => v.fail e (v.s.refusedWrite a run.1 bs.length e)

/-- Whether a run cannot be written. -/
def Moved.refuses (v : Moved) (w : Party) (p : Plan) (a : Access) (run : Nat × List (Byte × Bool)) : Bool :=
  match v.s.writeAs w { a with replays := !v.patient } run.1 (run.2.map (·.1)) with
  | .ok _ => false
  | .error (.remote e) => v.s.lost e || !windowOk p e
  | .error _ => true

/-- Write a group of runs: where one of them cannot be written none is, and what that one meets is noted (R50, R219). -/
def Moved.writeGroup (v : Moved) (w : Party) (p : Plan) (a : Access) (g : List (Nat × List (Byte × Bool))) : Moved :=
  (if g.any (v.refuses w p a) then g.filter (v.refuses w p a) else g).foldl (fun v run => v.writeRun w p a run) v

/-- The places of a core in a list of places. -/
def placesAt (l : List (CoreId × Nat × Nat)) (t : CoreId) : List (Nat × Nat) := (l.filter fun x => x.1 == t).map (·.2)

/-- What has been moved is written: the virtual places in runs, so that a sector that the copy overwrites whole is written whole (R289); of
the scratchpad's words, those that it has overwritten whole with sound bytes lose their poison (R130). -/
def Moved.flush (v : Moved) (w : Party) (p : Plan) (a : Access) : Moved :=
  let cells := v.buf.reverse.foldl (fun l x => x.2.1.zipIdx.foldl (fun l b => putList (x.1 + b.2) (b.1, x.2.2) l) l)
    ([] : List (Nat × Byte × Bool))
  let whole : CoreId → Nat → Bool := fun t q => (List.range 8).all fun j => (placesAt v.seen t).any fun r => r.1 ≤ 8 * q + j && 8 * q + j < r.1 + r.2
  let sound : CoreId → Nat → Bool := fun t q => !((placesAt v.spoilt t).any fun r => r.1 < 8 * q + 8 && 8 * q < r.1 + r.2)
  let s := if p.dsp then ((v.seen.map (·.1)).eraseDups).foldl (fun u t => u.updCore t fun c => c.updSp fun sp =>
    { sp with poison := sp.poison.filter fun q => !(whole t q && sound t q) }) v.s else v.s
  (groupsOf v.buf (runsOf cells)).foldl (fun v g => v.writeGroup w p a g) { v with s := s, buf := [] }

/-- Whether an address lies in an output tile of a node (R255, R302). -/
def inOutput (n : Node) (va : Nat) : Bool := n.tiles.any fun t => t.2.2 && t.1 ≤ va && va < t.1 + t.2.1

/-- Write the bytes that fall into output tiles to the scratch copies of a taste run, or of a third run, with the poison that they carry
(R130, R302). -/
def Taste.putScratch (t : Taste) (kind : RunKind) (n : Node) (va : Nat) (bs : List Byte) (bad : Bool) : Taste :=
  let mine := bs.zipIdx.filterMap fun b => if inOutput n (va + b.2) then some (va + b.2, b.1) else none
  let put : Tab Byte → Tab Byte := fun x => mine.foldl (fun x b => x.set b.1 b.2) x
  let mark : List Nat → List Nat := fun l => (l.filter fun a => !(mine.any fun b => b.1 == a)) ++ if bad then mine.map (·.1) else []
  if kind == .taste then { t with scratch := put t.scratch, bad := mark t.bad } else { t with scratch3 := put t.scratch3, bad3 := mark t.bad3 }

/-- Write a virtual range of a copy, which waits for the end of the move: a taste run or third run writes its own scratch copies of output tiles and discards the rest (R302). -/
def Moved.writeVirtOf (v : Moved) (core : CoreId) (m : Copy) (va : Nat) (bs : List Byte) (bad : Bool) : Moved :=
  match m.run.filter fun r => r.kind != .original with
  | none => { v with buf := (va, bs, bad) :: v.buf }
  | some r =>
    let d := coreDie core
    let n := v.s.node d r.launch r.node
    { v with s := v.s.updPart d r.launch fun q =>
        match q.tastes.get? r.node with
        | none => q
        | some t => { q with tastes := q.tastes.set r.node (t.putScratch r.kind n va bs bad) } }

/-- The cores that hold a copy's destination: its receivers, or for memory its launcher, which stands for it. -/
def targetsOf (p : Plan) (core : CoreId) (rs : List (CoreId × Option Nat)) : List CoreId := if p.dsp then (rs.map (·.1)).eraseDups else [core]

/-- Write a unit's bytes at the places of the destination side, at the targets `ts`. -/
def Moved.writeUnit (v : Moved) (p : Plan) (core : CoreId) (m : Copy) (ts : List CoreId) (at_ : List (Nat × Nat))
    (bs : List Byte) (bad : Bool) : Moved :=
  let r := at_.foldl (fun (r : Moved × List Byte) x =>
    let b := r.2.take x.2
    let v := r.1
    let v := if p.dsp then
        { v with s := ts.foldl (fun t i => t.updCore i fun c => c.updSp fun sp =>
                      let sp := sp.store x.1 b
                      if bad then sp.spoil x.1 x.2 else sp) v.s }
      else if ts.isEmpty then v else v.writeVirtOf core m x.1 (truncRecord v.s (copyAccess core m) p.df x.1 b) bad
    (v, r.2.drop x.2)) (v, bs)
  let places := ts.flatMap fun t => at_.map fun x => (t, x)
  { r.1 with seen := r.1.seen ++ places, spoilt := if bad then r.1.spoilt ++ places else r.1.spoilt }

/-- Whether two lists of ranges share a byte. -/
def rangesMeet (a b : List (Nat × Nat)) : Bool := a.any fun x => b.any fun y => x.1 < y.1 + y.2 && y.1 < x.1 + x.2

/-- Whether every byte of the ranges `b` lies in a range of `a`. -/
def rangesCover (a b : List (Nat × Nat)) : Bool := b.all fun y => (List.range y.2).all fun j => a.any fun x => x.1 ≤ y.1 + j && y.1 + j < x.1 + x.2

/-- The places of what has landed of a copy. -/
def landedPlaces (p : Plan) (l : List (Nat × CoreId)) : List (CoreId × Nat × Nat) := l.flatMap fun x => (p.spot x.1).map fun y => (x.2, y)

/-- Read the source of unit k in a move that began in the state `base`: what has been read of it before; or, where it shares bytes with what the
copy has rewritten, as it stood before the copy or as the copy has rewritten all of it, by the free bit numbered `bit` (R218); or as it stands. -/
def Moved.readSource (base : State) (p : Plan) (core : CoreId) (m : Copy) (v : Moved) (k bit : Nat) : List Byte × Bool × Moved :=
  match m.read.find? fun x => x.1 == k with
  | some x => (x.2.1, x.2.2, v)
  | none =>
    let src := p.place true (k / p.units) (k % p.units)
    let redone := if p.ssp == p.dsp then placesAt (landedPlaces p (m.earlier ++ m.landed) ++ v.seen) core else []
    if !rangesMeet src redone || (rangesCover redone src && Config.freeBit bit) then v.readUnit core m p.ssp p.sf src v.s
    else match m.orig[k]? with
      | some x => (x.1, x.2, v)
      | none => let r := ({ v with buf := [] } : Moved).readUnit core m p.ssp p.sf src base
                (r.1, r.2.1, { r.2.2 with buf := v.buf })

/-- Move unit `k`, to the targets that `sel` names and that it has not landed at. Where a target's place shares bytes with what the copy has
written there, a free bit says which value stays (R218). A unit whose source could not be read keeps its old value (R219). -/
def moveUnit (base : State) (p : Plan) (core : CoreId) (m : Copy) (sel : Nat → CoreId → Bool) (v : Moved) (k : Nat) : Moved :=
  let ts := targetsOf p core m.rcv
  let bit := base.free + k * (ts.length + 1)
  let before := landedPlaces p m.landed ++ v.seen
  let (b, bad, w) := v.readSource base p core m k bit
  let failed := w.errs.length != v.errs.length || w.miss != v.miss || w.mute != v.mute || (w.lack && !v.lack)
  let to_ := ts.zipIdx.filter fun t => sel k t.1 && !m.landed.contains (k, t.1)
    && !(rangesMeet (p.spot k) (placesAt before t.1) && Config.freeBit (bit + 1 + t.2))
  let bs := convUnit p m.fmode b
  let w := { w with got := w.got ++ [(k, b, bad)], out := w.out ++ bs, errs := if bad then w.errs ++ [4] else w.errs }
  if failed then w else w.writeUnit p core m (to_.map (·.1)) (p.spot k) bs bad

/-- Move number `k` of what a copy writes: a unit, or zero bytes that pad a plane tile (R53). -/
def moveSpot (base : State) (p : Plan) (core : CoreId) (m : Copy) (sel : Nat → CoreId → Bool) (v : Moved) (k : Nat) : Moved :=
  if k < p.total then moveUnit base p core m sel v k
  else v.writeUnit p core m ((targetsOf p core m.rcv).filter fun t => sel k t && !m.landed.contains (k, t)) (p.spot k)
    (List.replicate ((p.spot k).map (·.2)).sum 0#8) false

/-- Move the numbers `ks` to the targets that `sel` names; what is for memory is written at the end. -/
def moveSome (s : State) (p : Plan) (core : CoreId) (m : Copy) (data : List Byte) (ks : List Nat) (sel : Nat → CoreId → Bool) : Moved :=
  let w := copyParty s core m
  let v := (ks.foldl (moveSpot s p core m sel) { s := s, who := some w, data := data }).flush w p (copyAccess core m)
  { v with s := { v.s with free := s.free + p.total * ((targetsOf p core m.rcv).length + 1) } }

/-- Move all that a copy has still to write. -/
def moveAll (s : State) (p : Plan) (core : CoreId) (m : Copy) (data : List Byte) : Moved :=
  moveSome s p core m data (List.range p.spots) fun _ _ => true

/-- What the reads of an attempt have met, which stands whatever becomes of it (R288). -/
def copyMet (s : State) (p : Plan) (core : CoreId) (m : Copy) (data : List Byte) : State :=
  s.metErrors (moveSome s p core m data (List.range p.total) fun _ _ => false).s

/-- Whether a status lets the copy's data stand whole: done or poison (R130). -/
def wholeStatus (st : Nat) : Bool := st == 0 || st == 4

/-- The least status of a list, 0 for none (R219). -/
def leastStatus (l : List Nat) : Nat := (l.filter (· != 0)).foldl (fun a b => if a = 0 then b else Nat.min a b) 0

/-- The move of a copy that ends with a status (R219): all of it where the status is done or poison; else each unit that has not landed is old or
new at each target, by a free bit. -/
def lastMove (s : State) (p : Plan) (core : CoreId) (m : Copy) (data : List Byte) (st : Nat) : State :=
  let ts := targetsOf p core m.rcv
  let free := s.free + p.total * (ts.length + 1)
  let held : Nat → CoreId → Bool := fun k t => !p.dsp || (granulesOf (p.spot k)).all fun q =>
    ((s.core t).sp.granule q).pend == some (.copy core m.tid)
  if p.op ≠ 0 then s
  else if wholeStatus st then (moveAll s p core m data).s
  else
    let v := moveSome s p core m data (List.range p.total) fun k t => held k t && Config.freeBit (free + k * ts.length + ts.idxOf t)
    { v.s with free := free + p.total * ts.length }

/-- A copy ends with a status (R219): its last move, its ports complete, it arrives where it ended done, and it closes. -/
def endCopy (s : State) (p : Plan) (core : CoreId) (m : Copy) (data : List Byte) (st detail : Nat) : State :=
  let t := completePorts ((lastMove s p core m data st).stampWrites core m.tid) (.copy core m.tid) (portCores core m.rcv)
  let t := if st = 0 then (arriveAll t core m.targets p.delivered).getD t else t
  closeCopy t core m st (if wholeStatus st then p.delivered else if st = 2 then detail else 0)

/-! ### The start of a queue's head (R121, R122, R221) -/

/-- The copies and collectives of a cluster's copy engine, whose sixteen channels they fill (R121). -/
def engineLoad (s : State) (q : Nat) : Nat := ((List.range 10).map fun p => (s.core (coreOf q p)).en.flight.length).sum

/-- The conflict that the DMA port meets when a copy starts: its source first, then each receiver (R125, R222). -/
def startConflict (s : State) (core : CoreId) (m : Copy) (p : Plan) (rs : List (CoreId × Option Nat)) : Option Nat :=
  let id := EngineId.copy core m.tid
  let c := s.core core
  ((granulesOf (p.ranges true)).find? (c.sp.dmaReadConflict id m.slot m.row)).or
    (rs.findSome? fun r =>
      let sp := (s.core r.1).sp
      (granulesOf (p.ranges false)).find? fun q =>
        if r.1 = core then sp.dmaWriteConflict id m.slot m.row q else sp.dmaForeignConflict id q)

/-- The DMA ports take the destination's granules, W, RT and PEND in one, but where another's hold or a conflict stands (R124, R125). -/
def takeGranules (s : State) (core : CoreId) (m : Copy) (p : Plan) (rs : List (CoreId × Option Nat)) : State :=
  let id := EngineId.copy core m.tid
  rs.foldl (fun t r => t.updCore r.1 fun c => c.updSp fun sp =>
    (granulesOf (p.ranges false)).foldl (fun u q =>
      let bad := if r.1 = core then u.dmaWriteConflict id m.slot m.row q else u.dmaForeignConflict id q
      if bad then u else u.dmaStamp id q) sp) s

/-- Whether a multicast waits for a free-slot counter (R221). -/
def lacksCredit (c : Core) (p : Plan) : Bool :=
  (List.range 16).any fun b => p.mask / 2 ^ b % 2 == 1 && c.en.mcredit.get b 0 == 0

/-- A multicast takes one unit of each counter of its mask (R221). -/
def takeCredit (c : Core) (p : Plan) : Core :=
  c.updEn fun e => { e with mcredit := (List.range 16).foldl (fun t b =>
    if p.mask / 2 ^ b % 2 = 1 then t.set b (t.get b 0 - 1) else t) e.mcredit }

/-- The head of a copy queue is discarded by its guard: a record of kind 0x05 and a remembered status 1 (R122, R127, R236). -/
def discardHead (s : State) (core : CoreId) (tid slot : Nat) (h : Option (Nat × Nat)) : State :=
  s.updCore core fun c =>
    let c := c.updEn fun e => { e with copyQ := e.copyQ.drop 1 }
    let c := c.updSp (·.dropPend (.copy core tid))
    let c := c.remember { tid := tid, status := 1#16, gen := 0#16 }
    c.post { w0 := Core.recWord 5 slot tid 1 h, w1 := 0#64 }

/-- The entries of the pages that a copy's virtual sides name, as far as its die's TLB holds them. -/
def copyEntries (s : State) (core : CoreId) (m : Copy) : List (Nat × Nat × TlbE) :=
  let p := readPlan m.sh
  let part := m.run.elim 0 (·.part)
  (List.range p.total).flatMap fun k =>
    let side : Bool → List (Nat × Nat × TlbE) := fun source =>
      if (if source then p.ssp else p.dsp) then []
      else (p.place source (k / p.units) (k % p.units)).filterMap fun x =>
        (s.findEntry (coreDie core) part x.1).map fun e => (x.1, x.2, e.2)
    side true ++ side false

/-- The peers whose pages a copy has translated, or that its entries name now (R367, R369). -/
def copyPeers (s : State) (core : CoreId) (m : Copy) : List Nat :=
  (m.peers ++ ((copyEntries s core m).filter fun e => e.2.2.remote).map fun e => e.2.2.moda).eraseDups

/-- Whether a copy's virtual sides meet a page of a peer that `who` names (R367, R369). -/
def meetsPeer (s : State) (core : CoreId) (m : Copy) (who : Nat → Bool) : Bool := (copyPeers s core m).any who

/-- A copy leaves the queue for the copy engine. -/
def launchCopy (s : State) (core : CoreId) (m : Copy) (p : Plan) : State :=
  let rs := m.rcv
  let m := { m with started := true, peers := copyPeers s core m }
  let m := match startConflict s core m p rs with
    | some q => { m with status := some 2#16, detail := q * 64 }
    | none => m
  let s := takeGranules s core m p rs
  s.updCore core fun c =>
    ((takeCredit c p).updSp fun sp => { sp with dsts := sp.dsts.filter fun d => d.id != .copy core m.tid }).updEn fun e =>
      { e with copyQ := e.copyQ.drop 1, flight := e.flight ++ [.copy m] }

/-- Whether a taste run's copy into another core's scratchpad is discarded (R302). -/
def tasteDiscards (core : CoreId) (m : Copy) (p : Plan) : Bool :=
  (m.run.any fun r => r.kind != .original) && p.dsp && m.rcv.any fun r => r.1 != core

/-- The copy at the head of a queue, by what its guard decided (R122, R171, R221, R302). -/
def startCopy (s : State) (core : CoreId) (m : Copy) : State :=
  let p := readPlan m.sh
  let c := s.core core
  match m.fate with
  | none => s
  | some false => discardHead s core m.tid m.slot m.handle
  | some true =>
    if tasteDiscards core m p then
      let t := s.updCore core fun c => c.updEn fun e => { e with copyQ := e.copyQ.drop 1 }
      let t := completePorts t (.copy core m.tid) [core]
      closeCopy t core m 0 p.delivered
    else if lacksCredit c p ∨ 16 ≤ engineLoad s (coreCluster core) then s
    else launchCopy s core m p

/-! ### COPY_END and COPY_REPLAY (R219) -/

/-- Statuses that a copy's end finds without moving data: its own, a reduction's poison, a stale generation, a sealed or killed
receiver (R219). -/
def copyFates (s : State) (m : Copy) (p : Plan) (rs : List (CoreId × Option Nat)) : List Nat :=
  (m.status.map (·.toNat)).toList
  ++ (if p.op != 0 && m.status.isNone && m.detail == 1 then [4] else [])
  ++ (if genOk s m.gen then [] else [0x16])
  ++ (if rs.any fun r => (s.core r.1).li.killed || (s.core r.1).li.isSealed then [0x18] else [])

/-- The status a copy ends with, from those that apply: handle overflow where none does and its arrival overflows (R120, R219). -/
def finalStatus (s : State) (m : Copy) (p : Plan) (l : List Nat) : Nat :=
  let st := leastStatus l
  if st = 0 ∧ (arriveAll s 0 m.targets p.delivered).isNone then 3 else st

/-- The digest by which a twin's copy is compared: that of the bytes its read phase would write (R227). -/
def bytesDigest (bs : List Byte) : Nat := 256 ^ bs.length + leNat bs

/-- A twin's outgoing copy waits for its pair (R227). -/
def offerTwin (s : State) (core : CoreId) (m : Copy) (out : List Byte) : State :=
  s.updCore core fun c => c.updLi fun l =>
    if l.twinOut.any (fun | .copy _ t _ => t == m.tid | _ => false) then l
    else { l with twinOut := l.twinOut ++ [.copy m.twinSeq m.tid (bytesDigest out)] }

/-- Whether a copy waits for its twin's: one that leaves its core, of a node that runs as twins, before they have been compared (R227). -/
def awaitsTwin (core : CoreId) (m : Copy) (p : Plan) (rs : List (CoreId × Option Nat)) : Bool :=
  goesOut core p rs && m.run.any (·.twin) && !m.twinOk

/-- A copy whose attempt is abandoned: what had landed lands again (R219). -/
def Copy.again (m : Copy) : Copy := { m with earlier := (m.earlier ++ m.landed).eraseDups, landed := [], read := [] }

/-- A sector gave a copy no answer: its stack counts a transient error, the attempt is abandoned and the copy tries again; the seventeenth such
attempt in a row ends the copy with REPLAY (R219, R288, R352). -/
def replayCopy (s : State) (core : CoreId) (m : Copy) (q : Nat) : State :=
  ((s.countError q 3).updMem fun k => { k with mute := k.mute.filter (· != q) }).updCore core fun c => c.setCopy
    (if m.replays < 16 then { m.again with replays := m.replays + 1 } else { m.again with status := some 0x17#16 })

/-- A started copy tries to end, with a peer's answer (R219, R227, R293, R367): an attempt that meets a miss or a sector without an answer is
abandoned, but for what it has met, unless the copy has a status already. -/
def tryCopy (s : State) (core : CoreId) (m : Copy) (r : RemoteAnswer) : State :=
  let p := readPlan m.sh
  let data := match r with
    | .data b => b
    | _ => []
  let v := if p.op = 0 then moveAll s p core m data else { s := s }
  let met := if p.op = 0 then copyMet s p core m data else s
  let given := match r with
    | .status c => if v.far ∧ c ≠ 0#16 then [c.toNat] else []
    | _ => []
  let waits := { m with peers := copyPeers s core m }
  if m.status.isSome && (v.miss.isSome || v.mute.isSome) then endCopy met p core m data (finalStatus s m p (copyFates s m p m.rcv)) m.detail
  else match v.miss, v.mute with
    | some x, _ => met.updCore core fun c => c.setCopy { waits.again with miss := some x }
    | none, some q => replayCopy met core waits q
    | none, none =>
      let st := finalStatus s m p (copyFates s m p m.rcv ++ v.errs ++ given)
      if m.status.isNone && given.isEmpty && (v.lack || (v.far && r == .local)) then s.updCore core (·.setCopy waits)
      else if wholeStatus st && awaitsTwin core m p m.rcv then offerTwin s core m v.out
      else endCopy (if wholeStatus st then s else met) p core m data st m.detail

/-- COPY_END: a copy that has started, and as a reduction applied every pass, ends; a peer's answer to a reduction's read phase is
its source bytes, or the status that ends it (R219, R220, R369). -/
def execCopyEnd (core tid : Nat) (r : RemoteAnswer) (s : State) : Out :=
  .next (match (s.core core).copyOf tid with
  | none => s
  | some m =>
    let p := readPlan m.sh
    if !m.started || m.miss.isSome then s
    else if p.op ≠ 0 ∧ m.applied < p.total ∧ m.status.isNone then
      match r with
      | .local => s
      | .data b => s.updCore core fun c => c.setCopy { m with peer := b }
      | .status st => if st ≠ 0#16 ∧ meetsPeer s core m (fun _ => true) then
          s.updCore core fun c => c.setCopy { m with status := some st }
        else s
    else tryCopy s core m r)

/-- Whether a sector of this module's memory is one that a copy's virtual sides lie in (R286, R288). -/
def copySector (s : State) (core : CoreId) (m : Copy) (q : Nat) : Bool :=
  (copyEntries s core m).any fun e => !e.2.2.remote && (sectors (e.2.2.phys e.1) e.2.1).contains q

/-- COPY_REPLAY: an attempt is abandoned where a sector of the copy's sides gave no answer (R219, R288, R352). A reduction replays the read
phase of a pass, and nothing once its passes have been applied (R220). -/
def execCopyReplay (core tid : Nat) (memErr : Option Nat) (s : State) : Out :=
  .next (match (s.core core).copyOf tid with
  | none => s
  | some m =>
    let p := readPlan m.sh
    if !m.started ∨ m.miss.isSome ∨ m.status.isSome ∨ (p.op ≠ 0 ∧ (p.total ≤ m.applied ∨ !m.staged.isEmpty)) then s
    else match memErr.filter (copySector s core m) with
      | none => s
      | some q => replayCopy s core m q)

/-! ### Reductions (R220) -/

/-- The last-level entries that the destination pages of a pass use. -/
def passEntries (s : State) (a : Access) (p : Plan) (ks : List Nat) : List Nat :=
  (ks.flatMap fun k => (p.place false (k / p.units) (k % p.units)).filterMap fun x =>
    (s.findEntry (coreDie a.core) a.part x.1).map (·.1)).eraseDups

/-- The operands of a reduction for a page of a peer, which applies them (R366, R369). -/
def sendReduce (v : Moved) (p : Plan) (a : Access) (e : TlbE) (va : Nat) (fmode : Word) (b : List Byte) : Moved :=
  { v with far := true, s := v.s.sendFabric ⟨e.moda, a.part, e.phys va, .reduce p.op p.sf p.df fmode, b, 0#20, 0#16⟩ }

/-- Where a virtual destination element of a reduction stands at a peer, if it does. -/
def reducePeer (v : Moved) (p : Plan) (a : Access) (va : Nat) : Option TlbE :=
  if p.dsp then none
  else match v.s.physOf a va true with
    | .error (.remote e) => some e
    | _ => none

/-- The read phase of unit k: its source is read, and its destination page translated and found readable and writable; the operand waits in
the staging buffer (R220). -/
def stageUnit (p : Plan) (core : CoreId) (m : Copy) (r : Moved × List (Nat × List Byte × Bool)) (k : Nat) :
    Moved × List (Nat × List Byte × Bool) :=
  let dst := p.place false (k / p.units) (k % p.units)
  let a := copyAccess core m
  let va := (dst.headD (0, 0)).1
  let (b, bad, v) := r.1.readUnit core m p.ssp p.sf (p.place true (k / p.units) (k % p.units)) r.1.s
  let v := if p.dsp then v
    else match v.s.physOf a va true with
      | .error (.remote e) => if v.s.lost e then { v with errs := v.errs ++ [0x12] }
          else if e.f1 0 25 = 0x1FFFFFF then { v with errs := v.errs ++ [0x11] } else v
      | .error e => v.fail e v.s
      | .ok (_, t) => ({ v with s := t } : Moved).readVirtOf core m va (fmtSize p.df) |>.2.2
  (v, r.2 ++ [(k, b, bad)])

/-- The apply phase of a unit: its destination element takes its new value, here or at a peer. -/
def applyUnit (p : Plan) (core : CoreId) (m : Copy) (v : Moved) (x : Nat × List Byte × Bool) : Moved :=
  let dst := p.place false (x.1 / p.units) (x.1 % p.units)
  let a := copyAccess core m
  let va := (dst.headD (0, 0)).1
  match reducePeer v p a va with
  | some e => sendReduce v p a e va m.fmode x.2.1
  | none =>
    let (o, obad, v) := match m.rcv.head? with
      | some r => v.readUnit r.1 m true p.df dst v.s
      | none => let q := ({ v with who := none } : Moved).readUnit core m false p.df dst v.s
                (q.1, q.2.1, { q.2.2 with who := v.who })
    let bad := x.2.2 || obad
    let v := { v with errs := if bad then v.errs ++ [4] else v.errs }
    v.writeUnit p core m (targetsOf p core m.rcv) dst (reduceElem p m.fmode o x.2.1) bad

/-- The read phase of the units `ks` (R220). -/
def stageAll (s : State) (core : CoreId) (m : Copy) (p : Plan) (ks : List Nat) : Moved × List (Nat × List Byte × Bool) :=
  ks.foldl (stageUnit p core m) ({ s := s, who := some (copyParty s core m), data := m.peer }, [])

/-- The read phase of a reduction's next pass, of `n` units: its operands wait in the staging buffer and its destination pages are pinned; an
error ends the copy, and what it reported stands (R220, R288, R292). Answers whether the pass stands ready. -/
def stagePass (s : State) (core : CoreId) (m : Copy) (p : Plan) (n : Nat) : Bool × State :=
  let ks := (List.range n).map (· + m.applied)
  let (v, ops) := stageAll s core m p ks
  let waits := { m with peers := copyPeers s core m }
  match v.miss, v.mute with
  | some x, _ => (false, (s.metErrors v.s).updCore core fun c => c.setCopy { waits with miss := some x })
  | none, some q => (false, replayCopy (s.metErrors v.s) core waits q)
  | none, none =>
    let d := coreDie core
    let pins := if p.dsp then [] else passEntries s (copyAccess core m) p ks
    let tooMany := 8192 < (s.die d).pins.entries.length + (pins.filter fun i => !(s.die d).pinned i).length
    let st := leastStatus (v.errs.filter (· != 4) ++ (if tooMany then [0x11] else []))
    if v.lack then (false, s.updCore core (·.setCopy waits))
    else if st ≠ 0 then (false, v.s.updCore core fun c => c.setCopy { waits with status := some (BitVec.ofNat 16 st) })
    else (true, (pins.foldl (fun t i => t.updDie d (·.pin i)) v.s).updCore core fun c => c.setCopy
      { waits with staged := ops, pinned := pins, peer := v.data, replays := 0 })

/-- The apply phase of the units of a reduction's pass that `sel` names: each once (R220). With the last of them the pins go. -/
def applyStaged (s : State) (core : CoreId) (tid : Nat) (sel : Nat → Bool) : State :=
  match (s.core core).copyOf tid with
  | none => s
  | some m =>
    let p := readPlan m.sh
    let w := copyParty s core m
    let ops := m.staged.filter fun x => sel x.1
    let rest := m.staged.filter fun x => !sel x.1
    let v := (ops.foldl (applyUnit p core m) { s := s, who := some w, patient := true }).flush w p (copyAccess core m)
    let t := if rest.isEmpty then v.s.unpinCopy core m else v.s
    t.updCore core fun c => c.setCopy { m with
      staged := rest, applied := m.applied + ops.length, pinned := if rest.isEmpty then [] else m.pinned
      detail := if v.errs.contains 4 then 1 else m.detail }

/-- The units of a reduction's next pass: at most 64 KiB of destination elements (R220). -/
def passUnits (p : Plan) (m : Copy) : Nat := Nat.min (65536 / fmtSize p.df) (p.total - m.applied)

/-- A pass of a reduction does its work: its read phase, unless that is done, then its apply phase (R220). -/
def reducePass (s : State) (core : CoreId) (m : Copy) (p : Plan) : State :=
  let r := if m.staged.isEmpty then stagePass s core m p (passUnits p m) else (true, s)
  if r.1 then applyStaged r.2 core m.tid fun _ => true else r.2

/-- A twin's reduction offers the digest of all its operands before its first pass is applied (R227). -/
def offerReduction (s : State) (core : CoreId) (m : Copy) (p : Plan) : State :=
  let (v, ops) := stageAll s core m p (List.range p.total)
  match v.miss, v.mute with
  | some x, _ => (s.metErrors v.s).updCore core fun c => c.setCopy { m with miss := some x }
  | none, some q => replayCopy (s.metErrors v.s) core m q
  | none, none =>
    let st := leastStatus (v.errs.filter (· != 4))
    if v.lack then s
    else if st ≠ 0 then v.s.updCore core fun c => c.setCopy { m with status := some (BitVec.ofNat 16 st) }
    else offerTwin s core m (ops.flatMap fun x => x.2.1)

/-- REDUCTION_APPLY_PHASE: the next pass of at most 64 KiB of destination elements; its pages are translated and pinned first, past
8,192 pins FAULT; a poisoned operand's element carries poison (R220, R292); of twins' reductions one is applied (R227). -/
def execReductionApplyPhase (core tid : Nat) (s : State) : Out :=
  .next (match (s.core core).copyOf tid with
  | none => s
  | some m =>
    let p := readPlan m.sh
    if p.op = 0 ∨ !m.started ∨ m.miss.isSome ∨ m.status.isSome ∨ p.total ≤ m.applied then s
    else if awaitsTwin core m p m.rcv then offerReduction s core m p
    else reducePass s core m p)

/-! ### Elements that land before the copy's end (R74 note 1, R174, R219, R220, R380) -/

/-- Whether a copy's source shares bytes with its destination (R218). -/
def selfMeets (core : CoreId) (m : Copy) (p : Plan) : Bool :=
  let all : Bool → List (Nat × Nat) := fun source => (List.range p.total).flatMap fun k => p.place source (k / p.units) (k % p.units)
  p.ssp == p.dsp && (targetsOf p core m.rcv).contains core && rangesMeet (all true) (all false)

/-- The aligned 8-byte words that ranges lie in. -/
def wordRanges (l : List (Nat × Nat)) : List (Nat × Nat) :=
  (l.filter fun x => x.2 != 0).map fun x => (x.1 / 8 * 8, (x.1 % 8 + x.2 + 7) / 8 * 8)

/-- What lands with the numbers `ks` in a scratchpad: all that shares a word with them, for an atomic falls wholly before or after the write of a
word (R174). -/
def Plan.joined (p : Plan) : Nat → List Nat → List Nat
  | 0, ks => ks
  | n + 1, ks =>
    let more := (List.range p.spots).filter fun k => !ks.contains k && ks.any fun j => rangesMeet (wordRanges (p.spot j)) (wordRanges (p.spot k))
    if more.isEmpty then ks else p.joined n (ks ++ more)

/-- The numbers that land together where an agenda names `ks`, in order: in memory those alone, in a scratchpad what shares words with them too. -/
def Plan.landing (p : Plan) (ks : List Nat) : List Nat :=
  let js := if p.dsp then p.joined p.spots ks else ks
  (List.range p.spots).filter js.contains

/-- Before the first unit of a copy whose source shares bytes with its destination lands, its source is read as it stands; none where that cannot
be done now (R218). -/
def keepSource (s : State) (core : CoreId) (m : Copy) (p : Plan) : Option (State × Copy) :=
  if !selfMeets core m p || !m.orig.isEmpty then some (s, m)
  else
    let v := (List.range p.total).foldl (fun (v : Moved) k =>
      let r := v.readUnit core m p.ssp p.sf (p.place true (k / p.units) (k % p.units)) v.s
      { r.2.2 with got := r.2.2.got ++ [(k, r.1, r.2.1)] }) { s := s, who := some (copyParty s core m) }
    if v.clean then some (v.s, { m with orig := v.got.map (·.2) }) else none

/-- Units `ks` of a copy land at a target: what has been read of them is what other targets take too. An attempt that meets an error or a peer's
page lands nothing by itself. -/
def landCopy (s : State) (core : CoreId) (m : Copy) (p : Plan) (ks : List Nat) (t : CoreId) : State :=
  match keepSource s core m p with
  | none => s
  | some (u, m) =>
    let js := p.landing ks
    let v := moveSome u p core m [] js fun _ x => x == t
    if v.clean && (v.errs.length == (v.got.filter fun x => x.2.2).length) then v.s.updCore core fun c => c.setCopy { m with
      landed := (m.landed ++ js.map fun k => (k, t)).eraseDups, read := m.read ++ v.got.filter fun x => !(m.read.any fun y => y.1 == x.1) }
    else s

/-- Units `ks` of a reduction land: in the apply phase of its pass, each once and for all (R220). -/
def landPass (s : State) (core : CoreId) (m : Copy) (p : Plan) (ks : List Nat) : State :=
  let r := if m.staged.isEmpty && m.applied < p.total then stagePass s core m p (passUnits p m) else (true, s)
  if r.1 then applyStaged r.2 core m.tid fun k => (p.landing ks).contains k else r.2

/-- Units `ks` of a copy under way reach its destination at the target `t` before its end. -/
def landUnits (s : State) (core tid : Nat) (ks : List Nat) (t : CoreId) : State :=
  match (s.core core).copyOf tid with
  | none => s
  | some m =>
    let p := readPlan m.sh
    if !m.started ∨ m.miss.isSome ∨ m.status.isSome ∨ awaitsTwin core m p m.rcv ∨ !(targetsOf p core m.rcv).contains t then s
    else if p.op = 0 then landCopy s core m p ks t else landPass s core m p ks

end Sys2Proof.Machine
end

