-- ==== Sys2Proof/Machine/Flow.lean ====
section
/-!
DEFINITION. The meanings of SYS but STOPST (R92 to R98), BRANCH, INDIRECT and CONTEXT (R99 to R107).
-/
namespace Sys2Proof.Machine
open State

/-! ### SYS (R92 to R98) -/

/-- NOP (R92). -/
def execNop (s : State) : Out := .next (s.advance 8)
/-- TRAP: a trap of cause TRAPI (R92). -/
def execTrap (imm : BitVec 25) (s : State) : Out := .next (s.takeTrap .trapi (imm.setWidth 64))

/-- A debug stop of the context whose turn it is: it halts at the BKPT's address plus 8, and the service core is told (R363). -/
def debugStop (s : State) : State :=
  (s.updMe fun x => { x with pc := x.pc + 8#64, dbgHalt := true }).tell s.cur (.debugStop s.cur s.slot)

/-- BKPT: a trap of cause BKPT, or under invasive debug a debug stop (R92, R363). -/
def execBkpt (imm : BitVec 25) (s : State) : Out :=
  .next (if s.mod.dbg = .invasive then debugStop s else s.takeTrap .bkpt (imm.setWidth 64))

/-- ERET (R93); at level U it traps PRIV (R43 step 7). -/
def execEret (a : Fld) (s : State) : Out :=
  let t := s.me.rg a.toNat
  .next (if !s.isService s.cur then s.takeTrap .priv s.bytesHere
    else if t.toNat % 4 ≠ 0 then s.takeTrap .illegal t
    else s.trapReturn t)

/-- COORD of a context (R68). DESIGN CHOICE: on a core that runs no dispatched node STAGE reads 0, and CORE reads 0xF on a core that has no
logical number and is no service core (log 78). -/
def coordOf (s : State) (i : CoreId) (k : Nat) : Word :=
  let stage := match (s.core i).run with
    | some r => r.wire.toNat / 2 ^ 22 % 256
    | none => 0
  let l := if s.isService i then 15 else (s.logicalNo i).getD 15
  BitVec.ofNat 64 (stage * 2 ^ 20 + k * 2 ^ 16 + l * 2 ^ 12 + coreDie i * 2 ^ 9 + coreCluster i % 64)

/-- VWIN of a context (R67). -/
def Ctx.vwin (x : Ctx) : Word :=
  BitVec.ofNat 64 ((if x.winV then 256 else 0) + x.winSize.toNat * 64 + x.winBase)

/-- STOPST (R245). -/
def Matcher.word (m : Matcher) : Word :=
  BitVec.ofNat 64 ((((List.range 16).map fun i => if m.strs.has i then 2 ^ i else 0).sum) * 2 ^ 16 + m.index * 2 ^ 9
    + (if m.hit then 256 else 0) + m.hold.length)

/-- ROTTAB: the selected table and its version (R151). -/
def rottabOf (c : Core) (x : Ctx) : Word :=
  BitVec.ofNat 64 (x.rotSel.toNat * 2 ^ 16 + c.un.bandVer.get x.rotSel.toNat 0)

/-- A system register as a context of a core reads it (R95 to R97). -/
def sysRead (s : State) (i : CoreId) (k num : Nat) : Word :=
  let c := s.core i
  let x := c.ctx k
  match num with
  | 0x000 => x.fmode
  | 0x001 => coordOf s i k
  | 0x002 => x.vwin
  | 0x010 => x.tvec
  | 0x011 => x.epc
  | 0x012 => x.ecause
  | 0x013 => x.eval
  | 0x020 => c.bar.wdlim
  | 0x021 => x.wdcnt
  | 0x022 => c.bar.cycle
  | 0x030 => BitVec.ofNat 64 c.en.events.length
  | 0x031 => BitVec.ofNat 64 c.bar.forks.length
  | 0x040 => c.bar.amtab
  | 0x050 => rottabOf c x
  | 0x060 => c.en.matcher.word
  | 0x070 => x.cdSel.setWidth 64
  | n => if 0x038 ≤ n ∧ n ≤ 0x03F then BitVec.ofNat 64 (c.bar.jcnt.get (n - 0x038) 0) else 0#64

/-- What decides a SYSW (R94): a register that level U may not write traps PRIV, a read-only one ILLEGAL with the instruction
bytes, a value that a reserved bit or a field forbids ILLEGAL with the value. -/
inductive SysOutcome where
  | priv | readOnly | badValue | ok (c : Core)
  deriving DecidableEq, Repr

/-- A write of a system register by a context at a level (R94 to R97, R151, R213, R245, R273). -/
def sysWrite (c : Core) (k num : Nat) (sup : Bool) (v : Word) : SysOutcome :=
  let x := c.ctx k
  let put : Bool → Ctx → SysOutcome := fun good y => if good then .ok (c.setCtx k y) else .badValue
  match num with
  | 0x000 => put (fmodeOk v) { x with fmode := v }
  | 0x010 => put (v.toNat % 4 == 0) { x with tvec := v }
  | 0x011 => put (v.toNat % 4 == 0) { x with epc := v }
  | 0x012 => put (1 ≤ v.toNat && v.toNat ≤ 0x13) { x with ecause := v }
  | 0x013 => put true { x with eval := v }
  | 0x020 => if !sup then .priv else if v.toNat < 2 ^ 32 then .ok (c.updBar fun b => { b with wdlim := v }) else .badValue
  | 0x040 => if !sup then .priv else if v.toNat < 2 ^ 32 then .ok (c.updBar fun b => { b with amtab := v }) else .badValue
  | 0x050 => put (v.toNat < 2 ^ 19) { x with rotSel := (v >>> 16).setWidth 3 }
  | 0x060 => if v = 0#64 then
               .ok (c.updEn fun e => { e with matcher := { e.matcher with hold := [], hit := false, index := 0 } })
             else .badValue
  | 0x070 => put (v.toNat < 8) { x with cdSel := v.setWidth 3 }
  | _ => .readOnly

/-- SYSR (R94). -/
def execSysr (d : Fld) (num : BitVec 12) (s : State) : Out :=
  .next ((s.updMe (·.wg d.toNat (sysRead s s.cur s.slot num.toNat))).advance 8)

/-- The effect of a SYSW with the access rules of R94. -/
def sysWriteHere (s : State) (num : Nat) (v : Word) : State :=
  match sysWrite s.here s.slot num (s.isService s.cur) v with
  | .priv => s.takeTrap .priv s.bytesHere
  | .readOnly => s.takeTrap .illegal s.bytesHere
  | .badValue => s.takeTrap .illegal v
  | .ok c => (s.setCore s.cur c).advance 8

/-- SYSW (R94). -/
def execSysw (num : BitVec 12) (a : Fld) (s : State) : Out := .next (sysWriteHere s num.toNat (s.me.rg a.toNat))
/-- STOPST_CLEAR: the SYSW to STOPST (R245). -/
def execStopstClear (a : Fld) (s : State) : Out := .next (sysWriteHere s 0x060 (s.me.rg a.toNat))

/-- EVPOP: the oldest record, or zeros; it observes the completion and cancels the record's deferred trap (R98, R125, R382). -/
def execEvpop (d c : Fld) (s : State) : Out :=
  .next (match s.here.en.events with
    | [] => (s.updMe fun x => (x.wg d.toNat 0#64).wg c.toNat 0#64).advance 8
    | r :: rest =>
      let h := s.here.updEn fun e =>
        { e with events := rest, defers := e.defers.filter fun q => r.key != some q.key }
      let h := h.acquire s.slot r.obs
      ((s.setCore s.cur h).updMe fun x => (x.wg d.toNat r.w0).wg c.toNat r.w1).advance 8)

/-- EVWAIT: waits until the event queue holds a record (R98). -/
def execEvwait (s : State) : Out := .next (if s.here.en.events.isEmpty then s.stop (.wait .event) else s.advance 8)

/-! ### BRANCH and INDIRECT (R99, R100) -/

/-- The target PC + 4 × offset (R33). -/
def target {n : Nat} (s : State) (off : BitVec n) : Word := s.me.pc + immWord off * 4#64

/-- B (R99). -/
def execBr (off : BitVec 25) (s : State) : Out := .next (s.jump (target s off))
/-- CALL: links through g31 (R99). -/
def execCall (off : BitVec 25) (s : State) : Out :=
  .next ((s.updMe (·.wg 31 (s.me.pc + 8#64))).jump (target s off))
/-- LOOP: decrements D and branches where it is not 0 (R99). -/
def execLoop (d : Fld) (off : BitVec 25) (s : State) : Out :=
  let v := s.me.rg d.toNat - 1#64
  let t := s.updMe (·.wg d.toNat v)
  .next (if v ≠ 0#64 then t.jump (target s off) else t.advance 8)

/-- An indirect jump to `t`, with a link or not: ALIGN where bits [1:0] are set (R100). -/
def jumpTo (s : State) (t : Word) (link : Bool) : State :=
  if t.toNat % 4 ≠ 0 then s.takeTrap .align t
  else (if link then s.updMe (·.wg 31 (s.me.pc + 8#64)) else s).jump t

/-- JMPR (R100). -/
def execJmpr (a : Fld) (s : State) : Out := .next (jumpTo s (s.me.rg a.toNat) false)
/-- CALLR (R100). -/
def execCallr (a : Fld) (s : State) : Out := .next (jumpTo s (s.me.rg a.toNat) true)
/-- RET (R100). -/
def execRet (s : State) : Out := .next (jumpTo s (s.me.rg 31) false)

/-! ### CONTEXT (R101 to R107) -/

/-- A helper's context at its start (R66, R102). -/
def helperStart (x : Ctx) (size base : Nat) (pc arg : Word) : Ctx :=
  { live := true, pc := pc, g := Tab.set {} 1 arg, winV := true, winSize := BitVec.ofNat 2 size, winBase := base,
    fmode := clearFlags x.fmode, tvec := x.tvec }

/-- The rows of a fresh helper window take free values (R66). -/
def freeWindow (c : Core) (base size free : Nat) : Core :=
  (List.range (6 * 2 ^ size)).foldl (fun c n => c.wphys (base * 6 + n) (Config.freeVec free n)) c

/-- HSTART (R102): the lowest free slot and window, a release by the starter and an acquire by the helper; or 0 and false. -/
def execHstart (pp : BitVec 3) (d a sz : Fld) (off : BitVec 22) (s : State) : Out :=
  .next (if s.slot ≠ 0 then s.illegal
    else match s.here.freeSlot?, s.here.windowBase? sz.toNat with
      | some k, some b =>
        let c := freeWindow (s.here.release 0) b sz.toNat s.free
        let c := c.setCtx k (helperStart s.me sz.toNat b (target s off) (s.me.rg a.toNat))
        let c := c.acquire k (c.sp.relRow 0)
        let t := (s.setCore s.cur c).takeFree
        (t.updMe fun x => (x.wg d.toNat (BitVec.ofNat 64 k)).wp pp.toNat true).advance 8
      | _, _ => (s.updMe fun x => (x.wg d.toNat 0#64).wp pp.toNat false).advance 8)

/-- A helper takes a task of the fork deque in its slot and window (R103). DESIGN CHOICE: TVEC, EPC, ECAUSE, EVAL, ROTTAB.SEL and CDSEL,
which R103's list does not name, stay as the last task left them (log 28). -/
def takeTask (x : Ctx) (f : Fork) : Ctx :=
  { x with pc := f.pc, g := Tab.set {} 1 f.arg, p := 1#8, k := {}, wdcnt := 0#64, fmode := clearFlags x.fmode, wait := none,
           held := none }

/-- HEND (R103): a release; then the oldest fork, or the end of the helper. -/
def execHend (s : State) : Out :=
  .next (if s.slot = 0 ∨ s.slot = 11 then s.illegal
    else
      let c := s.here.release s.slot
      match c.bar.forks with
      | [] => s.setCore s.cur (c.endSlot s.slot)
      | f :: rest =>
        let c := (c.updBar fun b => { b with forks := rest }).updCtx s.slot (takeTask · f)
        s.setCore s.cur (c.acquire s.slot f.rel))

/-- HWAIT (R104): in its order of checks; its return, at the end of its wait, acquires the ended helper's release. -/
def execHwait (a : Fld) (s : State) : Out :=
  let n := (s.me.rg a.toNat).toNat
  .next (if n < 1 ∨ 10 < n then s.advance 8
    else if n = s.slot then s.illegal
    else if !(s.here.ctx n).live then s.advance 8
    else s.stop (.wait (.slotFree n)))

/-- Whether an instruction that holds its context has an effect beyond its registers still to come, so that it completes in memory and
the engines when its helper is killed: all but the waits for the end of a copy or collective (R104, R197). -/
def outlives : Instr → Bool
  | .cewait .. | .clwait .. => false
  | _ => true

/-- The first number 16 i + n, i from 1, that no instruction of a killed helper of slot n completes under. -/
def Core.orphanKey (c : Core) (n : Nat) : Nat :=
  (((List.range (c.bar.ctxs.entries.length + 1)).map fun i => 16 * (i + 1) + n).find? fun k => !c.bar.ctxs.has k).getD (16 + n)

/-- What a killed helper of slot n had issued goes on without it (R104): its held instruction completes for a context that holds no slot,
under a number 16 i + n, with what the helper has seen and stamped with the region it stopped in, which HKILL has released; a trap of it,
which no context is left to take, only vectors there, its registers, a vector's among them, are discarded, and no debug halt stops it. -/
def orphan (c : Core) (x : Ctx) (n : Nat) (seen : Row) (region : Nat) : Core :=
  if x.held.any outlives then
    let k := c.orphanKey n
    (c.setCtx k { x with tvec := 4#64, dbgHalt := false }).updSp fun sp => { sp with seen := sp.seen.set k seen, region := sp.region.set k region }
  else c

/-- HKILL (R104): the helper stops, its slot and window are freed, what it had issued completes; a release by it and an acquire by the
control context. -/
def execHkill (a : Fld) (s : State) : Out :=
  let n := (s.me.rg a.toNat).toNat
  .next (if s.slot ≠ 0 then s.illegal
    else if n < 1 ∨ 10 < n then s.advance 8
    else if !(s.here.ctx n).live then s.advance 8
    else
      let c := s.here.release n
      let r := c.sp.relRow n
      (s.setCore s.cur (orphan ((c.endSlot n).acquire 0 r) (s.here.ctx n) n r (s.here.sp.regionOf n))).advance 8)

/-- FORK (R105): a release in either case (R124); an entry at the tail of the deque and a count, or false. -/
def execFork (d a n : Fld) (off : BitVec 25) (s : State) : Out :=
  let j := s.here.bar.jcnt.get n.toNat 0
  .next (if s.slot = 11 then s.illegal
    else
      let c := s.here.release s.slot
      if s.here.bar.forks.length < 16 ∧ j < 0xFFFF then
        let c := c.updBar fun b =>
          { b with forks := b.forks ++ [⟨target s off, s.me.rg a.toNat, n.toNat, c.sp.relRow s.slot⟩],
                   jcnt := b.jcnt.set n.toNat (j + 1) }
        ((s.setCore s.cur c).updMe (·.wp d.toNat true)).advance 8
      else ((s.setCore s.cur c).updMe (·.wp d.toNat false)).advance 8)

/-- JOIN (R106): GRAPH on a zero counter, else a release and a decrement, which at zero ends the JOINWs on it. -/
def execJoin (n : Fld) (s : State) : Out :=
  let j := s.here.bar.jcnt.get n.toNat 0
  .next (if j = 0 then s.takeTrap .graph (BitVec.ofNat 64 (0x10000 + n.toNat))
    else
      let c := s.here.release s.slot
      let r := Row.join (c.bar.jrel.get n.toNat {}) (c.sp.relRow s.slot)
      let c := c.updBar fun b => { b with jcnt := b.jcnt.set n.toNat (j - 1), jrel := b.jrel.set n.toNat r }
      (s.setCore s.cur (if j = 1 then c.endWaits fun w => if w = .joinZero n.toNat then some r else none else c)).advance 8)

/-- JOINW (R106): GRAPH in the control context with no helper to decrement it; else waits for zero and acquires the JOINs. -/
def execJoinw (n : Fld) (s : State) : Out :=
  let j := s.here.bar.jcnt.get n.toNat 0
  .next (if j = 0 then (s.updHere (·.acquire s.slot (s.here.bar.jrel.get n.toNat {}))).advance 8
    else if s.slot = 0 ∧ s.here.helperMask = 0 then s.takeTrap .graph (BitVec.ofNat 64 (0x20000 + n.toNat))
    else s.stop (.wait (.joinZero n.toNat)))

end Sys2Proof.Machine
end

