-- ==== Sys2Proof/Machine/Transc.lean ====
section
/-!
DEFINITION. Correctly rounded functions (R141, R149, R150, R153): each value is enclosed in an interval of fixed-point numbers,
at a precision that doubles until both ends round alike.
-/
namespace Sys2Proof.Machine

/-- An enclosure at a precision: sign, and lo and hi with lo × 2^e ≤ |v| < (hi + 1) × 2^e. -/
structure Encl where
  neg : Bool
  lo : Nat
  hi : Nat
  e : Int
  deriving DecidableEq, Repr

/-- Round an irrational value from its enclosures at doubling precisions. -/
def packEncl (F : Fmt) (rnd : Rnd) (sat ftz : Bool) (f : Nat → Encl) : Nat → Nat → Nat × Flags
  | 0, p => F.pack rnd sat ftz (.num (f p).neg (2 * (f p).lo + 1) ((f p).e - 1))
  | fuel + 1, p =>
    let x := f p
    let a := F.pack rnd sat ftz (.num x.neg (2 * x.lo + 1) (x.e - 1))
    let b := F.pack rnd sat ftz (.num x.neg (2 * x.hi + 1) (x.e - 1))
    if a = b then a else packEncl F rnd sat ftz f fuel (2 * p)

/-- Round an irrational value: precisions 96 to 1,536 bits. -/
def packIrr (F : Fmt) (rnd : Rnd) (sat ftz : Bool) (f : Nat → Encl) : Nat × Flags := packEncl F rnd sat ftz f 4 96

/-- The error bound of the series below, in units of the last place. -/
def slop (p : Nat) : Nat := 8 * p + 64

/-- Σ t·z^(2i)/(k + 2i), with z² = n/d. -/
def atanhSum (n d : Nat) : Nat → Nat → Nat → Nat
  | 0, _, _ => 0
  | fuel + 1, t, k => t / k + atanhSum n d fuel (t * n / d) (k + 2)

/-- ln 2 at p bits. -/
def ln2 (p : Nat) : Nat := 2 * atanhSum 1 9 (p / 3 + 8) (2 ^ p / 3) 1

/-- Σ t·x^i/((k+1)…(k+i)) at p bits. -/
def expSum (p x : Nat) : Nat → Nat → Nat → Nat
  | 0, _, _ => 0
  | fuel + 1, t, k => t + expSum p x fuel (t * x / 2 ^ p / (k + 1)) (k + 1)

/-- e^x for x < ln 2 at p bits. -/
def expFix (p x : Nat) : Nat := expSum p x (p / 3 + 12) (2 ^ p) 0

/-- 2^(fn/2^k) for fn < 2^k at p bits. -/
def exp2Fix (p fn k : Nat) : Nat := if fn = 0 then 2 ^ p else expFix p (fn * ln2 p / 2 ^ k)

/-- ln(m/2^k) for 2^k ≤ m < 2^(k+1) at p bits. -/
def lnFix (p m k : Nat) : Nat :=
  2 * atanhSum ((m - 2 ^ k) * (m - 2 ^ k)) ((m + 2 ^ k) * (m + 2 ^ k)) (p / 3 + 8) (2 ^ p * (m - 2 ^ k) / (m + 2 ^ k)) 1

/-- Σ (−1)^i t·y^i/((k+1)…(k+2i)) at p bits: the alternating series of sine and cosine. -/
def altSum (p y : Nat) : Nat → Nat → Nat → Int
  | 0, _, _ => 0
  | fuel + 1, t, k => (t : Int) - altSum p y fuel (t * y / 2 ^ p / ((k + 1) * (k + 2))) (k + 2)

/-- Σ (−1)^i t/((k + 2i)·n^(2i)): the series of arctangent. -/
def atanSum (n2 : Nat) : Nat → Nat → Nat → Int
  | 0, _, _ => 0
  | fuel + 1, t, k => ((t / k : Nat) : Int) - atanSum n2 fuel (t / n2) (k + 2)

/-- π at p bits. -/
def piFix (p : Nat) : Nat :=
  (16 * atanSum 25 (p / 4 + 8) (2 ^ p / 5) 1 - 4 * atanSum 57121 (p / 15 + 8) (2 ^ p / 239) 1).toNat

/-- The integer square root, by `fuel` base-four digits. -/
def isqrt : Nat → Nat → Nat
  | 0, _ => 0
  | fuel + 1, n =>
    let r := 2 * isqrt fuel (n / 4)
    if (r + 1) * (r + 1) ≤ n then r + 1 else r

/-- The ratio n × 2^e / d, d ≠ 0, with what is left over folded into one more bit below 80. -/
def ratio (neg : Bool) (n d : Nat) (e : Int) : Val :=
  let k := 80 + bitLen d - bitLen n
  let q := n * 2 ^ k / d
  if n * 2 ^ k % d = 0 then .num neg q (e - k) else .num neg (2 * q + 1) (e - k - 1)

/-! ### Powers of two (R141, R149, R150) -/

/-- A term c × 2^d of a sum, c = m × 2^e and d = dm × 2^de. -/
structure Term where
  m : Int
  e : Int
  dm : Int
  de : Int
  deriving DecidableEq, Repr

/-- The integer part of an exponent, kept within what any format can tell apart. -/
def Term.whole (t : Term) : Int :=
  let n := if 0 ≤ t.de then t.dm * 2 ^ (Nat.min 16 t.de.toNat) else t.dm / 2 ^ (-t.de).toNat
  max (-8000) (min 8000 n)
/-- The numerator over 2^(−de) of an exponent's fraction. -/
def Term.frac (t : Term) : Nat := if 0 ≤ t.de then 0 else (t.dm % 2 ^ (-t.de).toNat).toNat

/-- The enclosure of (Σ terms) / (dn × 2^de), the divisor positive. -/
def sumEncl (ts : List Term) (dn : Nat) (de : Int) (p : Nat) : Encl :=
  let top := ts.foldl (fun a t => max a ((bitLen t.m.natAbs : Int) + t.e + t.whole + 1)) (-20000)
  let sum := ts.foldl (fun a t =>
    a + t.m * (exp2Fix p t.frac (-t.de).toNat : Int) / 2 ^ (top - t.e - t.whole).toNat) (0 : Int)
  let err := ts.length * (slop p + 2)
  let s := sum.natAbs
  ⟨sum < 0, (s - err) * 2 ^ 64 / dn, (s + err) * 2 ^ 64 / dn + 1, top - p - 64 - de⟩

/-- RoundTo((Σ c × 2^d) / s): exact where every exponent is an integer, correctly rounded otherwise. -/
def packTerms (F : Fmt) (rnd : Rnd) (ftz : Bool) (ts : List Term) (dneg : Bool) (dn : Nat) (de : Int) : Nat × Flags :=
  let ts := ts.filter fun t => t.m != 0
  if ts.all fun t => t.frac == 0 then
    let g := ts.foldl (fun a t => min a (t.e + t.whole)) (0 : Int)
    let i := ts.foldl (fun a t => a + t.m * 2 ^ (t.e + t.whole - g).toNat) (0 : Int)
    F.pack rnd false ftz (if i = 0 then Val.ofInt rnd 0 0 else ratio ((i < 0) != dneg) i.natAbs dn (g - de))
  else packIrr F rnd false ftz fun p =>
    let x := sumEncl ts dn de p
    { x with neg := x.neg != dneg }

/-- RoundTo(c × 2^d / s) (R149, R150), with the special values that R64 leaves to the entries: 2^−∞ is 0 and 2^∞ is ∞. -/
def packScaled (F : Fmt) (rnd : Rnd) (ftz : Bool) (c d : Val) (s : Val) : Nat × Flags :=
  match c, d, s with
  | .num n m e, .num dneg dm de, .num sn sm se =>
    if m = 0 ∨ sm = 0 then F.pack rnd false ftz (.num (n != sn) 0 0)
    else packTerms F rnd ftz [⟨Val.signed n m, e, Val.signed dneg dm, de⟩] sn sm se
  | _, _, _ =>
    let x : Val := match d with
      | .nan => .nan
      | .inf neg => (Val.mul c (if neg then .num false 0 0 else .inf false)).1
      | .num .. => c
    F.pack rnd false ftz (match x, s with
      | .inf a, .num b _ _ => .inf (a != b)
      | .num a _ _, .inf b => .num (a != b) 0 0
      | .num a _ _, .num b _ _ => .num (a != b) 0 0
      | _, _ => .nan)

/-! ### VSFU (R141, R142) -/

/-- The functions of VSFU. -/
inductive Sfu where
  | rcp | rsq | exp2 | log2 | tanh
  deriving DecidableEq, Repr

/-- The special inputs of R142: the result and whether it is invalid; none for an input that the function computes. -/
def Sfu.special (f : Sfu) (x : Val) : Option (Val × Bool) :=
  let one : Val := .num false 1 0
  match f, x with
  | _, .nan => some (.nan, false)
  | .rcp, .num n 0 _ => some (.inf n, false)
  | .rcp, .inf n => some (.num n 0 0, false)
  | .rsq, .num n 0 _ => some (.inf n, false)
  | .rsq, .inf false => some (.num false 0 0, false)
  | .rsq, .inf true => some (.nan, true)
  | .rsq, .num true _ _ => some (.nan, true)
  | .exp2, .num _ 0 _ => some (one, false)
  | .exp2, .inf false => some (.inf false, false)
  | .exp2, .inf true => some (.num false 0 0, false)
  | .log2, .num _ 0 _ => some (.inf true, false)
  | .log2, .inf false => some (.inf false, false)
  | .log2, .inf true => some (.nan, true)
  | .log2, .num true _ _ => some (.nan, true)
  | .tanh, .num n 0 _ => some (.num n 0 0, false)
  | .tanh, .inf n => some (.num n 1 0, false)
  | _, _ => none

/-- The enclosure of |tanh(m × 2^e)| at p bits: near 0 just below the argument, far out just below 1. -/
def tanhEncl (neg : Bool) (m : Nat) (e : Int) (p : Nat) : Encl :=
  let big := e + bitLen m
  if big < -30 then ⟨neg, m * 2 ^ 30 - 1, m * 2 ^ 30 - 1, e - 30⟩
  else if 6 < big then ⟨neg, 2 ^ 100 - 1, 2 ^ 100 - 1, -100⟩
  else
    let y := m * 2 ^ (e + 1 + p + 64).toNat / 2 ^ 64
    let l := ln2 p
    let x := expFix p (y % l)
    let err := 1024 * slop p
    let lo := (x - err) * 2 ^ (y / l)
    let hi := (x + err) * 2 ^ (y / l)
    ⟨neg, (lo - 2 ^ p) * 2 ^ p / (lo + 2 ^ p), (hi - 2 ^ p) * 2 ^ p / (hi + 2 ^ p) + 1, -(p : Int)⟩

/-- The enclosure of log2(m × 2^e) at p bits, m not a power of two. -/
def log2Encl (m : Nat) (e : Int) (p : Nat) : Encl :=
  let k := m.log2
  let n : Int := e + k
  let v := lnFix p m k * 2 ^ p / ln2 p
  let err := 4 * slop p
  let s : Int := n * 2 ^ p + v
  ⟨s < 0, s.natAbs - err, s.natAbs + err, -(p : Int)⟩

/-- A VSFU function of a value, rounded once; never NX (R60, R141, R142). -/
def Sfu.apply (f : Sfu) (F : Fmt) (rnd : Rnd) (sat ftz : Bool) (x : Val) : Nat × Flags :=
  let r := match f.special x with
    | some r => F.result rnd sat ftz r
    | none => match f, x with
      | .rcp, .num n m e => F.pack rnd sat ftz (ratio n 1 m (-e))
      | .rsq, .num _ m e =>
        let m := if e % 2 = 0 then m else 2 * m
        let e := if e % 2 = 0 then e else e - 1
        let q := 2 ^ 240 / m
        let t := isqrt 121 q
        F.pack rnd sat ftz (if 2 ^ 240 % m = 0 ∧ t * t = q then .num false t (-120 - e / 2)
          else .num false (2 * t + 1) (-121 - e / 2))
      | .exp2, .num n m e =>
        let t : Term := ⟨1, 0, Val.signed n m, e⟩
        if t.frac = 0 then F.pack rnd sat ftz (.num false 1 t.whole)
        else packIrr F rnd sat ftz (sumEncl [t] 1 0)
      | .log2, .num _ m e =>
        if m = 2 ^ m.log2 then F.pack rnd sat ftz (Val.ofInt .rne (e + m.log2) 0) else packIrr F rnd sat ftz (log2Encl m e)
      | .tanh, .num n m e => packIrr F rnd sat ftz (tanhEncl n m e)
      | _, _ => (F.nan, {})
  (r.1, r.2.noNx)

/-! ### Sine and cosine (R153) -/

/-- Sine and cosine of m × 2^e at p bits, within 64 units of `slop`. -/
def sincosFix (m : Nat) (e : Int) (p : Nat) : Int × Int :=
  let big := (e + bitLen m).toNat
  let pp := p + big + 16
  let half := piFix pp / 2
  let x := m * 2 ^ (e + pp).toNat
  let k := (x + half / 2) / half
  let r : Int := (x : Int) - k * half
  let a := r.natAbs / 2 ^ (pp - p)
  let y := a * a / 2 ^ p
  let sn := altSum p y (p / 3 + 12) a 1
  let sn := if r < 0 then -sn else sn
  let cs := altSum p y (p / 3 + 12) (2 ^ p) 0
  match k % 4 with
  | 0 => (sn, cs)
  | 1 => (cs, -sn)
  | 2 => (-sn, -cs)
  | _ => (-cs, sn)

/-- The enclosure of a signed fixed-point number at p bits. -/
def fixEncl (p : Nat) (i : Int) : Encl := ⟨i < 0, i.natAbs - 64 * slop p, i.natAbs + 64 * slop p, -(p : Int)⟩

/-- RoundTo(sin th, f32, rne) of a number (R153). -/
def sinF32 (neg : Bool) (m : Nat) (e : Int) : Nat × Flags :=
  if m = 0 then f32.pack .rne false false (.num neg 0 0)
  else if e + bitLen m < -30 then packIrr f32 .rne false false fun _ => ⟨neg, m * 2 ^ 30 - 1, m * 2 ^ 30 - 1, e - 30⟩
  else packIrr f32 .rne false false fun p =>
    let x := fixEncl p (sincosFix m e p).1
    { x with neg := x.neg != neg }

/-- RoundTo(cos th, f32, rne) of a number (R153). -/
def cosF32 (m : Nat) (e : Int) : Nat × Flags :=
  if m = 0 then f32.pack .rne false false (.num false 1 0)
  else if e + bitLen m < -30 then packIrr f32 .rne false false fun _ => ⟨false, 2 ^ 60 - 1, 2 ^ 60 - 1, -60⟩
  else packIrr f32 .rne false false fun p => fixEncl p (sincosFix m e p).2

end Sys2Proof.Machine
end

