-- ==== Sys2Proof/Machine/Vector.lean ====
section
/-!
DEFINITION. The meanings of the vector unit's VFP, VBIT, VMASK, VCVT, VSFU and VPERM (R132 to R144).
-/
namespace Sys2Proof.Machine
open State

/-- What an instruction takes from its MOD and its context at issue: type and width, rounding, saturation, flushing, the lane
mask and zeroing (R133, R134). -/
structure VEnv where
  ty : Nat
  w : Nat
  rnd : Rnd
  sat : Bool
  ftz : Bool
  k : Lane
  z : Bool
  deriving DecidableEq, Repr

/-- The environment of a vector instruction. -/
def venv (x : Ctx) (m : VMod) : VEnv :=
  { ty := m.ty.toNat, w := typeWidth m.ty.toNat, rnd := rounding m x.fmode, sat := m.sat == 1#1, ftz := fmodeFtz x.fmode,
    k := x.rk m.mask.toNat, z := m.z == 1#1 }

/-- Read operand A through its latch. -/
def readA (c : Core) (k : Nat) (m : VMod) (a : Fld) : Except Stop (VReg × Core) := c.readVec k .a (m.hold.getLsbD 0) a
/-- Read operand B through its latch. -/
def readB (c : Core) (k : Nat) (m : VMod) (b : Fld) : Except Stop (VReg × Core) := c.readVec k .b (m.hold.getLsbD 1) b
/-- Read operand C through its latch. -/
def readC (c : Core) (k : Nat) (m : VMod) (f : Fld) : Except Stop (VReg × Core) := c.readVec k .c (m.hold.getLsbD 2) f

/-- The lanes that an instruction under a mask writes: those enabled, or with zeroing all (R133). -/
def VEnv.lanes (e : VEnv) : Lane := if e.z then 0xFFFFFFFF#32 else e.k

/-- Write the lanes `w` of a vector result with the flags it raised. -/
def writePart (c : Core) (k : Nat) (d : Fld) (w : Lane) (r : VReg × Flags) : Core :=
  (c.wvPart k d.toNat r.1 w).updCtx k (·.raise r.2)

/-- Write a whole vector result with the flags it raised. -/
def writeResult (c : Core) (k : Nat) (d : Fld) (r : VReg × Flags) : Core := writePart c k d 0xFFFFFFFF#32 r

/-- An elementwise instruction over A (R133). -/
def vec1 (s : State) (d a : Fld) (m : VMod) (f : VEnv → Nat → Nat × Flags) : State :=
  let k := s.slot
  let e := venv s.me m
  s.finish 8 do
    let (va, c) ← readA s.here k m a
    .ok (writePart c k d e.lanes (maskedResult e.w e.k e.z (c.rv k d.toNat) fun j => f e (elem e.w va j)))

/-- An elementwise instruction over A and B (R133). -/
def vec2 (s : State) (d a b : Fld) (m : VMod) (f : VEnv → Nat → Nat → Nat × Flags) : State :=
  let k := s.slot
  let e := venv s.me m
  s.finish 8 do
    let (va, c) ← readA s.here k m a
    let (vb, c) ← readB c k m b
    .ok (writePart c k d e.lanes (maskedResult e.w e.k e.z (c.rv k d.toNat) fun j => f e (elem e.w va j) (elem e.w vb j)))

/-- An elementwise instruction over A, B and C (R133). -/
def vec3 (s : State) (d a b c : Fld) (m : VMod) (f : VEnv → Nat → Nat → Nat → Nat × Flags) : State :=
  let k := s.slot
  let e := venv s.me m
  s.finish 8 do
    let (va, h) ← readA s.here k m a
    let (vb, h) ← readB h k m b
    let (vc, h) ← readC h k m c
    .ok (writePart h k d e.lanes (maskedResult e.w e.k e.z (h.rv k d.toNat) fun j =>
      f e (elem e.w va j) (elem e.w vb j) (elem e.w vc j)))

/-! ### VFP (R136) -/

/-- One operand: the floating-point or the integer rule of an entry. -/
def num1 (ff : Val → Val) (fi : Int → Int) (e : VEnv) (x : Nat) : Nat × Flags :=
  match fmtOf e.ty with
  | some F => F.pack e.rnd e.sat e.ftz (ff (F.unpack e.ftz x))
  | none => (wrapInt e.w e.sat (fi (BitVec.ofNat e.w x).toInt), {})

/-- Two operands. -/
def num2 (ff : Rnd → Val → Val → Val × Bool) (fi : Int → Int → Int) (e : VEnv) (x y : Nat) : Nat × Flags :=
  match fmtOf e.ty with
  | some F => F.result e.rnd e.sat e.ftz (ff e.rnd (F.unpack e.ftz x) (F.unpack e.ftz y))
  | none => (wrapInt e.w e.sat (fi (BitVec.ofNat e.w x).toInt (BitVec.ofNat e.w y).toInt), {})

/-- ±(a × b) ± c, one rounding. -/
def num3 (np nc : Bool) (e : VEnv) (x y z : Nat) : Nat × Flags :=
  match fmtOf e.ty with
  | some F =>
    let a := F.unpack e.ftz x
    let c := F.unpack e.ftz z
    F.result e.rnd e.sat e.ftz (Val.fma e.rnd (if np then a.neg else a) (F.unpack e.ftz y) (if nc then c.neg else c))
  | none => (0, {})

/-- a + b (R136). -/
def vaddElem : VEnv → Nat → Nat → Nat × Flags := num2 Val.add (· + ·)
/-- The smaller (R136). -/
def vminElem : VEnv → Nat → Nat → Nat × Flags := num2 (fun _ x y => (x.minV y, false)) min
/-- The larger (R136). -/
def vmaxElem : VEnv → Nat → Nat → Nat × Flags := num2 (fun _ x y => (x.maxV y, false)) max

/-- VADD (R136). -/
def execVadd (d a b : Fld) (m : VMod) (s : State) : Out := .next (vec2 s d a b m vaddElem)
/-- VSUB (R136). -/
def execVsub (d a b : Fld) (m : VMod) (s : State) : Out :=
  .next (vec2 s d a b m (num2 (fun r x y => Val.add r x y.neg) (· - ·)))
/-- VMUL (R136). -/
def execVmul (d a b : Fld) (m : VMod) (s : State) : Out := .next (vec2 s d a b m (num2 (fun _ => Val.mul) (· * ·)))
/-- VFMA (R136). -/
def execVfma (d a b c : Fld) (m : VMod) (s : State) : Out := .next (vec3 s d a b c m (num3 false false))
/-- VFMS (R136). -/
def execVfms (d a b c : Fld) (m : VMod) (s : State) : Out := .next (vec3 s d a b c m (num3 false true))
/-- VFNMA (R136). -/
def execVfnma (d a b c : Fld) (m : VMod) (s : State) : Out := .next (vec3 s d a b c m (num3 true false))
/-- VMIN (R136). -/
def execVmin (d a b : Fld) (m : VMod) (s : State) : Out := .next (vec2 s d a b m vminElem)
/-- VMAX (R136). -/
def execVmax (d a b : Fld) (m : VMod) (s : State) : Out := .next (vec2 s d a b m vmaxElem)
/-- VABS (R136). -/
def execVabs (d a : Fld) (m : VMod) (s : State) : Out := .next (vec1 s d a m (num1 Val.abs fun i => i.natAbs))
/-- VNEG (R136). -/
def execVneg (d a : Fld) (m : VMod) (s : State) : Out := .next (vec1 s d a m (num1 Val.neg fun i => -i))

/-! ### VBIT (R137) -/

/-- A bitwise or shift result, which raises no flag. -/
def bits2 (f : Nat → Nat → Nat → Nat) (e : VEnv) (x y : Nat) : Nat × Flags := (f e.w x y, {})

/-- VAND (R137). -/
def execVand (d a b : Fld) (m : VMod) (s : State) : Out := .next (vec2 s d a b m (bits2 fun _ x y => x &&& y))
/-- VOR (R137). -/
def execVor (d a b : Fld) (m : VMod) (s : State) : Out := .next (vec2 s d a b m (bits2 fun _ x y => x ||| y))
/-- VXOR (R137). -/
def execVxor (d a b : Fld) (m : VMod) (s : State) : Out := .next (vec2 s d a b m (bits2 fun _ x y => x ^^^ y))
/-- VSHL (R137). -/
def execVshl (d a b : Fld) (m : VMod) (s : State) : Out :=
  .next (vec2 s d a b m (bits2 fun w x y => if w ≤ y then 0 else x * 2 ^ y % 2 ^ w))
/-- VSHR (R137). -/
def execVshr (d a b : Fld) (m : VMod) (s : State) : Out :=
  .next (vec2 s d a b m (bits2 fun w x y => if w ≤ y then 0 else x / 2 ^ y))
/-- VSAR (R137). -/
def execVsar (d a b : Fld) (m : VMod) (s : State) : Out :=
  .next (vec2 s d a b m (bits2 fun w x y => ((BitVec.ofNat w x).sshiftRight (Nat.min y (w - 1))).toNat))

/-! ### VMASK (R138, R139) -/

/-- The condition of VCMP on f32 values (R138). -/
def fcond (cc : Nat) (x y : Val) : Bool :=
  match cc with
  | 0 => x.eq y
  | 1 => !x.eq y
  | 2 => x.lt y
  | 3 => y.lt x || x.eq y
  | 6 => y.lt x
  | 7 => x.lt y || x.eq y
  | _ => x.isNan || y.isNan

/-- The condition of VCMP on elements (R138). -/
def vcond (cc : Nat) (e : VEnv) (x y : Nat) : Bool :=
  if e.ty = 0 then fcond cc (f32.unpack e.ftz x) (f32.unpack e.ftz y) else condHolds cc (BitVec.ofNat 32 x) (BitVec.ofNat 32 y)

/-- A lane mask from its bits. -/
def ofBits (f : Nat → Bool) : Lane := BitVec.ofNat 32 (((List.range 32).map fun l => if f l then 2 ^ l else 0).sum)

/-- VCMP (R138). -/
def execVcmp (cc d a b : Fld) (m : VMod) (s : State) : Out :=
  let k := s.slot
  let e := venv s.me m
  .next (s.finish 8 do
    let (va, c) ← readA s.here k m a
    let (vb, c) ← readB c k m b
    let old := s.me.rk d.toNat
    let r := ofBits fun l =>
      if e.k.getLsbD l then vcond cc.toNat e (elem 32 va l) (elem 32 vb l) else !e.z && old.getLsbD l
    .ok (c.updCtx k (·.wk d.toNat r)))

/-- VSEL (R139). -/
def execVsel (d a b c : Fld) (m : VMod) (s : State) : Out :=
  let k := s.slot
  let sel := s.me.rk c.toNat
  .next (s.finish 8 do
    let (va, h) ← readA s.here k m a
    let (vb, h) ← readB h k m b
    .ok (h.wv k d.toNat (ofElems 32 ((List.range 32).map fun l => elem 32 (if sel.getLsbD l then va else vb) l))))

/-- K[D] ← a function of lane masks (R139). -/
def maskOp (s : State) (d : Fld) (v : Lane) : State := (s.updMe (·.wk d.toNat v)).advance 8

/-- KAND (R139). -/
def execKand (d a b : Fld) (s : State) : Out := .next (maskOp s d (s.me.rk a.toNat &&& s.me.rk b.toNat))
/-- KOR (R139). -/
def execKor (d a b : Fld) (s : State) : Out := .next (maskOp s d (s.me.rk a.toNat ||| s.me.rk b.toNat))
/-- KXOR (R139). -/
def execKxor (d a b : Fld) (s : State) : Out := .next (maskOp s d (s.me.rk a.toNat ^^^ s.me.rk b.toNat))
/-- KNOT (R139). -/
def execKnot (d a : Fld) (s : State) : Out := .next (maskOp s d (~~~(s.me.rk a.toNat)))
/-- KMOV_TO_MASK (R139). -/
def execKmovToMask (d a : Fld) (s : State) : Out := .next (maskOp s d ((s.me.rg a.toNat).setWidth 32))
/-- KMOV_FROM_MASK (R139). -/
def execKmovFromMask (d a : Fld) (s : State) : Out :=
  .next ((s.updMe (·.wg d.toNat ((s.me.rk a.toNat).setWidth 64))).advance 8)

/-! ### VCVT (R140) -/

/-- VCVT: group PA of A into group PD of D (R140). -/
def execVcvt (src d a : Fld) (pd pa : BitVec 2) (m : VMod) (s : State) : Out :=
  let k := s.slot
  let e := venv s.me m
  let ws := typeWidth src.toNat
  .next (s.finish 8 do
    let (va, c) ← readA s.here k m a
    let old := c.rv k d.toNat
    let rs := (List.range (1024 / e.w)).map fun j =>
      if j / 32 ≠ pd.toNat then (elem e.w old j, ({} : Flags))
      else if e.k.getLsbD (j % 32) then convertElem src.toNat e.ty e.rnd e.sat e.ftz (elem ws va (32 * pa.toNat + j % 32))
      else (if e.z then 0 else elem e.w old j, {})
    let whole := ofBits fun l => (List.range (32 / e.w)).all fun b =>
      let j := l * (32 / e.w) + b
      j / 32 == pd.toNat && e.lanes.getLsbD (j % 32)
    .ok (writePart c k d whole (ofElems e.w (rs.map (·.1)), rs.foldl (fun f r => f.or r.2) {})))

/-! ### VSFU (R141, R142) -/

/-- A VSFU function of an element. -/
def sfuElem (f : Sfu) (e : VEnv) (x : Nat) : Nat × Flags :=
  match fmtOf e.ty with
  | some F => f.apply F e.rnd e.sat e.ftz (F.unpack e.ftz x)
  | none => (0, {})

/-- VRCP (R141). -/
def execVrcp (d a : Fld) (m : VMod) (s : State) : Out := .next (vec1 s d a m (sfuElem .rcp))
/-- VRSQ (R141). -/
def execVrsq (d a : Fld) (m : VMod) (s : State) : Out := .next (vec1 s d a m (sfuElem .rsq))
/-- VEXP2 (R141). -/
def execVexp2 (d a : Fld) (m : VMod) (s : State) : Out := .next (vec1 s d a m (sfuElem .exp2))
/-- VLOG2 (R141). -/
def execVlog2 (d a : Fld) (m : VMod) (s : State) : Out := .next (vec1 s d a m (sfuElem .log2))
/-- VTANH (R141). -/
def execVtanh (d a : Fld) (m : VMod) (s : State) : Out := .next (vec1 s d a m (sfuElem .tanh))

/-! ### VPERM: moves and permutations (R143) -/

/-- VBCAST (R143). -/
def execVbcast (d a : Fld) (m : VMod) (s : State) : Out :=
  let k := s.slot
  let e := venv s.me m
  let v := (s.me.rg a.toNat).toNat % 2 ^ e.w
  .next (s.finish 8 (.ok (writePart s.here k d e.lanes (maskedResult e.w e.k e.z (s.here.rv k d.toNat) fun _ => (v, {})))))

/-- VEXT (R143). -/
def execVext (d a b : Fld) (m : VMod) (s : State) : Out :=
  let k := s.slot
  let w := typeWidth m.ty.toNat
  .next (s.finish 8 do
    let (va, c) ← readA s.here k m a
    let x := elem w va ((s.me.rg b.toNat).toNat % (1024 / w))
    .ok (c.wg k d.toNat (if (fmtOf m.ty.toNat).isSome then BitVec.ofNat 64 x else sextTo w (BitVec.ofNat 64 x))))

/-- VINS (R143). -/
def execVins (d a b : Fld) (m : VMod) (s : State) : Out :=
  let k := s.slot
  let w := typeWidth m.ty.toNat
  let i := (s.me.rg b.toNat).toNat % (1024 / w)
  .next (s.finish 8 do
    let old ← s.here.readBank k d
    .ok (s.here.wv k d.toNat (ofElems w ((List.range (1024 / w)).map fun j =>
      if j = i then (s.me.rg a.toNat).toNat % 2 ^ w else elem w old j))))

/-- VPERM (R143). -/
def execVperm (d a b : Fld) (m : VMod) (s : State) : Out :=
  let k := s.slot
  let e := venv s.me m
  .next (s.finish 8 do
    let (va, c) ← readA s.here k m a
    let (vb, c) ← readB c k m b
    .ok (writePart c k d e.lanes (maskedResult e.w e.k e.z (c.rv k d.toNat) fun j => (elem e.w va (elem e.w vb j % (1024 / e.w)), {}))))

/-- VROT (R143). -/
def execVrot (d a b : Fld) (m : VMod) (s : State) : Out :=
  let k := s.slot
  let e := venv s.me m
  let r := (s.me.rg b.toNat).toNat % (1024 / e.w)
  .next (s.finish 8 do
    let (va, c) ← readA s.here k m a
    .ok (writePart c k d e.lanes (maskedResult e.w e.k e.z (c.rv k d.toNat) fun j => (elem e.w va ((j + r) % (1024 / e.w)), {}))))

/-! ### VPERM: reductions and the scan (R63, R144) -/

/-- One level of the tree of R63. -/
def pairUp {α : Type} (f : α → α → α) : List α → List α
  | a :: b :: rest => f a b :: pairUp f rest
  | rest => rest

/-- The tree of R63 over 32 elements, with the flags of every level. -/
def tree32 (op : Nat → Nat → Nat × Flags) (xs : List Nat) : Nat × Flags :=
  let comb : Nat × Flags → Nat × Flags → Nat × Flags := fun a b =>
    let r := op a.1 b.1
    (r.1, (a.2.or b.2).or r.2)
  let level := pairUp comb
  (level (level (level (level (level (xs.map fun x => (x, {}))))))).headD (0, {})

/-- The identities of R63 and R144: of a sum, a maximum, a minimum, for f32 and for i32. -/
def redIdentity (ty which : Nat) : Nat :=
  match which, ty with
  | 0, 0 => 0x80000000
  | 0, _ => 0
  | 1, 0 => 0xFF800000
  | 1, _ => 0x80000000
  | _, 0 => 0x7F800000
  | _, _ => 0x7FFFFFFF

/-- How the additions inside a reduction or scan round: on f32 with no saturation, which applies to what is written (R55, R144); on i32
each clamps or wraps (R46). -/
def VEnv.partialSum (e : VEnv) : VEnv := if e.ty = 0 then { e with sat := false } else e

/-- A sum as it is written to D: on f32 saturated where SAT is set (R24, R55, R134). -/
def satElem (e : VEnv) (x : Nat) : Nat := if e.ty = 0 ∧ e.sat then (f32.pack e.rnd true e.ftz (f32.unpack e.ftz x)).1 else x

/-- A reduction (R63, R144): lane 0 the result, the others 0. -/
def reduce (s : State) (d a : Fld) (m : VMod) (which : Nat) (op : VEnv → Nat → Nat → Nat × Flags) : State :=
  let k := s.slot
  let e := venv s.me m
  s.finish 8 do
    let (va, c) ← readA s.here k m a
    let r := tree32 (op e.partialSum) ((List.range 32).map fun l => if e.k.getLsbD l then elem 32 va l else redIdentity e.ty which)
    .ok (writeResult c k d (ofElems 32 [satElem e r.1], r.2))

/-- VREDADD (R144). -/
def execVredadd (d a : Fld) (m : VMod) (s : State) : Out := .next (reduce s d a m 0 vaddElem)
/-- VREDMAX (R144). -/
def execVredmax (d a : Fld) (m : VMod) (s : State) : Out := .next (reduce s d a m 1 vmaxElem)
/-- VREDMIN (R144). -/
def execVredmin (d a : Fld) (m : VMod) (s : State) : Out := .next (reduce s d a m 2 vminElem)

/-- The serial prefix sum of R144 from lane `l` with running sum `t`: the lanes' results and the flags. -/
def scanLanes (e : VEnv) (va old : VReg) : List Nat → Nat → List Nat × Flags
  | [], _ => ([], {})
  | l :: ls, t =>
    if e.k.getLsbD l then
      let r := vaddElem e.partialSum t (elem 32 va l)
      let q := scanLanes e va old ls r.1
      (r.1 :: q.1, r.2.or q.2)
    else
      let q := scanLanes e va old ls t
      ((if e.z then 0 else elem 32 old l) :: q.1, q.2)

/-- VSCAN (R144). -/
def execVscan (d a : Fld) (m : VMod) (s : State) : Out :=
  let k := s.slot
  let e := venv s.me m
  .next (s.finish 8 do
    let (va, c) ← readA s.here k m a
    let r := scanLanes e va (c.rv k d.toNat) (List.range 32) (redIdentity e.ty 0)
    let sat := r.1.zipIdx.map fun p => if e.k.getLsbD p.2 then satElem e p.1 else p.1
    .ok (writePart c k d e.lanes (ofElems 32 sat, r.2)))

end Sys2Proof.Machine
end

