-- ==== Sys2Proof/Machine/VecMem.lean ====
section
/-!
DEFINITION. The meanings of VMEM (R145, R146), VLDL (R147), and VATTN: the online softmax (R64, R148 to R150) and the rotary
encoding (R151 to R153).
-/
namespace Sys2Proof.Machine
open State

/-! ### Lane accesses (R146) -/

/-- The lanes a mask enables, in lane order. -/
def lanesOf (k : Lane) : List Nat := (List.range 32).filter k.getLsbD

/-- Step 1 of R146 for VLD and VST: BOUNDS above 0xB_FF80, then ALIGN to 8. -/
def blockLanes (a : Word) (k : Lane) : Except Stop (List (Nat × Nat)) := do
  trapIf (0xBFF80 < a.toNat) .bounds a
  trapIf (a.toNat % 8 != 0) .align a
  .ok ((lanesOf k).map fun l => (l, a.toNat + 4 * l))

/-- Step 1 of R146 for the others: each enabled lane in lane order. -/
def eachLane (addr : Nat → Word) : List Nat → Except Stop (List (Nat × Nat))
  | [] => .ok []
  | l :: ls => do
    trapIf (0xBFFFC < (addr l).toNat) .bounds (addr l)
    trapIf ((addr l).toNat % 4 != 0) .align (addr l)
    let rest ← eachLane addr ls
    .ok ((l, (addr l).toNat) :: rest)

/-- The byte ranges that lanes access. -/
def laneRanges (ls : List (Nat × Nat)) : List (Nat × Nat) := ls.map fun p => (p.2, 4)

/-- Load the lanes and write D under the mask (R133, R146). -/
def loadLanes (c : Core) (k : Nat) (d : Fld) (e : VEnv) (ls : List (Nat × Nat)) : Except Stop Core := do
  let c ← c.readRanges k (laneRanges ls)
  let old := c.rv k d.toNat
  let v := ofElems 32 ((List.range 32).map fun l =>
    match ls.find? (·.1 == l) with
    | some p => c.sp.mem.readLE p.2 4
    | none => if e.z then 0 else elem 32 old l)
  .ok (c.wvPart k d.toNat v (ofBits fun l => e.z || ls.any (·.1 == l)))

/-- The words that 4-byte stores overwrite whole lose their poison (R130). -/
def Spad.clearLanes (sp : Spad) (as : List Nat) : Spad :=
  { sp with poison := sp.poison.filter fun w => !(as.contains (w * 8) && as.contains (w * 8 + 4)) }

/-- Store the lanes of a register, a higher lane over a lower one (R146). -/
def storeLanes (c : Core) (k : Nat) (v : VReg) (ls : List (Nat × Nat)) : Except Stop Core := do
  let c ← c.writeRanges k (laneRanges ls)
  .ok (c.updSp fun sp =>
    ls.foldl (fun sp p => { sp with mem := sp.mem.writeLE p.2 4 (elem 32 v p.1) }) (sp.clearLanes (ls.map (·.2))))

/-- VLD (R145). -/
def execVld (d a : Fld) (m : VMod) (s : State) : Out :=
  let e := venv s.me m
  .next (s.finish 8 do
    let ls ← blockLanes (s.me.rg a.toNat) e.k
    loadLanes s.here s.slot d e ls)

/-- VST (R145). -/
def execVst (b a : Fld) (m : VMod) (s : State) : Out :=
  let e := venv s.me m
  .next (s.finish 8 do
    let ls ← blockLanes (s.me.rg a.toNat) e.k
    let (v, c) ← readB s.here s.slot m b
    storeLanes c s.slot v ls)

/-- VLDS (R145). -/
def execVlds (d a b : Fld) (m : VMod) (s : State) : Out :=
  let e := venv s.me m
  .next (s.finish 8 do
    let ls ← eachLane (fun l => s.me.rg a.toNat + BitVec.ofNat 64 l * s.me.rg b.toNat) (lanesOf e.k)
    loadLanes s.here s.slot d e ls)

/-- VSTS (R145). -/
def execVsts (b a c : Fld) (m : VMod) (s : State) : Out :=
  let e := venv s.me m
  .next (s.finish 8 do
    let ls ← eachLane (fun l => s.me.rg a.toNat + BitVec.ofNat 64 l * s.me.rg c.toNat) (lanesOf e.k)
    let (v, h) ← readB s.here s.slot m b
    storeLanes h s.slot v ls)

/-- The address of an indexed lane (R145). -/
def indexAddr (base : Word) (v : VReg) (l : Nat) : Word := base + BitVec.ofNat 64 (4 * elem 32 v l)

/-- VGATH (R145). -/
def execVgath (d a b : Fld) (m : VMod) (s : State) : Out :=
  let e := venv s.me m
  .next (s.finish 8 do
    let (ix, c) ← readB s.here s.slot m b
    let ls ← eachLane (indexAddr (s.me.rg a.toNat) ix) (lanesOf e.k)
    loadLanes c s.slot d e ls)

/-- VSCAT (R145). -/
def execVscat (b a c : Fld) (m : VMod) (s : State) : Out :=
  let e := venv s.me m
  .next (s.finish 8 do
    let (v, h) ← readB s.here s.slot m b
    let (ix, h) ← readC h s.slot m c
    let ls ← eachLane (indexAddr (s.me.rg a.toNat) ix) (lanesOf e.k)
    storeLanes h s.slot v ls)

/-- VLDL (R147). -/
def execVldl (d : Fld) (_ty : BitVec 3) (imm : BitVec 32) (s : State) : Out :=
  .next (s.finish 12 do
    let v ← codeLiteral s.here (s.me.pc + immWord imm) 32 128
    .ok (s.here.wv s.slot d.toNat (BitVec.ofNat 1024 v)))

/-! ### Online softmax (R64, R148 to R150) -/

/-- The softmax flags: never NV (R148). -/
def Flags.noNv (f : Flags) : Flags := { f with nv := false }

/-- Whether a value is −∞. -/
def isNegInf (v : Val) : Bool := v == .inf true

/-- VSMAX on the scores and the state (R149): the new state and the flags. -/
def smaxState (e : VEnv) (va vb : VReg) : VReg × Flags :=
  let un : Nat → Val := f32.unpack e.ftz
  let xs := (lanesOf e.k).map fun l => un (elem 32 va l)
  let m := un (elem 32 vb 0)
  let sv := un (elem 32 vb 1)
  let st := elem 32 vb 2 % 8
  let st := if xs.any Val.isNan then st ||| 1 else st
  let st := if xs.any (· == .inf false) then st ||| 2 else st
  let bad := st % 4 != 0
  let m2 := if bad then .nan else xs.foldl Val.maxV m
  let r := if bad then (f32.nan, {})
    else
      let d : Val := if isNegInf m2 then .num false 0 0 else if isNegInf m then .inf true else (Val.add .rne m2.neg m).1
      packScaled f32 e.rnd e.ftz sv d (.num false 1 0)
  let st := if isNegInf m2 then st ||| 4 else st % 4
  (ofElems 32 [(f32.pack .rne false e.ftz m2).1, r.1, st], r.2.noNv)

/-- VSMAX (R149). -/
def execVsmax (d a b : Fld) (m : VMod) (s : State) : Out :=
  let e := venv s.me m
  .next (s.finish 8 do
    let (va, c) ← readA s.here s.slot m a
    let (vb, c) ← readB c s.slot m b
    .ok (writeResult c s.slot d (smaxState e va vb)))

/-- RoundTo(2^(a − m) / s, f32, mode) of a score (R150). -/
def expTerm (e : VEnv) (m sv : Val) (x : Nat) : Nat × Flags :=
  let r := packScaled f32 e.rnd e.ftz (.num false 1 0) (Val.add .rne (f32.unpack e.ftz x) m.neg).1 sv
  (r.1, r.2.noNv)

/-- A score under VSEXP.p or VSEXP.norm (R150). -/
def sexpElem (norm : Bool) (e : VEnv) (st : VReg) (x : Nat) : Nat × Flags :=
  let m := f32.unpack e.ftz (elem 32 st 0)
  let sv := f32.unpack e.ftz (elem 32 st 1)
  if elem 32 st 2 % 4 ≠ 0 then (f32.nan, {})
  else if isNegInf m then (0, {})
  else if norm then
    match sv with
    | .num _ 0 _ => (f32.nan, { nv := true })
    | sv => expTerm e m sv x
  else expTerm e m (.num false 1 0) x

/-- VSEXP.p or .norm: the scores of A under the state in B. -/
def sexp (s : State) (d a b : Fld) (m : VMod) (norm : Bool) : State :=
  let k := s.slot
  let e := venv s.me m
  s.finish 8 do
    let (va, c) ← readA s.here k m a
    let (vb, c) ← readB c k m b
    .ok (writePart c k d e.lanes (maskedResult 32 e.k e.z (c.rv k d.toNat) fun j => sexpElem norm e vb (elem 32 va j)))

/-- VSEXP_P (R150). -/
def execVsexpP (d a b : Fld) (m : VMod) (s : State) : Out := .next (sexp s d a b m false)
/-- VSEXP_NORM (R150). -/
def execVsexpNorm (d a b : Fld) (m : VMod) (s : State) : Out := .next (sexp s d a b m true)

/-- VSEXP.acc on the scores and the state (R150): lane 1 changes, lanes 0 and 2 do not. DESIGN CHOICE: lanes 3 to 31, of which R148 says
'zero when written' and R150 nothing, keep what they hold (log 27). DESIGN CHOICE: with FTZ the terms and the sums of the tree, each a
RoundTo of its own, are flushed too (R58; log 27). -/
def sexpAcc (e : VEnv) (va st : VReg) : VReg × Flags :=
  let m := f32.unpack e.ftz (elem 32 st 0)
  let put : Nat → VReg := fun v => ofElems 32 ((List.range 32).map fun l => if l = 1 then v else elem 32 st l)
  if elem 32 st 2 % 4 ≠ 0 then (put f32.nan, {})
  else if isNegInf m then (st, {})
  else
    let add : Nat → Nat → Nat × Flags := fun x y =>
      f32.result e.rnd false e.ftz (Val.add e.rnd (f32.unpack e.ftz x) (f32.unpack e.ftz y))
    let ts := (List.range 32).map fun l =>
      if e.k.getLsbD l then expTerm e m (.num false 1 0) (elem 32 va l) else (0x80000000, {})
    let sum := tree32 add (ts.map (·.1))
    let r := add (elem 32 st 1) sum.1
    (put r.1, (((ts.foldl (fun (f : Flags) t => f.or t.2) {}).or sum.2).or r.2).noNv)

/-- VSEXP_ACC (R150). -/
def execVsexpAcc (d a : Fld) (m : VMod) (s : State) : Out :=
  let e := venv s.me m
  .next (s.finish 8 do
    let (va, c) ← readA s.here s.slot m a
    let st ← c.readBank s.slot d
    .ok (writeResult c s.slot d (sexpAcc e va st)))

/-! ### Rotary encoding (R151 to R153) -/

/-- The loads of a table that are on their way, oldest first. -/
def Core.bandLoads (c : Core) (t : Nat) : List BandLoad := c.un.bandNext.get t []

/-- A band table as an instruction that issues now finds it: the newest load that is ready, else what the table held (R152). -/
def bandsNow (c : Core) (t : Nat) : Tab Word :=
  match ((c.bandLoads t).filter fun l => l.ready ≤ c.bar.cycle.toNat).getLast? with
  | some l => l.bands
  | none => c.un.bands.get t {}

/-- A band table is loaded, ready 34 cycles from now; what stood there, or was ready, stays in use until then, as do the loads already on
their way from their ready times on (R135, R152). -/
def loadBands (c : Core) (k t : Nat) (band : Tab Word) : Core :=
  let due := (c.bandLoads t).filter fun l => c.bar.cycle.toNat < l.ready
  c.updUn fun u => { u with bands := u.bands.set t (bandsNow c t), bandVer := u.bandVer.set t ((u.bandVer.get t 0 + 1) % 2 ^ 16),
                            bandNext := u.bandNext.set t (due ++ [{ slot := k, bands := band, ready := c.bar.cycle.toNat + 34 }]) }

/-- Whether a load of a table by the context itself is not ready, so that its ROTAPP, which depends on it, is not either (R76, R135).
DESIGN CHOICE: the load is known by the slot of its context, so a helper that starts in the slot of one that has ended waits for that one's
load too (log 65). -/
def bandsDue (c : Core) (k t : Nat) : Bool := (c.bandLoads t).any fun l => l.slot == k && c.bar.cycle.toNat < l.ready

/-- ROTCFG (R152): field A not 0 loads table t from 256 bytes; in every case the context selects t. -/
def execRotcfg (t : BitVec 3) (a : Fld) (s : State) : Out :=
  let k := s.slot
  .next (s.finish 8 do
    let pick : Core → Core := fun c => c.updCtx k fun x => { x with rotSel := t }
    if a = 0#6 then .ok (pick s.here)
    else
      let p := s.me.rg a.toNat
      trapIf (0xBFF00 < p.toNat) .bounds p
      trapIf (p.toNat % 8 != 0) .align p
      let c ← s.here.readRanges k [(p.toNat, 256)]
      let band : Tab Word := (List.range 64).foldl
        (fun b i => b.set i (BitVec.ofNat 64 (c.sp.mem.readLE (p.toNat + 4 * i) 4))) {}
      .ok (pick (loadBands c k t.toNat band)))

/-- Pair i of ROTAPP (R153): lanes 2i and 2i + 1 with their flags. DESIGN CHOICE: FTZ flushes the inputs and the two results, not th, c
and sn, which no lane holds (R58 speaks of inputs and results); and of an angle that rounds to an infinity OF and NX are not set, since the
rule names only NV there (log 27). -/
def rotPair (e : VEnv) (pos fac x y : Nat) : (Nat × Flags) × (Nat × Flags) :=
  let un : Nat → Val := f32.unpack e.ftz
  let th := f32.result .rne false false (Val.mul (un pos) (un fac))
  let quiet := (un pos).isNan || (un fac).isNan || (un x).isNan || (un y).isNan
  match f32.unpack false th.1 with
  | .num n m ex =>
    let sn := sinF32 n m ex
    let cs := cosF32 m ex
    let sv := f32.unpack false sn.1
    let cv := f32.unpack false cs.1
    let both : Flags := (th.2.or sn.2).or cs.2
    let out : Val × Bool → Val → Nat × Flags := fun p q =>
      let r := Val.add e.rnd p.1 q
      let w := f32.result e.rnd e.sat e.ftz (r.1, r.2 || p.2)
      (w.1, w.2.or both)
    let ys := Val.mul (un y) sv
    let yc := Val.mul (un y) cv
    let xc := Val.mul (un x) cv
    let xs := Val.mul (un x) sv
    (out (xc.1, xc.2 || ys.2) ys.1.neg, out (xs.1, xs.2 || yc.2) yc.1)
  | _ =>
    let r : Nat × Flags := (f32.nan, { nv := !quiet })
    (r, r)

/-- ROTAPP (R153): not ready while the context's own load of the table is not (R135, log 65); another context's load shows from its
ready time on (R152). -/
def execRotapp (d a b band : Fld) (m : VMod) (s : State) : Out :=
  let k := s.slot
  let e := venv s.me m
  let pos := (s.me.rg b.toNat).toNat % 2 ^ 32
  let tab := bandsNow s.here s.me.rotSel.toNat
  .next (if bandsDue s.here k s.me.rotSel.toNat then s.stop .hold else s.finish 8 do
    let (va, c) ← readA s.here k m a
    let pairs := (List.range 16).map fun i =>
      rotPair e pos (tab.get (band.toNat + i) 0#64).toNat (elem 32 va (2 * i)) (elem 32 va (2 * i + 1))
    .ok (writePart c k d e.lanes (maskedResult 32 e.k e.z (c.rv k d.toNat) fun j =>
      let p := pairs.getD (j / 2) ((0, {}), (0, {}))
      if j % 2 = 0 then p.1 else p.2)))

end Sys2Proof.Machine
end

