-- ==== Sys2Proof/Machine/Matrix.lean ====
section
/-!
DEFINITION. The matrix unit: tiles (R53, R156), latch fills and sums (R51, R62, R155), the tile commands at issue (R158 to R162),
the sequencer's starts and steps (R113), and the direct instructions (R163 to R166).
-/
namespace Sys2Proof.Machine
open State

/-! ### Tile commands -/

/-- What the rules ask of a tile command: type, descriptor, group, a latch fill or not. -/
structure TileCmd where
  m : VMod
  e : EDesc
  grp : Nat
  deriving DecidableEq, Repr

/-- A tile command's parts. -/
def tileOf : Instr → Option TileCmd
  | .latch _ g m e => some ⟨m, e, g.toNat⟩
  | .gath _ _ _ g m e => some ⟨m, e, g.toNat⟩
  | .mepi _ m e => some ⟨m, e, 0⟩
  | .tmm _ _ m e => some ⟨m, e, 0⟩
  | _ => none

/-- Rows, columns and depth of a descriptor (R35). -/
def TileCmd.rows (t : TileCmd) : Nat := t.e.tm.toNat + 1
/-- Columns (R35). -/
def TileCmd.cols (t : TileCmd) : Nat := t.e.tn.toNat + 1
/-- Reduction depth (R35). -/
def TileCmd.depth (t : TileCmd) : Nat := t.e.tk.toNat + 1
/-- The planes of a side, code c reading c + 1 (R35). -/
def TileCmd.planes (t : TileCmd) (a : Bool) : Nat := (if a then t.e.pla.toNat else t.e.plb.toNat) + 1
/-- The handle and slot that a command works through. -/
def MatCmd.handle (c : MatCmd) : Option (Nat × Nat) :=
  match tileOf c.instr, c.hslot with
  | some t, some j => some (t.e.hnd.toNat, j)
  | _, _ => none
/-- The accumulator a command names: that of MEPI and TMM. -/
def MatCmd.acc (c : MatCmd) : Option Nat :=
  match c.instr with
  | .mepi _ _ e | .tmm _ _ _ e => some e.acc.toNat
  | _ => none
/-- The latch a command names: that of LATCH and GATH. -/
def MatCmd.lat (c : MatCmd) : Option Nat :=
  match c.instr with
  | .latch _ _ _ e | .gath _ _ _ _ _ e => some e.lat.toNat
  | _ => none

/-- The accumulator a running or queued command names also includes TMM's latches for what may not run beside it (R163). -/
def isTmm (c : MatCmd) : Bool :=
  match c.instr with
  | .tmm .. => true
  | _ => false

/-! ### Operands in the scratchpad (R53, R156) -/

/-- One side of an operand: the A side or the B side, its base, row count of the whole tile, element width and elements a row for
values; the planes read, planes stored, groups and scale base for plane data. -/
structure Side where
  a : Bool
  base : Nat
  colDir : Bool
  w : Nat
  len : Nat
  pl : Nat
  p : Nat
  g : Nat
  sbase : Nat
  deriving DecidableEq, Repr

/-- Words of 8 bytes in a stored row (R53, R156). -/
def Side.rowWords (d : Side) (plane : Bool) : Nat := if plane then (d.g * d.p + 1) / 2 else (d.len * d.w + 63) / 64

/-- The byte range of stored row r from element e0, for n elements. -/
def Side.elems (d : Side) (r e0 n : Nat) : Nat × Nat := (d.base + 8 * d.rowWords false * r + e0 * d.w / 8, n * d.w / 8)
/-- The byte range of the planes read of group g of stored row r (R53). DESIGN CHOICE: of a LATCH or GATH whose group is not below GA or
GB, which the spec neither checks nor excludes, the same formula gives addresses past the row (log 26). -/
def Side.planesAt (d : Side) (r g : Nat) : Nat × Nat := (d.base + 8 * d.rowWords true * r + 4 * g * d.p, 4 * d.pl)
/-- The scale byte of group g of stored row r (R53, R160). -/
def Side.scaleAt (d : Side) (r g : Nat) : Nat × Nat := (d.sbase + r * d.g + g, 1)

/-- The stored rows of a fill, in order, with the row or column of the operand each stands for: for values along the reduction
dimension or across it; `ix` maps an operand row to a table row. -/
def fillRanges (d : Side) (plane : Bool) (cnt k0 kn g : Nat) (ix : Nat → Nat) : List (Nat × Nat) :=
  if plane then (List.range cnt).flatMap fun i => [d.planesAt (ix i) g, d.scaleAt (ix i) g]
  else if d.colDir = d.a then (List.range kn).map fun k => d.elems (k0 + k) 0 cnt
  else (List.range cnt).map fun i => d.elems (ix i) k0 kn

/-- The plane integer of element l from its k plane words, most significant first (R51). -/
def planeInt (m : Mem) (at_ k l : Nat) : Int :=
  ((List.range k).map fun j =>
    if m.readLE (at_ + 4 * j) 4 / 2 ^ l % 2 = 1 then (if j = 0 then -(2 ^ (k - 1) : Int) else 2 ^ (k - 1 - j)) else 0).sum

/-- The latch record that a fill leaves (R155). -/
def fillLatch (m : Mem) (d : Side) (ty : BitVec 3) (mc : Bool) (cnt k0 kn g : Nat) (ix : Nat → Nat) : MLatch :=
  let plane := ty == 7#3
  let value : Nat → Nat → Int := fun i k =>
    if plane then planeInt m (d.planesAt (ix i) g).1 d.pl k
    else if d.colDir = d.a then m.readLE (d.elems (k0 + k) i 1).1 (d.w / 8)
    else m.readLE (d.elems (ix i) (k0 + k) 1).1 (d.w / 8)
  let vals : Tab Int := ⟨(List.range (if d.a then cnt else kn)).flatMap fun r =>
    (List.range (if d.a then kn else cnt)).map fun c => (r * 64 + c, if d.a then value r c else value c r)⟩
  { ty := ty, kn := kn, cnt := cnt, pl := d.pl, mc := plane && mc && d.pl < d.p, vals := vals,
    scales := if plane then ⟨(List.range cnt).map fun i => (i, (m.read (d.scaleAt (ix i) g).1).toNat)⟩ else {} }

/-- The tile's address G[A] + 8 × BASE (R35). -/
def tileBase (c : MatCmd) (t : TileCmd) : Nat := (c.ga + BitVec.ofNat 64 (8 * t.e.base.toNat)).toNat

/-- The A or B side of a command (R156, R160, R161). -/
def sideOf (c : MatCmd) (t : TileCmd) (a : Bool) : Side :=
  let ty := t.m.ty
  let fill := (c.lat).isSome
  let base := if a || fill then tileBase c t else c.gb.toNat
  let p := if a then c.cfg.pa else c.cfg.pb
  let g := if a then c.cfg.ga else c.cfg.gb
  let cnt := if a then t.rows else t.cols
  let colDir := if fill || a then t.e.dira == 1#1 else t.e.dirb == 1#1
  let len := if colDir = a then cnt else t.depth
  let gathered := match c.instr with
    | .gath .. => true
    | _ => false
  { a := a, base := base, colDir := colDir, w := typeWidth ty.toNat, len := len, pl := t.planes a, p := p, g := g,
    sbase := if gathered then c.gd.toNat else base + 8 * ((g * p + 1) / 2) * cnt }

/-- The table row of operand row i: the index for a gather, else i itself (R160). -/
def rowIx (c : MatCmd) (i : Nat) : Nat :=
  match c.instr with
  | .gath .. => elem 16 c.idx i
  | _ => i

/-- The byte ranges that a command's step s reads, of one side. -/
def readRangesOf (c : MatCmd) (t : TileCmd) (a : Bool) (s : Nat) : List (Nat × Nat) :=
  let cnt := if a then t.rows else t.cols
  let plane := t.m.ty == 7#3
  let fill := (c.lat).isSome
  let kn := if fill then t.depth else Nat.min 32 (t.depth - 32 * s)
  fillRanges (sideOf c t a) plane cnt (if fill then 0 else 32 * s) kn (if fill then t.grp else s) (rowIx c)

/-- The byte ranges that step s of a MEPI stores: rows 4s to 4s + 3 of the region (R156, R162). -/
def storeRanges (c : MatCmd) (t : TileCmd) (s : Nat) : List (Nat × Nat) :=
  let w := typeWidth t.m.ty.toNat
  let base := tileBase c t
  let rows := Nat.min 4 (t.rows - 4 * s)
  if t.e.dira = 0#1 then
    let stride := 8 * ((t.cols * w + 63) / 64)
    (List.range rows).map fun i => (base + stride * (4 * s + i), t.cols * w / 8)
  else
    let stride := 8 * ((t.rows * w + 63) / 64)
    (List.range t.cols).map fun j => (base + stride * j + 4 * s * w / 8, rows * w / 8)

/-- The rows of the table that a gather reads, by increasing index: the address of the row that the index selects, with the byte ranges
read of it (R160). -/
def gathered (c : MatCmd) (t : TileCmd) : List (Nat × List (Nat × Nat)) :=
  let d := sideOf c t t.e.aSide
  let plane := t.m.ty == 7#3
  (List.range (if t.e.aSide then t.rows else t.cols)).map fun j =>
    let x := rowIx c j
    (d.base + 8 * d.rowWords plane * x, if plane then [d.planesAt x t.grp, d.scaleAt x t.grp] else [d.elems x 0 t.depth])

/-- How many steps a command has (R113). -/
def stepsOf (c : MatCmd) (t : TileCmd) : Nat :=
  match c.instr with
  | .tmm .. => (t.depth + 31) / 32
  | .mepi .. => (t.rows + 3) / 4
  | _ => 1

/-- The bases that a command names, each with every byte range it will touch from there (R113). -/
def touched (c : MatCmd) (t : TileCmd) : List (Nat × List (Nat × Nat)) :=
  let steps := List.range (stepsOf c t)
  match c.instr with
  | .tmm .. => [true, false].map fun a => ((sideOf c t a).base, steps.flatMap (readRangesOf c t a))
  | .mepi .. => [(tileBase c t, steps.flatMap (storeRanges c t))]
  | _ => [((sideOf c t t.e.aSide).base, readRangesOf c t t.e.aSide 0)]

/-! ### Issue (R158) -/

/-- BOUNDS or ALIGN of a tile command: each base is a multiple of 8, and every byte from it lies in the scratchpad; EVAL is the
first 8-byte word, or scale byte, that fails (R113, R156). DESIGN CHOICE: where several fail, the A side comes before the B side, and a base's
ALIGN before BOUNDS of a byte from it (log 26). -/
def tileAddrs : List (Nat × List (Nat × Nat)) → Except Stop Unit
  | [] => .ok ()
  | (b, rs) :: rest => do
    State.trapIf (spadSize ≤ b) .bounds (BitVec.ofNat 64 b)
    State.trapIf (b % 8 != 0) .align (BitVec.ofNat 64 b)
    match rs.find? fun r => spadSize < r.1 + r.2 with
    | some r => .error (.trap .bounds (BitVec.ofNat 64 (Nat.max spadSize r.1)))
    | none => tileAddrs rest

/-- BOUNDS or ALIGN of a gather: the first index that fails, EVAL the address of the row it selects, or of its scale byte (R160). -/
def gathAddrs : List (Nat × List (Nat × Nat)) → Except Stop Unit
  | [] => .ok ()
  | (b, rs) :: rest => do
    State.trapIf (spadSize < b + 1 || (rs.head?.any fun r => spadSize < r.1 + r.2)) .bounds (BitVec.ofNat 64 b)
    State.trapIf (b % 8 != 0) .align (BitVec.ofNat 64 b)
    match rs.tail.find? fun r => spadSize < r.1 + r.2 with
    | some r => .error (.trap .bounds (BitVec.ofNat 64 r.1))
    | none => gathAddrs rest

/-- The address checks of a tile command at issue (R113, R160). -/
def cmdAddrs (c : MatCmd) (t : TileCmd) : Except Stop Unit :=
  match c.instr with
  | .gath .. => gathAddrs (gathered c t)
  | _ => tileAddrs (touched c t)

/-- The plane counts of a command against the configuration (R158, R161). -/
def planesOk (cfg : MCfg) (i : Instr) (t : TileCmd) : Bool :=
  if t.m.ty ≠ 7#3 then true
  else
    let okA := t.planes true ≤ cfg.pa
    let okB := t.planes false ≤ cfg.pb
    match i with
    | .tmm .. => okA && okB && t.depth / 32 ≤ cfg.ga && t.depth / 32 ≤ cfg.gb
    | _ => if t.e.aSide then okA else okB

/-- Issue a tile command (R113, R158): not ready where its queue is full; its deferred trap; its handle, plane counts and
addresses; then the queue. -/
def issueTile (s : State) (i : Instr) (t : TileCmd) (ga gb gd : Word) (idx : Except Stop (VReg × Core)) : State :=
  let c := s.here
  let h := t.e.hnd.toNat
  let he := t.e.he == 1#1
  let accNamed := match i with
    | .mepi .. | .tmm .. => true
    | _ => false
  let isMepi := match i with
    | .mepi .. => true
    | _ => false
  if 16 ≤ c.en.matQ.length then s.stop .hold
  else s.orDeferred (fun q => (he && q.handle == some h) || (accNamed && q.isAcc t.e.acc.toNat)) (s.finish 16 do
    let hslot ← if he then do
        let x ← needHandle c h
        .ok (some (if isMepi then x.pp else x.cp))
      else .ok none
    trapIf (!planesOk c.un.mcfg i t) .illegal s.bytesHere
    let (v, c) ← idx
    let q : MatCmd :=
      { instr := i, owner := s.slot, bits := c.code.readLE s.me.pc.toNat 16, slot := s.slot, ga := ga, gb := gb, gd := gd,
        idx := v, fmode := s.me.fmode, cfg := c.un.mcfg, row := c.sp.seenRow s.slot, hslot := hslot }
    cmdAddrs q t
    .ok (c.updEn fun e => { e with matQ := e.matQ ++ [q] }).decideHeads)

/-- LATCH (R159). -/
def execLatch (a grp : Fld) (m : VMod) (e : EDesc) (s : State) : Out :=
  .next (issueTile s (.latch a grp m e) ⟨m, e, grp.toNat⟩ (s.me.rg a.toNat) 0#64 0#64 (.ok (0#1024, s.here)))
/-- GATH (R160): the index vector is read at issue. -/
def execGath (d a b grp : Fld) (m : VMod) (e : EDesc) (s : State) : Out :=
  .next (issueTile s (.gath d a b grp m e) ⟨m, e, grp.toNat⟩ (s.me.rg a.toNat) 0#64 (s.me.rg d.toNat)
    (readB s.here s.slot m b))
/-- MEPI (R162); field A is unused, its base is G[A] + 8 × BASE. -/
def execMepi (a : Fld) (m : VMod) (e : EDesc) (s : State) : Out :=
  .next (issueTile s (.mepi a m e) ⟨m, e, 0⟩ (s.me.rg a.toNat) 0#64 0#64 (.ok (0#1024, s.here)))
/-- TMM (R161). -/
def execTmm (a b : Fld) (m : VMod) (e : EDesc) (s : State) : Out :=
  .next (issueTile s (.tmm a b m e) ⟨m, e, 0⟩ (s.me.rg a.toNat) (s.me.rg b.toNat) 0#64 (.ok (0#1024, s.here)))

/-! ### Sums (R62) -/

/-- One accumulation acc ← RoundTo(acc + x, f32, rne), flushed after the rounding (R58); an invalid operation or NaN gives the canonical NaN. -/
def accAdd (acc : Nat) (x : Val × Bool) : Nat :=
  let r := Val.add .rne (f32.unpack true acc) x.1
  f32.flush (f32.pack .rne false false (if x.2 || r.2 then .nan else r.1)).1

/-- The latch value at (r, c) as an element of the operand type. -/
def latchVal (F : Fmt) (l : MLatch) (r c : Nat) : Val := F.unpack true (l.vals.get (r * 64 + c) 0).toNat

/-- The product at depth k of element (i, j). -/
def product (F : Fmt) (la lb : MLatch) (i j k : Nat) : Val × Bool := Val.mul (latchVal F la i k) (latchVal F lb k j)

/-- The exact sum of two products. -/
def pairSum (x y : Val × Bool) : Val × Bool :=
  let r := Val.add .rne x.1 y.1
  (r.1, x.2 || y.2 || r.2)

/-- The integer that a plane element enters with, and the exponent it lowers (R51, R62). -/
def planeTerm (l : MLatch) (r c : Nat) : Int :=
  let q := l.vals.get (r * 64 + c) 0
  if l.mc then 2 * q + 1 else q

/-- The sum over the latched depth into one accumulator element (R62). -/
def dot (la lb : MLatch) (i j acc : Nat) : Nat :=
  match la.ty.toNat with
  | 7 =>
    let ea := la.scales.get i 0
    let eb := lb.scales.get j 0
    if ea = 255 ∨ eb = 255 then f32.nan
    else
      let sum := ((List.range la.kn).map fun k => planeTerm la i k * planeTerm lb k j).sum
      let ex : Int := (ea : Int) + eb - 254 - (la.pl - 1 : Nat) - (lb.pl - 1 : Nat) - (if la.mc then 1 else 0)
        - (if lb.mc then 1 else 0)
      accAdd acc (.num (sum < 0) sum.natAbs ex, false)
  | 1 => (List.range la.kn).foldl (fun a k => accAdd a (product bf16 la lb i j k)) acc
  | ty =>
    let F := if ty = 5 then e4m3 else e5m2
    (List.range ((la.kn + 1) / 2)).foldl (fun a t =>
      accAdd a (if 2 * t + 1 < la.kn then pairSum (product F la lb i j (2 * t)) (product F la lb i j (2 * t + 1))
        else product F la lb i j (2 * t))) acc

/-- A poisoned element among those of an accumulator at rows from `r` below `r + rows`, in columns below `cols` (R130). -/
def Units.accPoison (u : Units) (acc r rows cols : Nat) : Option Nat :=
  u.poisonA.find? fun e => e / 2048 == acc && r ≤ e / 64 % 32 && e / 64 % 32 < r + rows && e % 64 < cols

/-- The location that a kill by a poisoned accumulator element names (R131, log 64). -/
def accLoc (e : Nat) : Nat := 2 ^ 33 + e

/-- The update of an accumulator from two latches (R161, R164). -/
def multiply (u : Units) (acc : Nat) (la lb : MLatch) : Units :=
  { u with accs := (List.range la.cnt).foldl (fun t i => (List.range lb.cnt).foldl (fun t j =>
      let key := acc * 2048 + i * 64 + j
      t.set key (BitVec.ofNat 32 (dot la lb i j (t.get key 0#32).toNat))) t) u.accs }

/-! ### The sequencer (R113, R122, R158) -/

/-- Whether the command at the head of the matrix queue, past its guard, may start: the sequencer is free, no record of the queue waits
to enter, and the slot that a reading command names is full or draining (R113, R128, R158). -/
def matMayStart (c : Core) (q : MatCmd) : Bool :=
  c.en.seq.isNone && !c.holdsRecord .matrix
  && (match q.instr, q.handle with
      | .mepi .., _ => true
      | _, some (h, j) => (c.handle? h).any fun x => (x.slotAt j).st == .full || (x.slotAt j).st == .draining
      | _, none => true)

/-- The command starts: a reading command with a handle acquires its slot, and an accumulator's resume point is taken where the
command is the identical one, or discarded (R113, R158). -/
def startMat (c : Core) (q : MatCmd) : Core :=
  let row := match q.instr, q.handle with
    | .mepi .., _ => q.row
    | _, some (h, j) => ((c.handle? h).map fun x => Row.join q.row (x.slotAt j).rel).getD q.row
    | _, none => q.row
  let step := match q.acc with
    | some n => match c.un.resume.get? n with
      | some r => if r.bits = q.bits then r.step else 0
      | none => 0
    | none => 0
  let c := match q.acc with
    | some n => c.updUn fun u => { u with resume := u.resume.erase n }
    | none => c
  c.updEn fun e => { e with matQ := e.matQ.drop 1, seq := some { q with row := row, step := step } }

/-- The head of the matrix queue, its guard decided: discarded by it, or started; none where there is nothing to do (R122, R158). -/
def matHead (c : Core) : Option Core :=
  let d := c.decideHeads
  match d.en.matQ with
  | [] => none
  | q :: rest =>
    if q.fate = some false ∧ !d.holdsRecord .matrix then
      some (((d.updEn fun e => { e with matQ := rest }).decideHeads).post { w0 := Core.recWord 5 q.slot 0 1 q.handle, w1 := 0#64 })
    else if q.fate = some true ∧ matMayStart d q then some (startMat d q).decideHeads
    else if d = c then none
    else some d

/-- A running command's fault (R113): the resume point, the record of kind 0x04, the deferred trap, which no other
command's record names (R382). DESIGN CHOICE: DETAIL [15:8] of a
LATCH or GATH, which names no accumulator, is 0 (log 26). -/
def matFault (c : Core) (q : MatCmd) (cause : Cause) (eval : Word) : Core :=
  let n := q.acc.getD 0
  let key := DeferKey.mat q.acc (q.handle.map (·.1)) c.en.matFaults
  let c := match q.acc with
    | some n => c.updUn fun u => { u with resume := u.resume.set n ⟨q.step, q.bits⟩ }
    | none => c.updUn fun u => { u with mla := match q.lat with
        | some l => u.mla.erase l
        | none => u.mla }
  let c := (c.updEn fun e => { e with seq := none, matFaults := e.matFaults + 1 }).addDefer ⟨key, q.owner, cause, eval⟩
  c.post { w0 := Core.recWord 4 q.slot 0 (if cause = .mmx then 2 else 3) q.handle, w1 := BitVec.ofNat 64 (q.step + 256 * n),
           key := some key }

/-- What a step comes to: the core goes on, faults at a granule or with a handle overflow, or consumed poison. -/
inductive MatStep where
  | ok (c : Core)
  | race (c : Core) (q : Nat)
  | overflow (c : Core)
  | poison (loc : Nat)
  deriving DecidableEq, Repr

/-- Fill a latch as the issuing context, with the command's snapshot row; a fault clears the latch's V (R125, R155, R158). -/
def fillStep (c : Core) (q : MatCmd) (t : TileCmd) (a : Bool) (lat s : Nat) : MatStep :=
  let rs := readRangesOf q t a s
  match (c.withRow q.slot q.row).readRace q.slot rs with
  | some g => .race (c.updUn fun u => { u with mla := u.mla.erase lat }) g
  | none => match rs.findSome? fun r => c.sp.poisonIn r.1 r.2 with
    | some w => .poison w
    | none =>
      let fill := (q.lat).isSome
      let kn := if fill then t.depth else Nat.min 32 (t.depth - 32 * s)
      let l := fillLatch c.sp.mem (sideOf q t a) t.m.ty (t.e.mc == 1#1) (if a then t.rows else t.cols)
        (if fill then 0 else 32 * s) kn (if fill then t.grp else s) (rowIx q)
      .ok ((c.updSp (·.stampReads q.slot rs)).updUn fun u => { u with mla := u.mla.set lat l })

/-- The element of an accumulator as MEPI stores it: read flushed, rounded once, and flushed again after the rounding (R58, R162). -/
def mepiCode (q : MatCmd) (t : TileCmd) (x : Lane) : Nat :=
  let r := (convertElem 0 t.m.ty.toNat (rounding t.m q.fmode) (t.m.sat == 1#1) false (f32.flush x.toNat)).1
  (fmtOf t.m.ty.toNat).elim r fun F => F.flush r

/-- The bytes that step s of a MEPI stores, one list for each range of `storeRanges`. -/
def mepiBytes (c : Core) (q : MatCmd) (t : TileCmd) (s : Nat) : List (List Byte) :=
  let w := typeWidth t.m.ty.toNat
  let rows := Nat.min 4 (t.rows - 4 * s)
  let el : Nat → Nat → List Byte := fun i j =>
    leBytes (w / 8) (mepiCode q t (c.un.accs.get (t.e.acc.toNat * 2048 + i * 64 + j) 0#32))
  if t.e.dira = 0#1 then (List.range rows).map fun i => (List.range t.cols).flatMap fun j => el (4 * s + i) j
  else (List.range t.cols).map fun j => (List.range rows).flatMap fun i => el (4 * s + i) j

/-- One step of a MEPI: the race check, the stores, the arrival (R113, R118, R162). DESIGN CHOICE: what a full slot hands to HWAITF for a
MEPI that filled it is the issuer's region at the stores, as if the issuer had released there (R119 speaks of HPUB; log 26). -/
def mepiStep (c : Core) (q : MatCmd) (t : TileCmd) (s : Nat) : MatStep :=
  let rs := storeRanges q t s
  match (c.withRow q.slot q.row).writeRace q.slot rs with
  | some g => .race c g
  | none => match c.un.accPoison t.e.acc.toNat (4 * s) (Nat.min 4 (t.rows - 4 * s)) t.cols with
   | some e => .poison (accLoc e)
   | none =>
    let bs := mepiBytes c q t s
    let c := c.updSp fun sp => (rs.zip bs).foldl (fun sp p => sp.store p.1.1 p.2) (sp.stampWrites q.slot rs)
    match q.handle with
    | none => .ok c
    | some (h, j) =>
      let rel : Row := Row.join q.row (Tab.set {} q.slot (c.sp.regionOf q.slot + 1))
      match c.arrive h j (rs.map (·.2)).sum rel none with
      | some c => .ok c
      | none => .overflow c

/-- One step of a command. -/
def matStep (c : Core) (q : MatCmd) (t : TileCmd) : MatStep :=
  match q.instr with
  | .mepi .. => mepiStep c q t q.step
  | .tmm .. =>
    match fillStep c q t true (q.step % 2) q.step with
    | .ok c => match fillStep c q t false (2 + q.step % 2) q.step with
      | .ok c => match c.un.mla.get? (q.step % 2), c.un.mla.get? (2 + q.step % 2) with
        | some la, some lb => match c.un.accPoison t.e.acc.toNat 0 la.cnt lb.cnt with
          | some e => .poison (accLoc e)
          | none => .ok (c.updUn fun u => multiply u t.e.acc.toNat la lb)
        | _, _ => .ok c
      | r => r
    | r => r
  | _ => fillStep c q t t.e.aSide t.e.lat.toNat 0

/-- MATRIX_STEP: the next step of the running command, and its end after the last (R113). -/
def execMatrixStep (core : Nat) (s : State) : Out :=
  let c := s.core core
  .next (match c.en.seq with
    | none => s
    | some q => match tileOf q.instr with
      | none => s
      | some t => match matStep c q t with
        | .ok c =>
          let seq := if q.step + 1 < stepsOf q t then some { q with step := q.step + 1 } else none
          s.setCore core (c.updEn fun e => { e with seq := seq })
        | .race c g => s.setCore core (matFault c q .mmx (BitVec.ofNat 64 g))
        | .overflow c => s.setCore core (matFault c q .handle (handleEval 4 ((q.handle.map (·.1)).getD 0)))
        | .poison w => s.killCore core 0 w)

/-! ### Direct instructions (R163 to R166) -/

/-- Whether a matrix command, queued or running, keeps a direct instruction from being ready (R163). -/
def mmacBusy (c : Core) (acc : Nat) (lats : List Nat) (mxu : Bool) : Bool :=
  ((c.en.matQ ++ c.en.seq.toList).any fun q => q.acc == some acc || lats.any fun l => q.lat == some l)
  || (mxu && c.en.seq.any isTmm)

/-- A direct instruction on an accumulator: not ready, or its deferred trap, or its effect (R113, R163). -/
def direct (s : State) (acc : Nat) (lats : List Nat) (mxu : Bool) (f : Except Stop Core) : State :=
  if mmacBusy s.here acc lats mxu then s.stop .hold else s.orDeferred (fun q => q.isAcc acc) (s.finish 8 f)

/-- MMA or PMMA (R164). DESIGN CHOICE: it leaves the accumulator's resume point, which R163 has MZERO and MWR discard (log 26). -/
def mmaTo (s : State) (d a b : Fld) (m : VMod) : State :=
  direct s d.toNat [a.toNat, b.toNat] true (match s.here.un.mla.get? a.toNat, s.here.un.mla.get? b.toNat with
    | some la, some lb =>
      if la.ty = m.ty ∧ lb.ty = m.ty ∧ la.kn = lb.kn then
        match s.here.un.accPoison d.toNat 0 la.cnt lb.cnt with
        | some e => .error (.kill (accLoc e))
        | none => .ok (s.here.updUn fun u => multiply u d.toNat la lb)
      else .error (.trap .illegal s.bytesHere)
    | _, _ => .error (.trap .illegal s.bytesHere))

/-- MMA (R164). -/
def execMma (d a b : Fld) (m : VMod) (s : State) : Out := .next (mmaTo s d a b m)
/-- PMMA (R164). -/
def execPmma (d a b : Fld) (m : VMod) (s : State) : Out := .next (mmaTo s d a b m)

/-- MZERO: every element +0; the resume point goes (R163, R165). -/
def execMzero (d : Fld) (s : State) : Out :=
  .next (direct s d.toNat [] false (.ok (s.here.updUn fun u =>
    { u with accs := u.accs.filterVals fun k _ => k / 2048 != d.toNat, resume := u.resume.erase d.toNat,
             poisonA := u.poisonA.filter (· / 2048 != d.toNat) })))

/-- The key of element (row, 32h) of an accumulator. -/
def accRow (acc : Nat) (row : Word) (h : BitVec 1) : Nat := acc * 2048 + row.toNat % 32 * 64 + 32 * h.toNat

/-- MRD (R165). -/
def execMrd (d a b : Fld) (h : BitVec 1) (s : State) : Out :=
  let k := accRow a.toNat (s.me.rg b.toNat) h
  .next (direct s a.toNat [] false (match s.here.un.poisonA.find? fun e => k ≤ e && e < k + 32 with
    | some e => .error (.kill (accLoc e))
    | none => .ok (s.here.wv s.slot d.toNat
        (ofElems 32 ((List.range 32).map fun l => (s.here.un.accs.get (k + l) 0#32).toNat)))))

/-- MWR: subnormals flushed; the resume point goes (R163, R165). -/
def execMwr (d a b : Fld) (h : BitVec 1) (m : VMod) (s : State) : Out :=
  let k := accRow d.toNat (s.me.rg b.toNat) h
  .next (direct s d.toNat [] false (do
    let (v, c) ← readA s.here s.slot m a
    .ok (c.updUn fun u =>
      { u with accs := (List.range 32).foldl (fun t l => t.set (k + l) (BitVec.ofNat 32 (f32.flush (elem 32 v l)))) u.accs,
               resume := u.resume.erase d.toNat, poisonA := u.poisonA.filter fun e => !(k ≤ e && e < k + 32) })))

/-- The planes of an MCFG code (R166). -/
def planesOf (p : BitVec 2) : Nat := 4 + 2 * p.toNat

/-- MCFG (R166). -/
def execMcfg (pa pb : BitVec 2) (ga gb : BitVec 6) (s : State) : Out :=
  .next (s.finish 8 (.ok (s.here.updUn fun u =>
    { u with mcfg := { pa := planesOf pa, pb := planesOf pb, ga := ga.toNat + 1, gb := gb.toNat + 1 } })))

end Sys2Proof.Machine
end

