-- ==== Sys2Proof/Machine/RopeNode.lean ====
section
/-!
DEFINITION. Rope records, schemas and summaries (R180 to R187).
-/
namespace Sys2Proof.Machine

/-! ### Schemas (R182) -/

/-- A summary slot's descriptor (R182). -/
structure SlotDesc where
  op : Nat
  ty : Nat
  cls : Nat
  foff : Nat
  rsv : Nat
  deriving DecidableEq, Repr

/-- Slot k's descriptor of a schema. -/
def slotDesc (sch k : Nat) : SlotDesc :=
  let d := sch / 2 ^ (16 + 24 * k) % 2 ^ 24
  ⟨d % 8, d / 8 % 8, d / 64 % 4, d / 256 % 4096, d / 2 ^ 20⟩

/-- The element size of a schema. -/
def schemaEsz (sch : Nat) : Nat := sch % 4096 + 1

/-- Whether a descriptor is valid for an element size (R182). -/
def SlotDesc.ok (d : SlotDesc) (esz : Nat) : Bool :=
  d.rsv == 0
  && (if d.op = 0 then d.ty == 0 && d.cls == 0 && d.foff == 0
      else d.op ≤ 5 && (d.ty == 0 || d.ty == 2) && d.foff + 4 ≤ esz
        && (if d.op = 5 then d.cls == 1 || d.cls == 2 else d.cls == 0) && (d.op != 4 || d.ty == 0))

/-- Whether a schema is valid (R182). -/
def schemaOk (sch : Nat) : Bool :=
  sch / 2 ^ 12 % 16 == 0 && sch / 2 ^ 112 == 0 && (List.range 4).all fun k => (slotDesc sch k).ok (schemaEsz sch)

/-! ### Records (R181, R183) -/

/-- A node record. -/
structure RNode where
  part : Nat
  rotver : Nat := 0
  rotsel : Nat := 0
  cow : Bool := false
  height : Nat := 0
  leaf : Bool
  len : Nat
  ref : Nat := 1
  anchor : Nat := 0
  left : Nat
  right : Nat
  schema : Nat
  slots : List (Nat × Nat) := []
  deriving DecidableEq, Repr

/-- Word 0 of a record (R181). -/
def RNode.header (r : RNode) : Nat :=
  2 ^ 32 * r.part + 2 ^ 16 * r.rotver + 2 ^ 8 * r.rotsel + (if r.cow then 128 else 0) + 2 * r.height + (if r.leaf then 0 else 1)

/-- The 128 bytes of a record (R181); each slot is the pair of its two 8-byte words. -/
def RNode.bytes (r : RNode) : List Byte :=
  leBytes 8 r.header ++ leBytes 8 r.len ++ leBytes 4 r.ref ++ leBytes 4 0 ++ leBytes 8 r.anchor ++ leBytes 8 r.left
    ++ leBytes 8 r.right ++ leBytes 16 r.schema
    ++ (List.range 4).flatMap fun k => let v := r.slots.getD k (0, 0); leBytes 8 v.1 ++ leBytes 8 v.2

/-- A record's 128 bytes as fields. -/
def readRecord (b : List Byte) : RNode :=
  let h := field b 0 8
  { part := h / 2 ^ 32 % 16, rotver := h / 2 ^ 16 % 2 ^ 16, rotsel := h / 2 ^ 8 % 8, cow := h / 128 % 2 == 1,
    height := h / 2 % 64, leaf := h % 2 == 0, len := field b 8 8, ref := field b 16 4, anchor := field b 24 8,
    left := field b 32 8, right := field b 40 8, schema := field b 48 16,
    slots := (List.range 4).map fun k => (field b (64 + 16 * k) 8, field b (72 + 16 * k) 8) }

/-- The checks of R183 that one record's own bytes decide. The bytes of summary slots that R186 writes as zero are not among them (DESIGN
CHOICE, log 73). -/
def recordOk (b : List Byte) : Bool :=
  let r := readRecord b
  let h := field b 0 8
  h / 2 ^ 36 == 0 && h / 2 ^ 11 % 32 == 0 && field b 20 4 == 0 && r.len < 2 ^ 48 && r.anchor < 2 ^ 48 && r.ref != 0
  && schemaOk r.schema
  && (if r.leaf then r.height == 0 && r.right < 2 ^ 16 && r.left % 65536 == 0
      else !r.cow && r.rotver == 0 && r.rotsel == 0)

/-! ### Summaries (R185, R186) -/

/-- A summary as its two 8-byte words (R186): for f32 pairs the first word holds both. -/
abbrev Sum2 := Nat × Nat

/-- RoundTo(v, f32, rne), canonical and without flags (R185). -/
def rnd32 (v : Val) : Nat := (f32.pack .rne false false v).1
/-- The value of an f32 code, subnormals exact. -/
def val32 (c : Nat) : Val := f32.unpack false (c % 2 ^ 32)
/-- a + b in f32. -/
def add32 (a b : Nat) : Nat := rnd32 (Val.add .rne (val32 a) (val32 b)).1
/-- c + k × x in f32, rounded once. -/
def fma32 (k : Int) (x c : Nat) : Nat := rnd32 (Val.fma .rne (.num (k < 0) k.natAbs 0) (val32 x) (val32 c)).1
/-- Wrap-around in i64. -/
def wrap64 (i : Int) : Nat := (i % 2 ^ 64).toNat
/-- An i32 code as an integer. -/
def sInt32 (c : Nat) : Int := (BitVec.ofNat 32 c).toInt
/-- An i64 code as an integer. -/
def sInt64 (c : Nat) : Int := (BitVec.ofNat 64 c).toInt
/-- A pair of f32 codes in one word. -/
def pair32 (a b : Nat) : Sum2 := (a % 2 ^ 32 + 2 ^ 32 * b, 0)
/-- The first of a pair. -/
def fst32 (v : Sum2) : Nat := v.1 % 2 ^ 32
/-- The second of a pair. -/
def snd32 (v : Sum2) : Nat := v.1 / 2 ^ 32

/-- s₁ × 2^d₁ + s₂ × 2^d₂ rounded once, each factor under R64: an exponent −∞ is the factor 0. -/
def lseSum (s1 d1 s2 d2 : Val) : Nat :=
  match s1, d1, s2, d2 with
  | .num a m e, .num b dm de, .num a' m' e', .num b' dm' de' =>
    (packTerms f32 .rne false [⟨Val.signed a m, e, Val.signed b dm, de⟩, ⟨Val.signed a' m', e', Val.signed b' dm', de'⟩]
      false 1 0).1
  | s1, d1, s2, d2 =>
    add32 (packScaled f32 .rne false s1 d1 (.num false 1 0)).1 (packScaled f32 .rne false s2 d2 (.num false 1 0)).1

/-- The exponent of R64's factor from a running maximum to a new one. -/
def lseShift (m m2 : Val) : Val :=
  if m == .inf true then (if m2 == .inf true then .num false 0 0 else .inf true) else (Val.add .rne m m2.neg).1

/-- LSE's join of (m, s) with (m', s') (R64, R185). -/
def lseJoin (a b : Sum2) : Sum2 :=
  let ml := val32 (fst32 a)
  let mr := val32 (fst32 b)
  if ml.isNan || mr.isNan then pair32 f32.nan f32.nan
  else
    let m := ml.maxV mr
    pair32 (rnd32 m) (lseSum (val32 (snd32 a)) (lseShift ml m) (val32 (snd32 b)) (lseShift mr m))

/-- The online step of a score (R64, R185). -/
def lseStep (a : Sum2) (x : Nat) : Sum2 :=
  let v := val32 x
  if (val32 (fst32 a)).isNan || v.isNan || v == .inf false then pair32 f32.nan f32.nan
  else if v == .inf true then a
  else lseJoin a (pair32 x 0x3F800000)

/-- The identity of an operation and type (R185). -/
def SlotDesc.identity (d : SlotDesc) : Sum2 :=
  match d.op, d.ty with
  | 1, 0 => (0x80000000, 0)
  | 2, 0 => (0xFF800000, 0)
  | 2, _ => (0x80000000, 0)
  | 3, 0 => (0x7F800000, 0)
  | 3, _ => (0x7FFFFFFF, 0)
  | 4, _ => pair32 0xFF800000 0
  | _, _ => (0, 0)

/-- The larger, or the smaller, of two elements (R185). -/
def pick (ty : Nat) (large : Bool) (a b : Nat) : Nat :=
  if ty = 0 then rnd32 (if large then (val32 a).maxV (val32 b) else (val32 a).minV (val32 b))
  else if large then (if sInt32 a < sInt32 b then b else a) else (if sInt32 b < sInt32 a then b else a)

/-- A leaf's step with the element field x at position p (R185). -/
def SlotDesc.step (d : SlotDesc) (a : Sum2) (p x : Nat) : Sum2 :=
  match d.op, d.ty with
  | 1, 0 => (add32 a.1 x, 0)
  | 1, _ => (wrap64 (sInt64 a.1 + sInt32 x), 0)
  | 2, t => (pick t true a.1 x, 0)
  | 3, t => (pick t false a.1 x, 0)
  | 4, _ => lseStep a x
  | 5, 0 => pair32 (add32 (fst32 a) x) (fma32 p x (snd32 a))
  | 5, _ => (wrap64 (sInt64 a.1 + sInt32 x), wrap64 (sInt64 a.2 + p * sInt32 x))
  | _, _ => (0, 0)

/-- Combine(l, r), n the length of the left part (R185); ABS parts have been taken at their starts. -/
def SlotDesc.combine (d : SlotDesc) (l r : Sum2) (n : Nat) : Sum2 :=
  match d.op, d.ty with
  | 1, 0 => (add32 l.1 r.1, 0)
  | 1, _ => (wrap64 (sInt64 l.1 + sInt64 r.1), 0)
  | 2, t => (pick t true l.1 r.1, 0)
  | 3, t => (pick t false l.1 r.1, 0)
  | 4, _ => lseJoin l r
  | 5, 0 =>
    let w := Val.add .rne (val32 (snd32 l)) (val32 (snd32 r))
    let w := if d.cls = 1 then Val.add .rne w.1 (Val.mul (.num false n 0) (val32 (fst32 r))).1 else w
    pair32 (add32 (fst32 l) (fst32 r)) (rnd32 w.1)
  | 5, _ => (wrap64 (sInt64 l.1 + sInt64 r.1),
             wrap64 (sInt64 l.2 + sInt64 r.2 + (if d.cls = 1 then (n : Int) * sInt64 r.1 else 0)))
  | _, _ => (0, 0)

/-- An ABS slot taken at a start that its anchor differs from by k (R187). -/
def SlotDesc.rebase (d : SlotDesc) (v : Sum2) (k : Int) : Sum2 :=
  if d.ty = 0 then pair32 (fst32 v) (fma32 k (fst32 v) (snd32 v)) else (v.1, wrap64 (sInt64 v.2 + k * sInt64 v.1))

/-- A record's slot k taken at absolute start q (R187): rebased where it is ABS and stale. -/
def RNode.slotAt (r : RNode) (k q : Nat) : Sum2 :=
  let d := slotDesc r.schema k
  let v := r.slots.getD k (0, 0)
  if d.cls = 2 ∧ r.anchor ≠ q then d.rebase v ((q : Int) - r.anchor) else v

/-- The summary of a leaf's elements from `bytes`, the first at position p0 (R185). -/
def leafSummary (sch k p0 : Nat) (bytes : List Byte) : Sum2 :=
  let d := slotDesc sch k
  let esz := schemaEsz sch
  (List.range (bytes.length / esz)).foldl (fun a e => d.step a (p0 + e) (field bytes (e * esz + d.foff) 4)) d.identity

end Sys2Proof.Machine
end

