-- ==== Sys2Proof/Machine/RopeTree.lean ====
section
/-!
DEFINITION. Building ropes: reading and checking records (R183), Join and Split (R189, R190), placing new nodes (R187, R188),
rope pools (R188, R195, R296), reference counts and reclaim (R193 to R195).
-/
namespace Sys2Proof.Machine
open State

/-! ### The monad of the rope unit -/

/-- Why a rope operation does not go on: a status with its DETAIL (R199); a refill-or-fault request (R293); a poisoned piece
byte, a transient error that is read again (R288); a stop of the instruction itself (R200). -/
inductive RErr where
  | status (st detail : Nat)
  | miss (r : XReq)
  | again
  | stop (e : Stop)
  deriving DecidableEq, Repr

/-- An operation that does not go on, with the state it has come to: nothing of it stands but what its reads have met in memory (R288). -/
structure RFail where
  why : RErr
  s : State
  deriving DecidableEq, Repr

/-- A rope operation. -/
abbrev RM := StateT State (Except RFail)

/-- End with an error. -/
def RM.fail {α : Type} (e : RErr) : RM α := fun s => .error ⟨e, s⟩
/-- What an access error ends a rope operation with: a tag mismatch or a locked domain, for which R199 names no status, gives FAULT as an access
of a reserved kind does (DESIGN CHOICE, log 73). -/
def RErr.ofAccess : AccErr → RErr
  | .miss r => .miss r
  | _ => .status 0x16 0
/-- End with a status. -/
def RM.status {α : Type} (st : Nat) : RM α := RM.fail (.status st 0)
/-- End with a status where `bad`. -/
def RM.unless (bad : Bool) (st : Nat) : RM Unit := if bad then RM.status st else pure ()
/-- A check of the instruction itself. -/
def RM.check (e : Except Stop Unit) : RM Unit :=
  match e with
  | .error x => RM.fail (.stop x)
  | .ok _ => pure ()

/-- NODE (R199). -/
def stNode : Nat := 0x10
/-- FAULT (R199). -/
def stFault : Nat := 0x16

/-! ### Reading (R183, R288) -/

/-- The page of an address must be of kind 0, in the module's own memory (R180, R183). -/
def kindZero (a : Access) (va : Nat) : RM Unit := fun s =>
  match s.translate a va false with
  | .error e => .error ⟨.ofAccess e, s⟩
  | .ok (e, t) =>
    if e.remote then .error ⟨.status stFault 0, s⟩
    else if e.kind ≠ 0 then .error ⟨.status stNode 0, s⟩
    else .ok ((), t)

/-- Read bytes; the answer says whether a sector is poisoned. -/
def readMem (a : Access) (va n : Nat) : RM (List Byte × Bool) := fun s =>
  match s.readVirt a va n with
  | .error e => .error ⟨.ofAccess e, s.refusedRead a va n e⟩
  | .ok (b, p, t) => .ok ((b, p), t)

/-- Write bytes. -/
def writeMem (a : Access) (va : Nat) (bs : List Byte) : RM Unit := fun s =>
  match s.writeVirt a va bs with
  | .error e => .error ⟨.ofAccess e, s.refusedWrite a va bs.length e⟩
  | .ok (_, t) => .ok ((), t)

/-- Find that bytes can be written, which writes none of them: what they overwrite in part has been read (R188, R289). -/
def probeMem (a : Access) (va : Nat) (bs : List Byte) : RM Unit := fun s =>
  match s.writeVirt a va bs with
  | .error e => .error ⟨.ofAccess e, s.refusedWrite a va bs.length e⟩
  | .ok _ => .ok ((), match s.openPieces a va bs.length with
    | .ok (ps, t) => t.settleSectors (ps.flatMap t.mod.mem.partSectors)
    | .error _ => s)

/-- The slots of an address's set that belong to the rope unit: ways 6 and 7 (R116). -/
def ropeSlots (sp : Spad) (va : Nat) : List Nat := [8 * (va / 1024 % sp.tagSets) + 6, 8 * (va / 1024 % sp.tagSets) + 7]

/-- The slot that a record of an address goes into: the one that holds its line, else an invalid one, else the one filled least recently. -/
def ropeVictim (sp : Spad) (va : Nat) : Nat :=
  let js := ropeSlots sp va
  (js.find? fun j => sp.tags.get? j == some (va / 1024)).getD
    ((js.find? fun j => !sp.tags.has j).getD ((sp.tagAge.reverse.find? js.contains).getD (js.headD 0)))

/-- The scratchpad offset of a record in a slot of the tag region (R116). -/
def ropePlace (sp : Spad) (j va : Nat) : Nat := sp.tagBase + 1024 * j + va % 1024

/-- Keep a record in ways 6 and 7 of its set: the tag, the record's bytes in the slot, and that they are there (R116). -/
def cacheRecord (c : Core) (va : Nat) (b : List Byte) : Core :=
  let j := ropeVictim c.sp va
  let old := if c.sp.tags.get? j = some (va / 1024) then c.en.ropeCache.get j 0#8 else 0#8
  let o := ropePlace c.sp j va
  let c := c.updSp fun sp => { sp with
    mem := sp.mem.writeBytes o b, poison := sp.poison.filter fun w => !(o ≤ w * 8 && w * 8 < o + 128),
    tags := sp.tags.set j (va / 1024), tagAge := j :: sp.tagAge.filter (· != j) }
  c.updEn fun e => { e with ropeCache := e.ropeCache.set j (old ||| (1#8 <<< (va / 128 % 8))) }

/-- A record's bytes as the rope unit sees them: from its cache where the record stands there, REFCNT always from memory
(R195); a record that is read enters the cache where the descriptor's ropes flag gives the unit one (R116). -/
def cached (a : Access) (va : Nat) (b : List Byte) : RM (List Byte) := fun s =>
  let c := s.core a.core
  if !c.sp.ropesFlag ∨ c.sp.tagSets = 0 then .ok (b, s)
  else
    let hit := (ropeSlots c.sp va).find? fun j =>
      c.sp.tags.get? j == some (va / 1024) && (c.en.ropeCache.get j 0#8).getLsbD (va / 128 % 8)
        && (c.sp.poisonIn (ropePlace c.sp j va) 128).isNone
    match hit with
    | some j =>
      let o := c.sp.mem.readBytes (ropePlace c.sp j va) 128
      .ok (o.take 16 ++ (b.drop 16).take 4 ++ o.drop 20, s)
    | none => .ok (b, s.updCore a.core fun c => cacheRecord c va b)

/-- Read a record with the checks of R183 that it decides by itself. -/
def readNode (a : Access) (va : Nat) : RM RNode := do
  RM.unless (va % 128 != 0) stNode
  kindZero a va
  let (b, poison) ← readMem a va 128
  RM.unless poison stNode
  let b ← cached a va b
  RM.unless (!recordOk b) stNode
  let r := readRecord b
  if r.leaf then kindZero a r.left
  pure r

/-! ### Trees under construction -/

/-- A node of a rope: an existing record, a new leaf with its elements' bytes, a new internal node. -/
inductive RT where
  | old (va : Nat) (r : RNode)
  | leaf (r : RNode) (data : List Byte)
  | node (r : RNode) (l t : RT)
  deriving DecidableEq, Repr

namespace RT

/-- The node's fields. -/
def fields : RT → RNode
  | .old _ r => r
  | .leaf r _ => r
  | .node r _ _ => r

/-- HEIGHT. -/
def height (t : RT) : Nat := t.fields.height
/-- LEN. -/
def len (t : RT) : Nat := t.fields.len

/-- The children of an internal node; an existing one is read, and its HEIGHT checked (R183). -/
def kids (a : Access) : RT → RM (RT × RT)
  | .old _ r =>
    if r.leaf then RM.status stNode
    else do
      let l ← readNode a r.left
      let t ← readNode a r.right
      RM.unless (r.height != 1 + Nat.max l.height t.height) stNode
      pure (.old r.left l, .old r.right t)
  | .leaf .. => RM.status stNode
  | .node _ l t => pure (l, t)

/-- Node(x, y): a new internal node, refused past the limits of R184. DESIGN CHOICE: one that passes both is refused with HEIGHT (log 73). -/
def mk (l t : RT) : RM RT := do
  let h := 1 + Nat.max l.height t.height
  RM.unless (63 < h) 0x11
  RM.unless (2 ^ 48 ≤ l.len + t.len) 0x14
  pure (.node { part := l.fields.part, height := h, leaf := false, len := l.len + t.len, left := 0, right := 0,
                schema := l.fields.schema } l t)

/-- The bytes of elements `o` to `o + m - 1` of a leaf. -/
def elems (a : Access) (t : RT) (o m : Nat) : RM (List Byte) := do
  let r := t.fields
  let esz := schemaEsz r.schema
  match t with
  | .leaf _ data => pure ((data.drop (o * esz)).take (m * esz))
  | _ =>
    let (b, poison) ← readMem a (r.left + 64 + r.right + o * esz) (m * esz)
    if poison then RM.fail .again else pure b

/-- Leaf(t, o, m, cow) of R190. -/
def cut (a : Access) (t : RT) (o m : Nat) (cow : Bool) : RM RT := do
  let r := t.fields
  let data ← elems a t o m
  pure (.leaf { r with cow := cow, len := m, ref := 1, right := r.right + o * schemaEsz r.schema } data)

/-- Node with its parts exchanged where the spine is a left one. -/
def mkSide (right : Bool) (x y : RT) : RM RT := if right then mk x y else mk y x
/-- The children, inner one first, of a node on a right or a left spine. -/
def kidsSide (a : Access) (right : Bool) (t : RT) : RM (RT × RT) := do
  let (l, y) ← kids a t
  pure (if right then (l, y) else (y, l))

/-- Bal, lines 11 to 16 of R189, or its mirror image. -/
def bal (a : Access) (right : Bool) (l y : RT) : RM RT := do
  if y.height ≤ l.height + 1 then mkSide right l y
  else
    let (x, z) ← kidsSide a right y
    if x.height ≤ z.height then
      let p ← mkSide right l x
      mkSide right p z
    else
      let (x1, x2) ← kidsSide a right x
      let p ← mkSide right l x1
      let q ← mkSide right x2 z
      mkSide right p q

/-- JoinR, lines 07 to 10 of R189, or its mirror image JoinL; a rope's height bounds the descent. -/
def joinSide (a : Access) (right : Bool) : Nat → RT → RT → RM RT
  | 0, _, _ => RM.status stNode
  | n + 1, t, b => do
    let (l, c) ← kidsSide a right t
    let c2 ← if c.height ≤ b.height + 1 then mkSide right c b else joinSide a right n c b
    bal a right l c2

/-- Join, lines 01 to 06 of R189; none is the empty rope. -/
def join (a : Access) (x y : Option RT) : RM (Option RT) :=
  match x, y with
  | none, y => pure y
  | x, none => pure x
  | some x, some y =>
    if y.height + 1 < x.height then some <$> joinSide a true 64 x y
    else if x.height + 1 < y.height then some <$> joinSide a false 64 y x
    else some <$> mk x y

/-- Split of a rope that is not empty, lines 17 to 24 of R190. -/
def splitN (a : Access) : Nat → RT → Nat → RM (Option RT × Option RT)
  | 0, _, _ => RM.status stNode
  | n + 1, t, i => do
    if i = 0 then pure (none, some t)
    else if i = t.len then pure (some t, none)
    else if t.fields.leaf then
      let x ← cut a t 0 i true
      let y ← cut a t i (t.len - i) t.fields.cow
      pure (some x, some y)
    else
      let (l, y) ← kids a t
      if i < l.len then
        let (p, q) ← splitN a n l i
        pure (p, ← join a q (some y))
      else if i = l.len then pure (some l, some y)
      else
        let (p, q) ← splitN a n y (i - l.len)
        pure (← join a (some l) p, q)

/-- Split of any rope (R190, R201). -/
def split (a : Access) (t : Option RT) (i : Nat) : RM (Option RT × Option RT) :=
  match t with
  | none => pure (none, none)
  | some t => splitN a 65 t i

end RT

/-- LEN of a rope. -/
def ropeLen (t : Option RT) : Nat := t.elim 0 RT.len
/-- HEIGHT of a rope. DESIGN CHOICE: that of the empty rope, in what an edit reserves, is 0 (R192; log 73). -/
def ropeHeight (t : Option RT) : Nat := t.elim 0 RT.height

/-! ### Placing new nodes (R187, R188) -/

/-- What placing a tree comes to: its root, the records to write, the existing records and the pieces that new nodes point to,
and the addresses left. -/
structure Placed where
  va : Nat
  fields : RNode
  recs : List (Nat × RNode) := []
  incs : List Nat := []
  pieces : List Nat := []
  ids : List Nat

/-- Place a tree whose first element stands at absolute position q: addresses bottom-up, ANCHOR the absolute start, summaries
from the children taken at their starts (R185, R187). -/
def RT.place : RT → Nat → List Nat → Placed
  | .old va r, _, ids => { va := va, fields := r, ids := ids }
  | .leaf r data, q, ids =>
    let va := ids.headD 0
    let f := { r with anchor := q,
                      slots := (List.range 4).map fun k =>
                        leafSummary r.schema k (if (slotDesc r.schema k).cls = 2 then q else 0) data }
    { va := va, fields := f, recs := [(va, f)], pieces := [r.left], ids := ids.tail }
  | .node r l t, q, ids =>
    let x := l.place q ids
    let y := t.place (q + l.len) x.ids
    let va := y.ids.headD 0
    let f := { r with anchor := q, left := x.va, right := y.va,
                      slots := (List.range 4).map fun k =>
                        (slotDesc r.schema k).combine (x.fields.slotAt k q) (y.fields.slotAt k (q + l.len)) l.len }
    let ext : RT → Placed → List Nat := fun u p => match u with
      | .old .. => [p.va]
      | _ => []
    { va := va, fields := f, recs := x.recs ++ y.recs ++ [(va, f)], incs := x.incs ++ y.incs ++ ext l x ++ ext t y,
      pieces := x.pieces ++ y.pieces, ids := y.ids.tail }

/-! ### Pools (R188, R195, R296) -/

namespace State

/-- A partition's pool. -/
def pool (s : State) (part : Nat) : Pool := s.mod.mem.pools.get part {}
/-- Replace a partition's pool. -/
def setPool (s : State) (part : Nat) (p : Pool) : State := s.updMem fun m => { m with pools := m.pools.set part p }

/-- One page for a partition's pool, counted against its quota: a free one, else a new one (R296; log 17). -/
def poolTake (s : State) (part : Nat) : Option (Nat × State) :=
  (s.takePages part 1).map fun t =>
    let p := t.pool part
    match p.pieces with
    | v :: rest => (v, t.setPool part { p with pieces := rest })
    | [] => (Config.poolPage part p.pages, t.setPool part { p with pages := p.pages + 1 })

/-- The addresses of the 512 records of a page. -/
def pageRecs (page : Nat) : List Nat := (List.range 512).map fun j => page + 128 * j

/-- Make a pool hold at least `n` free records. -/
def stockRecs (s : State) (part n : Nat) : Nat → Option State
  | 0 => some s
  | k + 1 =>
    if n ≤ (s.pool part).recs.length then some s
    else (s.poolTake part).bind fun r =>
      let p := r.2.pool part
      (r.2.setPool part { p with recs := p.recs ++ pageRecs r.1 }).stockRecs part n k

/-- Reserve `n` records (R188). -/
def reserveRecs (s : State) (part n : Nat) : Option (List Nat × State) :=
  (s.stockRecs part n (n / 512 + 1)).map fun t =>
    let p := t.pool part
    (p.recs.take n, t.setPool part { p with recs := p.recs.drop n })

/-- Whether a page belongs to a partition's pool. -/
def inPool (s : State) (part va : Nat) : Bool :=
  let k := (va - Config.poolPage part 0) / 65536
  Config.poolPage part 0 ≤ va && k < (s.pool part).pages

/-- Return a record to its pool; a page whose records are all free returns whole (R195, R296). -/
def returnRec (s : State) (part va : Nat) : State :=
  if !s.inPool part va then s
  else
    let p := s.pool part
    let page := va / 65536 * 65536
    let recs := p.recs ++ [va]
    let mine : Nat → Bool := fun r => r / 65536 * 65536 == page
    if (recs.filter mine).length = 512 then
      (s.setPool part { p with recs := recs.filter fun r => !mine r, pieces := p.pieces ++ [page] }).givePages part 1
    else s.setPool part { p with recs := recs }

/-- Return a piece to its pool (R195, R296). -/
def returnPiece (s : State) (part va : Nat) : State :=
  if !s.inPool part va then s
  else
    let p := s.pool part
    (s.setPool part { p with pieces := p.pieces ++ [va] }).givePages part 1

/-- Return what an edit reserved and did not use (R188). -/
def unreserve (s : State) (part : Nat) (recs : List Nat) (piece : Option Nat) : State :=
  let t := recs.foldl (fun u r => u.returnRec part r) s
  piece.elim t (t.returnPiece part)

/-! ### Reference counts (R193 to R195) -/

/-- How a die's engines access the counts and records of a partition: through its TLB, with write permission (R293, R295). -/
def countAccess (part d : Nat) : Access := { core := d * 640, rope := false, l1 := false, part := part }

/-- Bytes of one sector are read, and what `f` makes of them is written, in one step at its controller (R194, R286, R289). -/
def modify (s : State) (a : Access) (va n : Nat) (f : List Byte → List Byte) : Except AccErr (List Byte × Nat × State) := do
  let (p, t) ← s.physOf a va true
  let (b, _, t) ← t.fetchPieces a.part [⟨p.1, n, 0⟩]
  let (_, t) ← t.storePieces a.part [⟨p.1, n, 0⟩] (f b)
  .ok (b, p.1, t)

/-- What such an access that ended with an error leaves (R288). -/
def refusedModify (s : State) (a : Access) (va n : Nat) (e : AccErr) : State := s.refusedAt a va n true Memory.pieceSectors e

/-- An item that enters the reclaim queue of the die that holds it (R195). -/
def enqueueFreed (s : State) (part va pa : Nat) (piece : Bool) : State :=
  let s := s.updMem fun m => { m with epoch := m.epoch + 1 }
  s.updDie (pa / 2 ^ 38) fun x => { x with freed := x.freed ++ [⟨va, part, piece, s.mod.mem.epoch, piece⟩] }

/-- The new value of a count (R193, R194): no record's count at 0 changes, nor falls a piece's.
DESIGN CHOICE: a count that would pass 2^32 - 1 wraps (log 73). -/
def newCount (inc piece : Bool) (n : Nat) : Nat :=
  if n = 0 ∧ !(inc && piece) then n else if inc then (n + 1) % 2 ^ 32 else n - 1

/-- An update of the count at a virtual address, REFCNT of a record or PREF of a piece, at its controller (R180, R183), through a
translation that allows writes and marks its page dirty (R293, R295); one that reaches 0 frees its record or piece (R195). -/
def applyCount (s : State) (a : Access) (va : Nat) (inc : Bool) : Except AccErr State := do
  let piece := va % 65536 == 0
  let (b, pa, t) ← s.modify a va 4 fun b => leBytes 4 (newCount inc piece (leNat b))
  .ok (if !inc && leNat b == 1 then t.enqueueFreed a.part (if piece then va else va - 16) pa piece else t)

/-- An update in flight has been performed, or will never be. -/
def dropUpdate (s : State) (u : Nat × Bool × Nat × Nat) : State := s.updMem fun m => { m with refUpd := m.refUpd.erase u }

/-- An update in flight reaches its controller: it waits for its translation where there is none yet, and is lost where the service core
declares a fault or memory refuses it (R293; log 68). -/
def performUpdate (s : State) (u : Nat × Bool × Nat × Nat) : State :=
  match s.applyCount (countAccess u.2.2.1 u.2.2.2) u.1 u.2.1 with
  | .ok t => t.dropUpdate u
  | .error (.miss r) => match s.dieAwait u.2.2.2 r with
    | (some _, t) => t.dropUpdate u
    | (none, t) => t
  | .error e => (s.refusedModify (countAccess u.2.2.1 u.2.2.2) u.1 4 e).dropUpdate u

/-- The updates in flight to an address are performed, in the order sent (R194). -/
def settle (s : State) (va part : Nat) : State :=
  (s.mod.mem.refUpd.filter fun u => u.1 == va && u.2.2.1 == part).foldl performUpdate s

end State

/-- Change the REFCNT of a record, or the PREF of a piece, and wait until it is performed: the updates sent before it come
first (R194). -/
def countNow (a : Access) (va : Nat) (inc : Bool) : RM Unit := fun s =>
  let t := s.settle va a.part
  match t.applyCount a va inc with
  | .ok u => .ok ((), u)
  | .error e => .error ⟨.ofAccess e, t.refusedModify a va 4 e⟩

/-- Change a record's REFCNT. -/
def refNow (a : Access) (va : Nat) (inc : Bool) : RM Unit := if va = 0 then pure () else countNow a (va + 16) inc

/-- Apply an operation to each element of a list in turn. -/
def RM.each {α : Type} (f : α → RM Unit) : List α → RM Unit
  | [] => pure ()
  | x :: xs => do
    f x
    RM.each f xs

/-- A root among an edit's inputs, in the order of R188 step 2; none is the empty rope. -/
def rootOf (a : Access) (va : Nat) : RM (Option RT) :=
  if va = 0 then pure none else do pure (some (.old va (← readNode a va)))

end Sys2Proof.Machine
end

