-- ==== Sys2Proof/Machine/Rope.lean ====
section
/-!
DEFINITION. The meanings of ROPE-EDIT, ROPE-QUERY and ROPE-REF (R188 to R204), and of the rope unit's events (R188, R194, R195).
-/
namespace Sys2Proof.Machine
open State

/-- The partition of a core's launch (R253); a service core that runs no node acts in partition 0. -/
def State.partition (s : State) (i : CoreId) : Nat := (s.core i).run.elim 0 (·.part)

/-- How the rope unit of a core accesses memory (R291). -/
def ropeAccess (s : State) (i : CoreId) : Access := { core := i, rope := true, l1 := true, part := s.partition i }

/-- Whether a deferred trap is a rope edit's (R199). -/
def DeferKey.isRope : DeferKey → Bool
  | .edit _ => true
  | _ => false

/-- Trap ROPE with a status (R199). -/
def ropeTrap (st : Nat) : Stop := .trap .rope (BitVec.ofNat 64 (st * 65536))

/-! ### Issuing an edit (R188 step 1, R200, R201) -/

/-- The elements an edit appends or stores, as RNEW's G[B] and the word in RAPP's block give them. -/
def editCount (e : Edit) : Nat :=
  match e.instr with
  | .rnew .. => e.gb.toNat
  | .rapp .. => (e.par.headD 0#64).toNat
  | _ => 0

/-- The bytes of an edit's scratchpad source. -/
def editBytes (e : Edit) : Nat := editCount e * schemaEsz e.schema

/-- The scratchpad address of an edit's source. -/
def editSource (e : Edit) : Word :=
  match e.instr with
  | .rnew .. => e.ga
  | _ => e.gb

/-- The checks at issue of an edit with a source (R201). -/
def sourceCheck (c : Core) (sl : Option Nat) (e : Edit) : Except Stop Unit :=
  match sl with
  | none => .ok ()
  | some k => do
    if !c.en.schemas.has k then .error (ropeTrap 0x13)
    if 65472 < editBytes e then .error (ropeTrap 0x14)
    if editBytes e ≠ 0 then blockCheck (editSource e) (editBytes e)

/-- The granules of an edit's block, which the DMA port writes at the edit's end. -/
def blockWrites (e : Edit) : Nat := match e.instr with
  | .rsplit .. => 16
  | _ => 8

/-- Issue an edit (R188): `inN` the bytes of parameters in its block, `sl` the schema slot it names. The block is
read, and poison in it kills the core, before a check that needs its bytes (log 77). -/
def issueEdit (s : State) (i : Instr) (d : Fld) (ga gb gc : Word) (sl : Option Nat) (inN : Nat) : State :=
  let c := s.here
  let k := s.slot
  let x := s.me
  if 16 ≤ c.en.ropeQ.length then s.stop .hold
  else s.orDeferred DeferKey.isRope (s.finish 8 (do
    let blk := gc.toNat
    let e : Edit :=
      { ticket := c.en.ticketNext, owner := k, slot := k, instr := i, ga := ga, gb := gb, block := blk, par := [],
        schema := sl.elim 0 (c.en.schemas.get · 0), sel := x.rotSel, ver := c.un.bandVer.get x.rotSel.toNat 0,
        row := c.sp.seenRow k, part := s.partition s.cur,
        launch := c.run.map (·.launch) }
    blockCheck gc (Nat.max inN (blockWrites e))
    let r ← c.readRanges k [(blk, inN)]
    let e := { e with par := (List.range (inN / 8)).map fun j => BitVec.ofNat 64 (c.sp.mem.readLE (blk + 8 * j) 8) }
    sourceCheck c sl e
    let id := EngineId.edit s.cur e.ticket
    let out := granules blk (blockWrites e)
    match out.find? (c.sp.dmaWriteConflict id k e.row) with
    | some q => .error (.trap .mmx (BitVec.ofNat 64 (q * 64)))
    | none =>
      let c := r.updSp fun sp =>
        let sp := out.foldl (fun t q => t.dmaStamp id q) sp
        if editBytes e = 0 ∨ sl.isNone then sp
        else { sp with srcs := sp.srcs ++ [⟨id, [((editSource e).toNat, editBytes e)]⟩] }
      let c := c.updEn fun en => { en with ropeQ := en.ropeQ ++ [e],
                                           ticketNext := if en.ticketNext = 65535 then 1 else en.ticketNext + 1 }
      .ok (c.wg k d.toNat (BitVec.ofNat 64 e.ticket))))

/-- RNEW (R201). -/
def execRnew (d a b c : Fld) (sl : BitVec 2) (s : State) : Out :=
  .next (issueEdit s (.rnew d a b c sl) d (s.me.rg a.toNat) (s.me.rg b.toNat) (s.me.rg c.toNat) (some sl.toNat) 0)
/-- RCAT (R189, R201). -/
def execRcat (d a b c : Fld) (s : State) : Out :=
  .next (issueEdit s (.rcat d a b c) d (s.me.rg a.toNat) (s.me.rg b.toNat) (s.me.rg c.toNat) none 0)
/-- RSPLIT (R190, R201). -/
def execRsplit (d a b c : Fld) (s : State) : Out :=
  .next (issueEdit s (.rsplit d a b c) d (s.me.rg a.toNat) (s.me.rg b.toNat) (s.me.rg c.toNat) none 0)
/-- RSPLICE (R191, R201). -/
def execRsplice (d a b c : Fld) (s : State) : Out :=
  .next (issueEdit s (.rsplice d a b c) d (s.me.rg a.toNat) (s.me.rg b.toNat) (s.me.rg c.toNat) none 16)
/-- RAPP (R192, R201). -/
def execRapp (d a b c : Fld) (sl : BitVec 2) (s : State) : Out :=
  .next (issueEdit s (.rapp d a b c sl) d (s.me.rg a.toNat) (s.me.rg b.toNat) (s.me.rg c.toNat) (some sl.toNat) 8)

/-! ### Roots and reservation (R188 step 2) -/

/-- The input roots of an edit, in order. -/
def editRoots (e : Edit) : List Nat :=
  match e.instr with
  | .rcat .. | .rsplice .. => [e.ga.toNat, e.gb.toNat]
  | .rsplit .. | .rapp .. => [e.ga.toNat]
  | _ => []

/-- Read and check input roots, each against R183, its PART and its SCHEMA (R188 step 2). -/
def readRoots (a : Access) (want : Option Nat) : List Nat → RM (List (Option RT))
  | [] => pure []
  | va :: rest => do
    match ← rootOf a va with
    | none => pure (none :: (← readRoots a want rest))
    | some t =>
      RM.unless (t.fields.part != a.part) 0x15
      RM.unless (want.any (· != t.fields.schema)) 0x13
      pure (some t :: (← readRoots a (some t.fields.schema) rest))

/-- The roots of an edit, checked. -/
def editInputs (a : Access) (e : Edit) : RM (List (Option RT)) :=
  let want := match e.instr with
    | .rapp .. => some e.schema
    | _ => none
  readRoots a want (editRoots e)

/-- The records and pieces an edit reserves (R188 to R192, R201). -/
def editReserve (e : Edit) (roots : List (Option RT)) : Nat × Nat :=
  let h := (roots.map ropeHeight).foldl Nat.max 0
  match e.instr with
  | .rnew .. => if editCount e = 0 then (0, 0) else (1, 1)
  | .rcat .. => (h + 2, 0)
  | .rsplit .. => (5 * h + 2, 0)
  | .rsplice .. => (12 * h + 9, 0)
  | _ => if editCount e = 0 then (0, 0) else (h + 3, 1)

/-- Step 2 of R188: the reserved records and piece, QUOTA where the quota refuses a page. -/
def editStart (a : Access) (e : Edit) : RM (List Nat × Option Nat) := do
  let roots ← editInputs a e
  let n := editReserve e roots
  fun s =>
    match (s.reserveRecs a.part n.1).bind fun r =>
      if n.2 = 0 then some ((r.1, none), r.2) else (r.2.poolTake a.part).map fun p => ((r.1, some p.1), p.2) with
    | some r => .ok r
    | none => .error ⟨.status 0x18 0, s⟩

/-! ### Build phase (R188 step 3) -/

/-- What an edit has built: its result roots; the piece it fills, with its data; the bytes it appends in place, with their piece
and the frontier. -/
structure Built where
  roots : List (Option RT)
  fresh : Option (Nat × List Byte) := none
  inPlace : Option (Nat × Nat × List Byte) := none

/-- The DMA port's read of an edit's source: a conflict ends the edit with race (R200). -/
def readSource (a : Access) (e : Edit) : RM (List Byte) := fun s =>
  let sp := (s.core a.core).sp
  let src := (editSource e).toNat
  match (granules src (editBytes e)).find? (sp.dmaReadConflict (.edit a.core e.ticket) e.slot e.row) with
  | some q => .error ⟨.status 2 (q * 64), s⟩
  | none => .ok (sp.mem.readBytes src (editBytes e), s)

/-- A new leaf with COW 0 that holds `data` in a new piece (R192, R201). -/
def freshLeaf (a : Access) (e : Edit) (schema : Nat) (data : List Byte) : RT :=
  .leaf { part := a.part, rotver := e.ver, rotsel := e.sel.toNat, leaf := true, len := data.length / schemaEsz schema,
          left := e.piece.getD 0, right := 0, schema := schema } data

/-- A rope's tail leaf, with the left children of the right spine above it, lowest first (R192). -/
def tailOf (a : Access) : Nat → RT → List RT → RM (RT × List RT)
  | 0, _, _ => RM.status stNode
  | n + 1, t, above => do
    if t.fields.leaf then pure (t, above)
    else
      let (l, y) ← RT.kids a t
      tailOf a n y (l :: above)

/-- The right spine copied over a new tail leaf. -/
def respine : List RT → RT → RM RT
  | [], t => pure t
  | l :: above, t => do respine above (← RT.mk l t)

/-- RAPP of `data` to a rope (R192). -/
def append (a : Access) (e : Edit) (t : RT) (data : List Byte) : RM Built := do
  let (tl, above) ← tailOf a 65 t []
  let r := tl.fields
  let esz := schemaEsz r.schema
  let stamped := r.rotsel == e.sel.toNat && r.rotver == e.ver
  let (hdr, poison) ← readMem a r.left 64
  if poison then RM.fail .again
  else
    let used := field hdr 4 4
    let spine : RT → RM (List (Option RT)) := fun leaf => do pure [some (← respine above leaf)]
    if !r.cow && r.ref == 1 && stamped && used == r.right + r.len * esz && used + data.length ≤ 65472 then
      let old ← RT.elems a tl 0 r.len
      let roots ← spine (.leaf { r with len := r.len + editCount e, ref := 1 } (old ++ data))
      pure { roots := roots, inPlace := some (r.left, used, data) }
    else if stamped && (r.len + editCount e) * esz ≤ 65472 then
      let old ← RT.elems a tl 0 r.len
      let roots ← spine (freshLeaf a e r.schema (old ++ data))
      pure { roots := roots, fresh := some (e.piece.getD 0, old ++ data) }
    else
      let leaf := freshLeaf a e r.schema data
      pure { roots := [← RT.join a (some t) (some leaf)], fresh := some (e.piece.getD 0, data) }

/-- The build phase of an edit (R188 step 3). -/
def editBuild (a : Access) (e : Edit) : RM Built := do
  let roots ← editInputs a e
  let x := (roots.headD none)
  let y := (roots.tail.headD none)
  match e.instr with
  | .rcat .. => pure { roots := [← RT.join a x y] }
  | .rsplit .. =>
    RM.unless (ropeLen x < e.gb.toNat) 0x12
    let (p, q) ← RT.split a x e.gb.toNat
    pure { roots := [p, q] }
  | .rsplice .. =>
    let i := (e.par.headD 0#64).toNat
    let n := (e.par.tail.headD 0#64).toNat
    RM.unless (ropeLen x < i + n) 0x12
    let (p, q) ← RT.split a x i
    let (_, z) ← RT.split a q n
    pure { roots := [← RT.join a (← RT.join a p y) z] }
  | _ =>
    if editCount e = 0 then pure { roots := [x] }
    else
      let data ← readSource a e
      match x with
      | none => pure { roots := [some (freshLeaf a e e.schema data)], fresh := some (e.piece.getD 0, data) }
      | some t => append a e t data

/-! ### Commit phase (R188 step 4) -/

/-- The header of a piece with its data bytes written so far (R180). -/
def pieceHeader (used : Nat) : List Byte := leBytes 4 0 ++ leBytes 4 used ++ leBytes 56 0

/-- The DMA port carries the poison of an edit's source into the piece (R130). -/
def carryPoison (a : Access) (e : Edit) (va : Nat) : RM Unit := fun s =>
  let sp := (s.core a.core).sp
  let src := (editSource e).toNat
  let bad := (List.range (editBytes e)).filter fun j => (sp.poisonIn (src + j) 1).isSome
  if bad.isEmpty then .ok ((), s)
  else match s.physOf a va true with
    | .ok (p, t) => .ok ((), t.updMem fun m =>
        { m with poison := bad.foldl (fun l j => let q := (p.1 + j) / 64; if l.contains q then l else l ++ [q]) m.poison })
    | .error e => .error ⟨.ofAccess e, s⟩

/-- Place the result roots one after another from the reserved addresses. -/
def placeRoots : List (Option RT) → List Nat → List (Option Placed) × List Nat
  | [], ids => ([], ids)
  | none :: rest, ids => let p := placeRoots rest ids; (none :: p.1, p.2)
  | some t :: rest, ids => let x := t.place 0 ids; let p := placeRoots rest x.ids; (some x :: p.1, p.2)

/-- Whether a tree is an existing node. -/
def RT.isOld : RT → Bool
  | .old .. => true
  | _ => false

/-- The counts that an edit increments, by address: of the nodes that new nodes point to, of their pieces, of the existing nodes that are
results (R188 step 4). -/
def builtCounts (b : Built) (ps : List (Option Placed)) : List Nat :=
  let placed := ps.filterMap id
  (placed.flatMap Placed.incs ++ (b.roots.zip ps).filterMap fun p => if p.1.any RT.isOld then p.2.map Placed.va else none).filterMap
      (fun va => if va = 0 then none else some (va + 16))
    ++ placed.flatMap Placed.pieces

/-- The commit phase cannot fault: all that it writes is found writable in the build phase, before any of it is written (R188). -/
def editProbe (a : Access) (b : Built) (ps : List (Option Placed)) : RM Unit := do
  RM.each (fun (r : Nat × RNode) => probeMem a r.1 r.2.bytes) ((ps.filterMap id).flatMap Placed.recs)
  match b.fresh with
  | some (va, data) => probeMem a va (pieceHeader data.length ++ data)
  | none => pure ()
  match b.inPlace with
  | some (va, used, data) =>
    probeMem a (va + 64 + used) data
    probeMem a (va + 4) (leBytes 4 (used + data.length))
  | none => pure ()
  RM.each (fun va => probeMem a va (leBytes 4 0)) (builtCounts b ps)

/-- Write what an edit has built, count its pointers, and answer its result roots (R188 step 4). -/
def editWrite (a : Access) (e : Edit) (b : Built) : RM (List Nat) := do
  let (ps, left) := placeRoots b.roots e.reserved
  let placed := ps.filterMap id
  editProbe a b ps
  match b.fresh with
  | some (va, data) =>
    writeMem a va (pieceHeader data.length ++ data)
    carryPoison a e (va + 64 + data.length - editBytes e)
  | none => pure ()
  match b.inPlace with
  | some (va, used, data) =>
    writeMem a (va + 64 + used) data
    writeMem a (va + 4) (leBytes 4 (used + data.length))
    carryPoison a e (va + 64 + used)
  | none => pure ()
  RM.each (fun (r : Nat × RNode) => writeMem a r.1 r.2.bytes) (placed.flatMap Placed.recs)
  RM.each (fun va => refNow a va true) (placed.flatMap Placed.incs)
  RM.each (fun va => countNow a va true) (placed.flatMap Placed.pieces)
  RM.each (fun va => refNow a va true)
    ((b.roots.zip ps).filterMap fun p => if p.1.any RT.isOld then p.2.map Placed.va else none)
  fun s => .ok (ps.map fun p => p.elim 0 Placed.va,
                s.unreserve a.part left (if b.fresh.isSome then none else e.piece))

/-! ### The end of an edit (R188, R199, R382) -/

/-- The deferred trap of a failed edit (R199). -/
def editTrap (e : Edit) (st detail : Nat) : Defer :=
  let t := BitVec.ofNat 64 e.ticket
  if st = 0x18 then ⟨.edit e.ticket, e.owner, .quota, BitVec.ofNat 64 (e.part + 2 ^ 48 * e.ticket)⟩
  else if st = 2 then ⟨.edit e.ticket, e.owner, .mmx, BitVec.ofNat 64 detail⟩
  else ⟨.edit e.ticket, e.owner, .rope, BitVec.ofNat 64 (st * 65536) + t⟩

/-- An edit ends: a completion of the DMA port; its record; for a status, its deferred trap (R188, R199). -/
def endEdit (s : State) (i : CoreId) (e : Edit) (st detail : Nat) : State :=
  let w0 := Core.recWord 2 e.slot e.ticket st none
  s.updCore i fun c =>
    let c := c.updSp (·.complete (.edit i e.ticket))
    let c := c.updEn fun en => { en with editRun := none }
    let c := c.post { w0 := w0, w1 := BitVec.ofNat 64 detail, key := if st = 0 then none else some (.edit e.ticket),
                      obs := Row.obs c.sp.compl }
    if st = 0 then c else c.addDefer (editTrap e st detail)

/-- An edit ends with a status: what it reserved returns (R188). -/
def failEdit (s : State) (i : CoreId) (e : Edit) (st detail : Nat) : State :=
  endEdit (s.unreserve e.part e.reserved e.piece) i e st detail

/-- An edit's result stands in its block, but for the words that hold theirs already, and the edit is done. -/
def doneEdit (s : State) (i : CoreId) (e : Edit) (roots : List Nat) : State :=
  let put : Spad → Spad := fun sp =>
    if e.landed.isEmpty then sp.store e.block (roots.flatMap (leBytes 8))
    else roots.zipIdx.foldl (fun sp x => if e.landed.contains x.2 then sp else sp.store (e.block + 8 * x.2) (leBytes 8 x.1)) sp
  endEdit (s.updCore i fun c => c.updSp put) i e 0 (8 * roots.length)

/-- What an edit's failed attempt leaves: it waits for its translation, tries again, or has ended with a status. -/
def editErr (s : State) (i : CoreId) (e : Edit) : RErr → State
  | .status st detail => failEdit s i e st detail
  | .miss r => s.updCore i fun c => c.updEn fun en => { en with editRun := some { e with miss := some r } }
  | .again | .stop _ => s

/-- The edit at the head of a core's rope queue, or the one that has begun and waits for its roots' translation. -/
def editHead (c : Core) : Option Edit :=
  match c.en.editRun with
  | some e => if !e.started && e.miss.isNone then some e else none
  | none => if c.holdsRecord .rope then none else c.en.ropeQ.head?

/-- ROPE_EDIT_START: roots and reservation of the edit at the head (R188 step 2). A fault declared for it ends it (R293). -/
def execRopeEditStart (core : Nat) (s : State) : Out :=
  .next (match editHead (s.core core) with
  | none => s
  | some e =>
    let a : Access := { core := core, rope := true, l1 := true, part := e.part }
    let t := if (s.core core).en.editRun.isSome then s
      else s.updCore core fun c => c.updEn fun en => { en with ropeQ := en.ropeQ.tail, editRun := some e }
    match e.fault with
    | some st => failEdit t core e st 0
    | none => match editStart a e t with
      | .ok (r, u) => u.updCore core fun c => c.updEn fun en =>
          { en with editRun := some { e with started := true, reserved := r.1, piece := r.2 } }
      | .error x => editErr (t.metErrors x.s) core e x.why)

/-- The edit of a core that is ready to build and commit. -/
def editReady (c : Core) : Option Edit := c.en.editRun.filter fun e => e.started && e.miss.isNone

/-- The build and commit phases of an edit (R188 steps 3 and 4), unless they have been done: its result roots, or what an attempt that fails
leaves. -/
def commitEdit (s : State) (core : CoreId) (e : Edit) : Except State (List Nat × State) :=
  let a : Access := { core := core, rope := true, l1 := true, part := e.part }
  match e.roots, e.fault with
  | some roots, _ => .ok (roots, s)
  | none, some st => .error (failEdit s core e st 0)
  | none, none => match (do editWrite a e (← editBuild a e) : RM (List Nat)) s with
    | .ok r => .ok r
    | .error x => .error (editErr (s.metErrors x.s) core e x.why)

/-- ROPE_EDIT_COMMIT: the build and commit phases of the running edit, and its end (R188 steps 3 and 4). -/
def execRopeEditCommit (core : Nat) (s : State) : Out :=
  .next (match editReady (s.core core) with
  | none => s
  | some e => match commitEdit s core e with
    | .ok (roots, t) => doneEdit t core e roots
    | .error t => t)

/-- A word of the block of an edit, committed now if it has not been, holds its root before the edit's end (R188, R380; log 5). -/
def landEdit (s : State) (core w : Nat) : State :=
  match editReady (s.core core) with
  | none => s
  | some e => match commitEdit s core e with
    | .error _ => s
    | .ok (roots, t) =>
      if e.landed.contains w then s
      else match roots[w]? with
        | none => s
        | some v => t.updCore core fun c => (c.updSp (·.store (e.block + 8 * w) (leBytes 8 v))).updEn fun en =>
            { en with editRun := some { e with roots := some roots, landed := w :: e.landed, reserved := [], piece := none } }

/-! ### Queries and reference operations (R197, R199, R202, R203) -/

/-- Whether an instruction is a query or a reference operation, which holds its context (R197). RDECL, which R197 names apart, counts as one
(DESIGN CHOICE, log 73). -/
def isRopeOp : Instr → Bool
  | .ridx .. | .rsum .. | .rlen .. | .rwalk .. | .rvalidChk .. | .rvalidFix .. | .rtake .. | .rpub .. | .rpubCmp ..
  | .rrel .. | .rdecl .. => true
  | _ => false

/-- The queries and reference operations in progress on a core (R197). -/
def ropeOps (c : Core) : Nat := (c.bar.ctxs.entries.filter fun p => p.2.held.any isRopeOp).length

/-- Run a query or a reference operation for the context whose turn it is: it completes, traps at once (R199), or holds the
context while a translation is fetched or a transient error is read again (R293, R288). -/
def ropeRun (s : State) (i : Instr) (body : RM Unit) : State :=
  match body s with
  | .ok (_, t) => t.advance 8
  | .error f =>
    let s := s.metErrors f.s
    match f.why with
    | .stop e => s.stop e
    | .status st _ =>
      if st = 0x18 then s.takeTrap .quota (BitVec.ofNat 64 (s.partition s.cur))
      else s.stop (ropeTrap st)
    | .miss r => s.updMe fun x => { x with held := some i, heldOn := some r }
    | .again => s.updMe fun x => { x with held := some i, heldOn := none }

/-- Issue a query, a reference operation or RDECL (log 73): the fifth at once is not ready (R197); a failed edit's trap comes first
(R199). -/
def ropeIssue (s : State) (i : Instr) (body : RM Unit) : State :=
  if 4 ≤ ropeOps s.here then s.stop .hold else s.orDeferred DeferKey.isRope (ropeRun s i body)

namespace RM

/-- The state as it stands. -/
def getS : RM State := fun s => .ok (s, s)
/-- Change the state. -/
def upd (f : State → State) : RM Unit := fun s => .ok ((), f s)
/-- Write a scalar of the context whose turn it is. -/
def putG (d : Fld) (v : Nat) : RM Unit := upd fun s => s.updMe (·.wg d.toNat (BitVec.ofNat 64 v))
/-- Change the core whose turn it is, or stop. -/
def onCore (f : Core → Nat → Except Stop Core) : RM Unit := fun s =>
  match f s.here s.slot with
  | .ok c => .ok ((), s.setCore s.cur c)
  | .error e => .error ⟨.stop e, s⟩
/-- A scalar of the context whose turn it is. -/
def getG (f : Fld) : RM Word := fun s => .ok (s.me.rg f.toNat, s)

end RM

/-- Read the words of a query's block (R200). -/
def readBlock (g : Word) (n whole : Nat) : RM (List Nat) := do
  RM.check (blockCheck g whole)
  RM.onCore fun c k => c.readRanges k [(g.toNat, n)]
  let s ← RM.getS
  pure ((List.range (n / 8)).map fun j => s.here.sp.mem.readLE (g.toNat + 8 * j) 8)

/-- Write a query's results into its block, as a store by the context (R200). -/
def writeBlock (g : Word) (bs : List Byte) : RM Unit :=
  RM.onCore fun c k => do
    let c ← c.writeRanges k [(g.toNat, bs.length)]
    .ok (c.updSp (·.store g.toNat bs))

/-- The leaf of element p of a node that starts at q: the leaf, its start, p within it (R202). -/
def findElem (a : Access) : Nat → RT → Nat → Nat → RM (RNode × Nat × Nat)
  | 0, _, _, _ => RM.status stNode
  | n + 1, t, p, q => do
    if t.fields.leaf then pure (t.fields, q, p)
    else
      let (l, y) ← RT.kids a t
      if p < l.len then findElem a n l p q else findElem a n y (p - l.len) (q + l.len)

/-- Element p of a rope: POSITION where it has none (R202). -/
def elemOf (a : Access) (root p : Nat) : RM (RNode × Nat × Nat) := do
  match ← rootOf a root with
  | none => RM.status 0x12
  | some t => do
    RM.unless (t.len ≤ p) 0x12
    findElem a 65 t p 0

/-- The address of element p of a leaf (R181). -/
def elemAddr (r : RNode) (p : Nat) : Nat := r.left + 64 + r.right + p * schemaEsz r.schema

/-- What RIDX does. -/
def ridxBody (d a b : Fld) : RM Unit := do
  let s ← RM.getS
  let (r, _, p) ← elemOf (ropeAccess s s.cur) (← RM.getG a).toNat (← RM.getG b).toNat
  RM.putG d (elemAddr r p)

/-- What RLEN does. -/
def rlenBody (d a : Fld) : RM Unit := do
  let s ← RM.getS
  RM.putG d (ropeLen (← rootOf (ropeAccess s s.cur) (← RM.getG a).toNat))

/-- What RWALK does. -/
def rwalkBody (d a b : Fld) : RM Unit := do
  let g ← RM.getG b
  let par ← readBlock g 8 32
  let s ← RM.getS
  let (r, q, p) ← elemOf (ropeAccess s s.cur) (← RM.getG a).toNat (par.headD 0)
  writeBlock g (leBytes 8 (elemAddr r p) ++ leBytes 8 q ++ leBytes 8 r.len ++ leBytes 8 r.header)
  RM.putG d (q + r.len)

/-- Sum(t, i, j, q) of R202 for slot k: the summary and the number of stale nodes used. -/
def sumOf (a : Access) (k : Nat) : Nat → RT → Nat → Nat → Nat → RM (Sum2 × Nat)
  | 0, _, _, _, _ => RM.status stNode
  | n + 1, t, i, j, q => do
    let r := t.fields
    let d := slotDesc r.schema k
    if i = j then pure (d.identity, 0)
    else if i = 0 ∧ j = t.len then pure (r.slotAt k q, if d.cls = 2 ∧ r.anchor ≠ q then 1 else 0)
    else if r.leaf then do
      let bs ← RT.elems a t i (j - i)
      pure (leafSummary r.schema k (if d.cls = 2 then q + i else 0) bs, 0)
    else do
      let (l, y) ← RT.kids a t
      let m := l.len
      let (u, su) ← sumOf a k n l (Nat.min i m) (Nat.min j m) q
      let (v, sv) ← sumOf a k n y (Nat.max i m - m) (Nat.max j m - m) (q + m)
      pure (d.combine u v (Nat.min j m - Nat.min i m), su + sv)

/-- The range, the summary over it as 16 bytes, and the stale nodes used, of RSUM and RVALID (R202). -/
def rangeSum (a : Fld) (g : Word) (k : Nat) : RM (List Byte × Nat) := do
  let par ← readBlock g 16 16
  let i := par.headD 0
  let j := par.tail.headD 0
  let s ← RM.getS
  let x := ropeAccess s s.cur
  let root ← rootOf x (← RM.getG a).toNat
  RM.unless (j < i || ropeLen root < j) 0x12
  match root with
  | none => pure (List.replicate 16 0#8, 0)
  | some t => do
    let (v, stale) ← sumOf x k 65 t i j 0
    pure (leBytes 8 v.1 ++ leBytes 8 v.2, stale)

/-- What RSUM does. -/
def rsumBody (d a b : Fld) (sl : BitVec 2) : RM Unit := do
  let g ← RM.getG b
  let (v, stale) ← rangeSum a g sl.toNat
  if 0 < stale then RM.putG d 1
  else do
    writeBlock g v
    RM.putG d 0

/-- What RVALID.chk does. -/
def rvalidChkBody (d a b : Fld) (sl : BitVec 2) : RM Unit := do
  let (_, stale) ← rangeSum a (← RM.getG b) sl.toNat
  RM.putG d stale

/-- What RVALID.fix does. -/
def rvalidFixBody (d a b : Fld) (sl : BitVec 2) : RM Unit := do
  let g ← RM.getG b
  let (v, stale) ← rangeSum a g sl.toNat
  writeBlock g v
  RM.putG d stale

/-! ### References (R193, R194, R203) -/

/-- A cell's address must be a multiple of 8 (R199). -/
def cellCheck (va : Word) : RM Unit := RM.unless (va.toNat % 8 != 0) 0x17

/-- A root cell's value; a poisoned one is read again, as a record is (R288; DESIGN CHOICE, log 73). -/
def readCell (a : Access) (va : Nat) : RM Nat := do
  let (b, poison) ← readMem a va 8
  if poison then RM.fail .again else pure (leNat b)

/-- Take one reference to a node that is not 0, checked (R193, R194). -/
def takeRef (a : Access) (root : Nat) : RM Unit := do
  if root = 0 then pure ()
  else do
    let _ ← readNode a root
    refNow a root true

/-- The tasting unit's record of a RTAKE of a tasted original run (R300): its value, and a reference for a root that is not 0;
the 65th RTAKE, or the 17th such root, drops the taste. -/
def recordTake (a : Access) (root : Nat) : RM Unit := fun s =>
  match (s.core a.core).run with
  | none => .ok ((), s)
  | some r =>
    let d := coreDie a.core
    match (s.partOf d r.launch).tastes.get? r.node with
    | none => .ok ((), s)
    | some t =>
      if r.kind ≠ .original ∨ t.phase ≠ .original then .ok ((), s)
      else if t.roots.length = 64 ∨ (root ≠ 0 ∧ (t.roots.filter (· != 0)).length = 16) then
        .ok ((), s.dropTaste d r.launch r.node)
      else
        refNow a root true (s.updPart d r.launch fun p =>
          { p with tastes := p.tastes.set r.node { t with roots := t.roots ++ [root] } })

/-- The next recorded root of a taste run (R302): beyond them the run is abandoned. -/
def recordedTake (a : Access) : RM Nat := fun s =>
  match (s.core a.core).run with
  | none => .error ⟨.stop .void, s⟩
  | some r =>
    let d := coreDie a.core
    match (s.partOf d r.launch).tastes.get? r.node with
    | none => .error ⟨.stop .void, s⟩
    | some t => match t.roots[t.taken]? with
      | none => .error ⟨.stop .void, s⟩
      | some root =>
        .ok (root, s.updPart d r.launch fun p => { p with tastes := p.tastes.set r.node { t with taken := t.taken + 1 } })

/-- The rope unit drops its cache, the tags of its ways with it (R116, R195). -/
def dropCache (s : State) (i : CoreId) : State :=
  s.updCore i fun c => (c.updSp fun sp => { sp with tags := sp.tags.filterVals fun j _ => !(sp.ropesFlag && 6 ≤ j % 8) }).updEn fun e =>
    { e with ropeCache := {}, ropeEpoch := s.mod.mem.epoch }

/-- The key of a root of a partition among the publications. -/
def pubKey (part root : Nat) : Nat := part * 2 ^ 56 + root

/-- A successful RPUB publishes the root it installs with what its context has acquired (R196, R298 note 2). -/
def publishRow (part root : Nat) : RM Unit := RM.upd fun s =>
  if root = 0 then s
  else s.updMem fun m => { m with pubs := m.pubs.set (pubKey part root) ((s.here.sp.seenRow s.slot).export s.cur) }

/-- An RTAKE acquires the publication of the root it returns (R196). -/
def takeRow (part root : Nat) : RM Unit := RM.upd fun s =>
  s.updHere (·.acquire s.slot (s.mod.mem.pubs.get (pubKey part root) {}))

/-- What RTAKE does (R194, R196, R300, R302). -/
def rtakeBody (d a : Fld) : RM Unit := do
  let s ← RM.getS
  let x := ropeAccess s s.cur
  RM.upd fun s => dropCache s s.cur
  if s.inTaste then do
    let root ← recordedTake x
    takeRef x root
    RM.putG d root
  else do
    let cell ← RM.getG a
    cellCheck cell
    let root ← readCell x cell.toNat
    takeRef x root
    recordTake x root
    takeRow x.part root
    RM.putG d root

/-- What RPUB and RPUB.cmp do: with an expected value, nothing changes where the cell holds another (R194, R196, R203). -/
def publish (d a b : Fld) (expect : Option Word) : RM Unit := do
  let s ← RM.getS
  let x := ropeAccess s s.cur
  let cell ← RM.getG a
  cellCheck cell
  let new := (← RM.getG b).toNat
  if new = 0 then pure () else do let _ ← readNode x new
  let old ← readCell x cell.toNat
  if expect.any (·.toNat != old) then RM.putG d old
  else do
    writeMem x cell.toNat (leBytes 8 new)
    RM.upd fun s => s.sendRef old false x.part (coreDie s.cur)
    publishRow x.part new
    RM.putG d old

/-- What RREL does (R195, R203). -/
def rrelBody (a : Fld) : RM Unit := do
  let s ← RM.getS
  let x := ropeAccess s s.cur
  let root := (← RM.getG a).toNat
  if root = 0 then pure ()
  else do
    let _ ← readNode x root
    refNow x root false

/-- What RDECL does (R198, R203). -/
def rdeclBody (sl : BitVec 2) (a : Fld) : RM Unit := do
  let g ← RM.getG a
  let par ← readBlock g 16 16
  let sch := par.headD 0 + 2 ^ 64 * par.tail.headD 0
  RM.unless (!schemaOk sch) 0x13
  RM.upd fun s => s.updHere (·.updEn fun e => { e with schemas := e.schemas.set sl.toNat sch })

/-- What a held query or reference operation does when it is carried on (R197). -/
def ropeBody : Instr → RM Unit
  | .ridx d a b => ridxBody d a b
  | .rsum d a b sl => rsumBody d a b sl
  | .rlen d a => rlenBody d a
  | .rwalk d a b => rwalkBody d a b
  | .rvalidChk d a b sl => rvalidChkBody d a b sl
  | .rvalidFix d a b sl => rvalidFixBody d a b sl
  | .rtake d a => rtakeBody d a
  | .rpub d a b => publish d a b none
  | .rpubCmp d a b c => do publish d a b (some (← RM.getG c))
  | .rrel a => rrelBody a
  | .rdecl sl a => rdeclBody sl a
  | _ => pure ()

/-- RIDX (R202). -/
def execRidx (d a b : Fld) (s : State) : Out := .next (ropeIssue s (.ridx d a b) (ridxBody d a b))
/-- RSUM (R202). -/
def execRsum (d a b : Fld) (sl : BitVec 2) (s : State) : Out := .next (ropeIssue s (.rsum d a b sl) (rsumBody d a b sl))
/-- RLEN (R202). -/
def execRlen (d a : Fld) (s : State) : Out := .next (ropeIssue s (.rlen d a) (rlenBody d a))
/-- RWALK (R202). -/
def execRwalk (d a b : Fld) (s : State) : Out := .next (ropeIssue s (.rwalk d a b) (rwalkBody d a b))
/-- RVALID.chk (R202). -/
def execRvalidChk (d a b : Fld) (sl : BitVec 2) (s : State) : Out :=
  .next (ropeIssue s (.rvalidChk d a b sl) (rvalidChkBody d a b sl))
/-- RVALID.fix (R202). -/
def execRvalidFix (d a b : Fld) (sl : BitVec 2) (s : State) : Out :=
  .next (ropeIssue s (.rvalidFix d a b sl) (rvalidFixBody d a b sl))
/-- RTAKE (R203). -/
def execRtake (d a : Fld) (s : State) : Out := .next (ropeIssue s (.rtake d a) (rtakeBody d a))
/-- RPUB: in a taste run it abandons the run (R203, R302). -/
def execRpub (d a b : Fld) (s : State) : Out :=
  .next (if s.inTaste then s.stop .void else ropeIssue s (.rpub d a b) (publish d a b none))
/-- RPUB.cmp (R203, R302). -/
def execRpubCmp (d a b c : Fld) (s : State) : Out :=
  .next (if s.inTaste then s.stop .void
    else ropeIssue s (.rpubCmp d a b c) (publish d a b (some (s.me.rg c.toNat))))
/-- RREL (R203). -/
def execRrel (a : Fld) (s : State) : Out := .next (ropeIssue s (.rrel a) (rrelBody a))
/-- RDECL (R203). -/
def execRdecl (sl : BitVec 2) (a : Fld) (s : State) : Out := .next (ropeIssue s (.rdecl sl a) (rdeclBody sl a))

/-! ### Counts and reclaim (R194, R195) -/

/-- REFCNT_UPDATE_ARRIVAL: the oldest update in flight to an address is performed at its controller (R194). -/
def execRefcntUpdateArrival (addr : Nat) (s : State) : Out :=
  .next (match s.mod.mem.refUpd.find? fun u => u.1 == addr with
  | none => s
  | some u => s.performUpdate u)

/-- What taking a freed record apart sends: its children's decrements, or its piece's (R195). -/
def takeApart (s : State) (d : Nat) (f : Freed) (b : List Byte) : State :=
  let r := readRecord b
  if r.leaf then s.updMem fun m => { m with refUpd := m.refUpd ++ [(r.left, false, f.part, d)] }
  else (s.sendRef r.left false f.part d).sendRef r.right false f.part d

/-- RECLAIM_ENGINE_STEP: the first freed record of a die is taken apart and zeroed through a translation that allows it; one whose record
cannot be reached counts as taken apart (R183, R195, R293; log 68). -/
def execReclaimEngineStep (die : Nat) (s : State) : Out :=
  .next (match (s.die die).freed.find? fun f => !f.done with
  | none => s
  | some f =>
    let apart : State → State := fun t =>
      t.updDie die fun x => { x with freed := x.freed.map fun g => if g = f then { g with done := true } else g }
    match s.modify (countAccess f.part die) f.va 128 fun _ => leBytes 128 0 with
    | .ok (b, _, t) => apart (takeApart t die f b)
    | .error (.miss r) => match s.dieAwait die r with
      | (some _, t) => apart t
      | (none, t) => t
    | .error e => apart (s.refusedModify (countAccess f.part die) f.va 128 e))

/-- ROPE_CACHE_DROP: a rope unit drops its whole cache (R195). -/
def execRopeCacheDrop (core : Nat) (s : State) : Out := .next (dropCache s core)

/-- Whether every rope unit has dropped its cache since an epoch; one that holds nothing counts as having dropped (R195). -/
def allDropped (s : State) (epoch : Nat) : Bool :=
  s.cores.entries.all fun p => p.2.en.ropeCache.entries.isEmpty || epoch ≤ p.2.en.ropeEpoch

/-- POOL_RETURN: the first item of a die that may return to its pool does (R195). -/
def execPoolReturn (die : Nat) (s : State) : Out :=
  .next (match (s.die die).freed.find? fun f => f.done && allDropped s f.epoch with
  | none => s
  | some f =>
    let t := s.updDie die fun x => { x with freed := x.freed.erase f }
    if f.piece then t.returnPiece f.part f.va else t.returnRec f.part f.va)

end Sys2Proof.Machine
end

