-- ==== Sys2Proof/Machine/Coll.lean ====
section
/-!
DEFINITION. Collectives (R373 to R377), and the events of a core's engine queues: the start of a queue's head (R121, R122) and the
entry of a held record (R128).
-/
namespace Sys2Proof.Machine
open State

/-! ### The collective block (R373) -/

/-- The fields of a collective block. -/
structure CollBlock where
  src : Nat
  dst : Nat
  table : Nat
  count : Nat
  fmt : Nat
  op : Nat
  npart : Nat
  rank : Nat
  ge : Bool
  gs : Bool
  gsl : Nat
  group : Nat
  deriving DecidableEq, Repr

/-- Read a collective block. -/
def readColl (b : List Byte) : CollBlock :=
  let g := field b 34 1
  { src := field b 0 8, dst := field b 8 8, table := field b 16 8, count := field b 24 4, fmt := field b 28 1, op := field b 29 1,
    npart := field b 30 2, rank := field b 32 2, ge := g / 32 % 2 == 1, gs := g / 16 % 2 == 1, gsl := g % 16,
    group := field b 36 4 }

/-- The bytes of one participant's contribution. -/
def CollBlock.bytes (q : CollBlock) : Nat := q.count * fmtSize q.fmt

/-- Two ranges of equal or other length are disjoint. -/
def apart (a n b m : Nat) : Bool := a + n ≤ b || b + m ≤ a

/-- FIELD of a collective: a reserved bit, a limit of R373, a forbidden overlap (R375). -/
def collOk (i : Instr) (b : List Byte) : Bool :=
  let q := readColl b
  let n := q.bytes
  let common := q.table % 4 == 0 && q.table < 2 ^ 56 && 1 ≤ q.npart && q.npart ≤ 4096 && q.rank < q.npart && field b 34 1 < 64
    && (q.ge || (!q.gs && q.gsl == 0)) && zeroBytes b 35 36 && zeroBytes b 40 64 && q.src < 2 ^ 56 && q.dst < 2 ^ 56
  common && (match i with
    | .clred .. => 1 ≤ q.count && q.count ≤ 2 ^ 28 && (q.fmt == 1 || q.fmt == 2 || q.fmt == 8) && (q.op == 1 || q.op == 2)
        && (q.src == q.dst || apart q.src n q.dst n)
    | .clgat .. => 1 ≤ q.count && q.count ≤ 2 ^ 28 && (q.fmt ≤ 2 || (8 ≤ q.fmt && q.fmt ≤ 10)) && q.op == 0
        && (q.src == q.dst + q.rank * n || apart q.src n q.dst (q.npart * n))
    | _ => q.count == 0 && q.fmt == 0 && q.op == 0 && q.src == 0 && q.dst == 0)

/-! ### Issue (R375) -/

/-- The key of a context's count of collectives with a GROUP. -/
def groupKey (slot group : Nat) : Nat := group * 16 + slot

/-- The SRC and DST ranges of a participant (R373, R375). -/
def collRanges (i : Instr) (b : List Byte) : List (Nat × Nat) :=
  let q := readColl b
  [(q.src, q.bytes), (q.dst, match i with
    | .clgat .. => q.npart * q.bytes
    | _ => q.bytes)]

/-- Issue a collective (R375), which is a release that its participants and their modules may acquire (R377); in a taste run it abandons the
run (R302). -/
def issueColl (s : State) (i : Instr) (d a : Fld) : State :=
  let g := s.me.rg a.toNat
  if s.inTaste then s.stop .void
  else if 16 ≤ s.here.en.copyQ.length then s.stop .hold
  else match (do
    blockCheck g 64
    let c ← s.here.readRanges s.slot [(g.toNat, 64)]
    let b := c.sp.mem.readBytes g.toNat 64
    if !collOk i b then .error (copyTrap 0x20)
    let key := groupKey s.slot (readColl b).group
    let (tid, c) := c.takeTid
    let m : Coll := { tid := tid, owner := s.slot, slot := s.slot, instr := i, block := b, fmode := s.me.fmode,
                      row := c.sp.seenRow s.slot, gen := s.mod.gen, seq := c.en.groups.get key 0, run := c.run,
                      hand := s.mod.mem.handNext }
    let c := c.updEn fun e => { e with copyQ := e.copyQ ++ [.coll m], groups := e.groups.set key (m.seq + 1) }
    .ok (c.decideHeads.wg s.slot d.toNat (BitVec.ofNat 64 tid), m) : Except Stop (Core × Coll)) with
  | .error e => s.stop e
  | .ok (c, m) => ((s.setCore s.cur c).handOver { core := s.cur, row := m.row, part := s.partition s.cur, launch := m.run.map (·.launch),
                                                  ranges := some (collRanges i m.block) }).advance 8

/-- CLRED (R375). -/
def execClred (d a : Fld) (s : State) : Out := .next (issueColl s (.clred d a) d a)
/-- CLGAT (R375). -/
def execClgat (d a : Fld) (s : State) : Out := .next (issueColl s (.clgat d a) d a)
/-- CLBAR (R375). -/
def execClbar (d a : Fld) (s : State) : Out := .next (issueColl s (.clbar d a) d a)

/-- CLWAIT: as CEWAIT, but the first return of a MAPSTALE end traps MAPSTALE with the refusal's generation (R376). -/
def execClwait (d a : Fld) (s : State) : Out :=
  let tid := (s.me.rg a.toNat).toNat % 65536
  .next (s.orDeferred (fun k => k.isCopy tid)
    (if s.here.incomplete tid then s.updMe fun x => { x with held := some (.clwait d a), heldOn := none }
     else match s.here.en.remembered.find? fun r => r.tid == tid && r.stale with
       | some r =>
         (s.updHere (·.updEn fun e => { e with remembered := e.remembered.map fun q => if q = r then { q with stale := false } else q }
           )).takeTrap .mapstale (r.gen.setWidth 64)
       | none => recallEnd s d tid))

/-! ### A started collective (R373, R375) -/

/-- A collective of a core's flight by its id. -/
def Core.collOf (c : Core) (tid : Nat) : Option Coll :=
  c.en.flight.findSome? fun
    | .coll m => if m.tid = tid then some m else none
    | .copy _ => none

/-- Replace a collective of a core's queue or flight. -/
def Core.setColl (c : Core) (m : Coll) : Core :=
  let put : List CEntry → List CEntry := fun l => l.map fun x => if x.tid = m.tid then .coll m else x
  c.updEn fun e => { e with flight := put e.flight, copyQ := put e.copyQ }

/-- A collective ends: its record of kind 0x03, its remembered status with a refusal's generation (R127, R236, R376); who observes the
completion acquires the participants' releases (R377). -/
def endColl (s : State) (core : CoreId) (m : Coll) (st bytes : Nat) (gen : BitVec 16) : State :=
  (s.stampWrites core m.tid).updCore core fun c =>
    let c := c.updEn fun e => { e with flight := e.flight.filter fun x => x.tid != m.tid }
    let c := c.updSp (·.complete (.copy core m.tid))
    let obs := (Row.obs c.sp.compl).join (Row.viaAll m.acq)
    let c := c.remember { tid := m.tid, status := BitVec.ofNat 16 st, obs := obs, gen := gen, stale := st == 0x16 }
    c.post { w0 := Core.recWord 3 m.slot m.tid st none, w1 := BitVec.ofNat 64 (if wholeStatus st then bytes else 0), obs := obs }

/-- How a collective accesses memory: through the copy path, in its launch's partition (R375). -/
def collAccess (core : CoreId) (m : Coll) : Access := { core := core, rope := false, l1 := true, part := m.run.elim 0 (·.part) }

/-- The logical map of a cluster under which an item stamped with a generation is resolved: while map g drains, map g for what is stamped g
(R297). -/
def mapOf (c : Cluster) (now g : BitVec 16) : List Nat := if g = now then c.logical else c.before.getD c.logical

/-- The core of this module that an entry of the participant table names, for a collective stamped with a generation: none for another
module's, `some none` for one that the map does not carry (R297, R365, R373). -/
def partCore (s : State) (g : BitVec 16) (e : Nat) : Option (Option CoreId) :=
  if e % 2 ^ 20 ≠ s.mod.addr.toNat then none
  else
    let q := e / 2 ^ 20 % 8 * 64 + e / 2 ^ 23 % 64
    some (((mapOf (s.cluster q) s.mod.gen g)[e / 2 ^ 29]?).map (coreOf q))

/-- Whether entry RANK of a table names the core (R373). -/
def rankNames (s : State) (core : CoreId) (m : Coll) (tb : List Byte) : Bool :=
  partCore s m.gen (field tb (4 * (readColl m.block).rank) 4) == some (some core)

/-- The collective of a core that matches participant `n` of one with GROUP and place `seq` (R373), of those in flight and, where `queued`
holds, of those that have only been issued; by its RANK, or where there is none one whose RANK names another core, a mismatch. -/
def matching (s : State) (core : CoreId) (q : CollBlock) (tb : List Byte) (seq n : Nat) (queued : Bool) : Option Coll :=
  let c := s.core core
  let all := (c.en.flight ++ if queued then c.en.copyQ else []).filterMap fun
    | .coll m => if (m.started || queued) && (readColl m.block).group == q.group && m.seq == seq then some m else none
    | .copy _ => none
  (all.find? fun m => (readColl m.block).rank == n).or (all.find? fun m => !rankNames s core m tb)

/-- What participants must agree on (R373). -/
def agreed (b : CollBlock) : Nat × Nat × Nat × Nat := (b.count, b.fmt, b.op, b.npart)

/-- What the reading of a collective's contributions has come to: the state, the contributions in rank order, the poisoned elements of the
result, the cores with their collectives, the statuses met with a refusal's generation, the first miss, and whether a participant is
still to come. -/
structure Gathered where
  s : State
  xs : List (List Byte) := []
  bad : List Nat := []
  ms : List (CoreId × Coll) := []
  fails : List (Nat × BitVec 16) := []
  miss : Option XReq := none
  wait : Bool := false

/-- A collective as a party that reads and writes memory: what its context had acquired at the issue, and the mark of its id (R125, R298,
R377). -/
def collParty (s : State) (core : CoreId) (m : Coll) : Party :=
  { core := core, row := m.row, no := pendMark m.tid, launch := m.run.map (·.launch), free := s.free }

/-- Read `n` bytes for a collective, element by element where an older value of one may still be read (R298 note 2, R377). -/
def readElems (s : State) (core : CoreId) (m : Coll) (va n w : Nat) : Except AccErr (List Byte × Bool × State) :=
  let a := collAccess core m
  if s.mod.mem.stale.isEmpty ∨ w = 0 then s.readVirt a va n
  else (List.range ((n + w - 1) / w)).foldlM (fun (r : List Byte × Bool × State) e => do
    let (b, bad, t) ← r.2.2.readAs (collParty s core m) a (va + e * w) (Nat.min w (n - e * w))
    .ok (r.1 ++ b, r.2.1 || bad, t)) ([], false, s)

namespace Gathered

/-- A read by a collective, in elements of `w` bytes, as its participant may see them; a page of a peer, and every error but a miss, is FAULT
(R373, R375); a violation locks the domain (R288). -/
def read (g : Gathered) (core : CoreId) (m : Coll) (va n w : Nat) : Option (List Byte × Bool) × Gathered :=
  match readElems g.s core m va n w with
  | .ok (b, bad, t) => (some (b, bad), { g with s := t })
  | .error (.miss r) => (none, { g with miss := g.miss.or (some r) })
  | .error e => (none, { g with s := g.s.refusedRead (collAccess core m) va n e, fails := g.fails ++ [(0x11, 0#16)] })

/-- The poisoned elements of a participant's contribution (R130). -/
def badElems (s : State) (core : CoreId) (m : Coll) (q : CollBlock) : List Nat :=
  (List.range q.count).filter fun e =>
    match s.readVirt (collAccess core m) (q.src + e * fmtSize q.fmt) (fmtSize q.fmt) with
    | .ok (_, bad, _) => bad
    | .error _ => false

/-- The result's elements that participant `n`'s elements `es` go into (R375). -/
def resultElems (i : Instr) (q : CollBlock) (n : Nat) (es : List Nat) : List Nat :=
  match i with
  | .clgat .. => es.map (· + n * q.count)
  | _ => es

/-- Read a local participant's table and contribution, checked against the others (R373). -/
def participant (g : Gathered) (q : CollBlock) (tb : List Byte) (core : CoreId) (m : Coll) (n : Nat) : Gathered :=
  let p := readColl m.block
  match g.read core m p.table (4 * p.npart) 4 with
  | (none, g) => g
  | (some (t, _), g) =>
    if agreed p ≠ agreed q ∨ t ≠ tb ∨ p.rank ≠ n then { g with fails := g.fails ++ [(0x60, 0#16)] }
    else if q.count = 0 then { g with xs := g.xs ++ [[]], ms := g.ms ++ [(core, m)] }
    else match g.read core m p.src p.bytes (fmtSize p.fmt) with
      | (none, g) => g
      | (some (b, bad), g) =>
        let es := if bad then badElems g.s core m p else []
        { g with xs := g.xs ++ [b], ms := g.ms ++ [(core, m)], bad := g.bad ++ resultElems m.instr q n es }

/-- Participant `n`'s contribution: from its memory where it is of this module, else as the event brings it, poison and all; one that no path
leads to is unreachable, one whose core the map no longer carries is refused (R130, R365, R366, R375). -/
def step (m : Coll) (tb : List Byte) (far : List (List Byte × List Nat)) (g : Gathered) (n : Nat) : Gathered :=
  let q := readColl m.block
  let e := field tb (4 * n) 4
  match partCore g.s m.gen e with
  | none =>
    if 768 ≤ e % 2 ^ 20 / 1024 ∨ !g.s.pathUp (e % 2 ^ 20) then { g with fails := g.fails ++ [(0x12, 0#16)] }
    else match far[n]? with
      | some (b, es) => if b.length = q.bytes then { g with xs := g.xs ++ [b], bad := g.bad ++ resultElems m.instr q n (es.filter (· < q.count)) }
          else { g with wait := true }
      | none => if q.count = 0 then { g with xs := g.xs ++ [[]] } else { g with wait := true }
  | some none => { g with fails := g.fails ++ [(0x16, g.s.mod.gen)] }
  | some (some i) => match matching g.s i q tb m.seq n (q.count == 0) with
    | none => { g with wait := true }
    | some x => g.participant q tb i x n

/-- The first status that applies: the least of those met (R375). -/
def worst (g : Gathered) : Option (Nat × BitVec 16) :=
  g.fails.foldl (fun a f => some (a.elim f fun x => if f.1 < x.1 then f else x)) none

end Gathered

/-- The modules of a participant table other than this one (R369). -/
def tablePeers (s : State) (npart : Nat) (tb : List Byte) : List Nat :=
  (((List.range npart).map fun r => field tb (4 * r) 4 % 2 ^ 20).filter (· != s.mod.addr.toNat)).eraseDups

/-- One element of a reduction over participants, in rank order; saturation as it is written to DST (R375). -/
def reduceAll (q : CollBlock) (fmode : Word) (xs : List Nat) : Nat :=
  let rnd := fmodeRnd fmode
  let sat := fmodeSat fmode
  let x0 := xs.headD 0
  match fmtOf (fmtType q.fmt) with
  | some F =>
    let acc := xs.tail.foldl (fun acc x =>
      let a := F.unpack false acc
      let b := F.unpack false x
      if q.op = 1 then (F.pack rnd false false (Val.add rnd a b).1).1 else (F.pack rnd false false (a.maxV b)).1) x0
    if sat then (F.pack rnd true false (F.unpack false acc)).1 else acc
  | none => xs.tail.foldl (fun acc x =>
      let a := (BitVec.ofNat 32 acc).toInt
      let b := (BitVec.ofNat 32 x).toInt
      if q.op = 1 then wrapInt 32 sat (a + b) else wrapInt 32 false (if a < b then b else a)) x0

/-- The bytes that a collective writes at DST (R375). -/
def collResult (i : Instr) (q : CollBlock) (fmode : Word) (xs : List (List Byte)) : List Byte :=
  let w := fmtSize q.fmt
  match i with
  | .clred .. => (List.range q.count).flatMap fun e => leBytes w (reduceAll q fmode (xs.map fun x => field x (e * w) w))
  | .clgat .. => xs.flatten
  | _ => []

/-- Write the elements of a collective's DST that have not landed yet: all of them in one, or the rest in runs of consecutive ones. -/
def writeElems (s : State) (core : CoreId) (m : Coll) (out : List Byte) : Except AccErr (Bool × State) :=
  let q := readColl m.block
  let w := fmtSize q.fmt
  if m.landed.isEmpty then s.writeAs (collParty s core m) (collAccess core m) q.dst out
  else
    let rest := out.zipIdx.filter fun x => !m.landed.contains (x.2 / w)
    (runsOf (rest.map fun x => (q.dst + x.2, x.1, false))).foldlM (fun (r : Bool × State) run => do
      let (stays, t) ← r.2.writeAs (collParty s core m) (collAccess core m) run.1 (run.2.map (·.1))
      .ok (r.1 || stays, t)) (false, s)

/-- Write a collective's DST and end it, with the contributions known; the elements `bad` carry poison (R130, R375). -/
def writeColl (s : State) (core : CoreId) (m : Coll) (xs : List (List Byte)) (bad : List Nat) : State :=
  let q := readColl m.block
  let out := collResult m.instr q m.fmode xs
  if out.isEmpty then endColl s core m 0 0 0#16
  else match writeElems s core m out with
    | .ok (stays, t) =>
      let w := fmtSize q.fmt
      let t := (bad.filter fun e => !m.landed.contains e).foldl (fun t e => poisonVirt t (collAccess core m) (q.dst + e * w) w) t
      endColl t core m (if !bad.isEmpty || stays then 4 else 0) out.length 0#16
    | .error (.miss r) => s.updCore core fun c => c.setColl { m with miss := some r }
    | .error e => endColl (s.refusedWrite (collAccess core m) q.dst out.length e) core m 0x11 0 0#16

/-- The participants of this module that have met in a collective: the release of each speaks of the ranges of all of them, and reaches the
table's peers (R377). -/
def meetHands (s : State) (ms : List (CoreId × Coll)) (peers : List Nat) : State :=
  let rs := ms.flatMap fun p => collRanges p.2.instr p.2.block
  let meet : Tab Handover → CoreId × Coll → Tab Handover := fun t p => match t.get? p.2.hand with
    | some h => t.set p.2.hand { h with ranges := some rs, peers := (h.peers ++ peers).eraseDups }
    | none => t
  s.updMem fun k => { k with hands := ms.foldl meet k.hands }

/-- The numbers of the releases of participants. -/
def handsOf (ms : List (CoreId × Coll)) : List Nat := (ms.map fun p => p.2.hand).eraseDups

/-- Keep the contributions for every participant of this module, each of which ends by its own event, and what their completions acquire
(R377). -/
def shareColl (s : State) (ms : List (CoreId × Coll)) (xs : List (List Byte)) (bad : List Nat) : State :=
  ms.foldl (fun t p => t.updCore p.1 fun c => c.setColl { p.2 with all := some xs, bad := bad, acq := handsOf ms })
    (meetHands s ms (ms.flatMap fun p => p.2.peers))

/-- The cores of this module that a collective's table names, each with its rank. -/
def localParts (s : State) (m : Coll) (tb : List Byte) : List (Nat × CoreId) :=
  (List.range (readColl m.block).npart).filterMap fun n => ((partCore s m.gen (field tb (4 * n) 4)).bind id).map fun i => (n, i)

/-- Whether no context of a core has issued the collective with a GROUP and a place yet. -/
def unissued (c : Core) (group seq : Nat) : Bool := (List.range 12).all fun k => c.en.groups.get (groupKey k group) 0 ≤ seq

/-- The spreading of a status over the participants of a collective: the state, those that have been told, by rank and core, the collectives
among them, the cores whose context has still to issue it, and the collectives whose tables are still to be read. -/
structure Spread where
  s : State
  told : List (Nat × CoreId) := []
  ms : List (CoreId × Coll) := []
  late : List CoreId := []
  next : List (CoreId × Coll) := []

namespace Spread

/-- A participant that a table names is told of a status: it ends by its own event, or once it is issued (R373). -/
def tell (q : CollBlock) (seq st : Nat) (g : BitVec 16) (tb : List Byte) (a : Spread) (p : Nat × CoreId) : Spread :=
  if a.told.contains p then a
  else match matching a.s p.2 q tb seq p.1 true with
    | some x =>
      let y := if x.status.isSome then x else { x with status := some (BitVec.ofNat 16 st), refGen := g, miss := none }
      { a with s := a.s.updCore p.2 fun c => c.setColl y, told := p :: a.told, ms := a.ms ++ [(p.2, y)], next := a.next ++ [(p.2, y)] }
    | none => if unissued (a.s.core p.2) q.group seq then { a with told := p :: a.told, late := a.late ++ [p.2] } else a

/-- The participants that a collective's table names are told. -/
def tellAll (q : CollBlock) (seq st : Nat) (g : BitVec 16) (a : Spread) (m : Coll) (tb : List Byte) : Spread :=
  (localParts a.s m tb).foldl (tell q seq st g tb) a

/-- The tables of those that have been told are read in turn, for tables may differ (R373); one that cannot be read now is read at its own
collective's end. -/
def run (q : CollBlock) (seq st : Nat) (g : BitVec 16) : Nat → Spread → Spread
  | 0, a => a
  | n + 1, a => match a.next with
    | [] => a
    | (i, x) :: rest => match a.s.readVirt (collAccess i x) (readColl x.block).table (4 * (readColl x.block).npart) with
      | .ok (tb, _, t) => run q seq st g n (tellAll q seq st g { a with s := t, next := rest } x tb)
      | .error _ => run q seq st g n
          { a with next := rest, s := a.s.updCore i fun c => c.setColl { x with owes := some a.told } }

end Spread

/-- A status ends a collective at every participant of this module that its table names, or that the table of one of them names, with a
refusal's generation: this one's end comes at once, that of another by its own event, in its context's order; one whose context issues it
later ends so too. `told` have been told before (R369, R373, R376, R378). Each completion acquires the releases of those that have issued
(R377). -/
def failColl (s : State) (core : CoreId) (m : Coll) (tb : List Byte) (st : Nat) (g : BitVec 16) (told : List (Nat × CoreId) := []) : State :=
  let q := readColl m.block
  let fuel := (s.cores.entries.map fun c => (c.2.en.copyQ ++ c.2.en.flight).length).sum
  let a := (Spread.tellAll q m.seq st g { s := s, told := (q.rank, core) :: told, ms := [(core, m)] } m tb).run q m.seq st g fuel
  let acq := handsOf a.ms
  let t := meetHands a.s a.ms (tablePeers s q.npart tb)
  let t := a.ms.foldl (fun t p => t.updCore p.1 fun c => match (c.en.copyQ ++ c.en.flight).findSome? fun
      | .coll x => if x.tid = p.2.tid then some x else none
      | .copy _ => none with
    | some x => c.setColl { x with acq := (x.acq ++ acq).eraseDups }
    | none => c) t
  let t := if a.late.isEmpty then t
    else t.updMod fun k => { k with failedColls := k.failedColls ++
      [⟨q.group, m.seq, m.run.map (·.launch), a.late.eraseDups, st, g, a.told, acq⟩] }
  endColl t core { m with acq := (m.acq ++ acq).eraseDups } st 0 g

/-- The status that a collective of a core has ended with at its other participants before this one issued it (R373). -/
def endedBefore (s : State) (core : CoreId) (m : Coll) : Option FailedColl :=
  s.mod.failedColls.find? fun f => f.group == (readColl m.block).group && f.seq == m.seq && f.cores.contains core

/-- A collective ends with a status that it has been given, once the participants of its own table have been told; where a translation of the
table is missing it waits for it (R293, R373). -/
def spreadEnd (s : State) (core : CoreId) (m : Coll) (st : Nat) (g : BitVec 16) (told : List (Nat × CoreId)) : State :=
  match s.readVirt (collAccess core m) (readColl m.block).table (4 * (readColl m.block).npart) with
  | .ok (tb, _, t) => failColl t core m tb st g told
  | .error (.miss r) => s.updCore core fun c => c.setColl { m with miss := some r, status := some (BitVec.ofNat 16 st), refGen := g, owes := some told }
  | .error _ => endColl s core m st 0 g

/-- A collective that has a status ends with it (R369, R373). -/
def endGiven (s : State) (core : CoreId) (m : Coll) (st : BitVec 16) : State :=
  match m.owes with
  | some told => spreadEnd s core m st.toNat m.refGen told
  | none => endColl s core m st.toNat 0 m.refGen

/-- A participant ends as the others have. -/
def endAsOthers (s : State) (core : CoreId) (m : Coll) (f : FailedColl) : State :=
  spreadEnd (s.updMod fun k => { k with failedColls := k.failedColls.map fun x =>
    if x = f then { x with cores := x.cores.erase core } else x }) core { m with acq := f.acq } f.status f.gen f.told

/-- Whether an earlier collective of the same context and GROUP is incomplete: they complete in issue order (R378 note 3). -/
def earlierPending (c : Core) (m : Coll) : Bool :=
  (c.en.copyQ ++ c.en.flight).any fun
    | .coll x => x.slot == m.slot && x.owner == m.owner && (readColl x.block).group == (readColl m.block).group && x.seq < m.seq
    | .copy _ => false

/-- Whether a collective's table, as far as it can be read, names a peer of a list (R369, R373). -/
def namesAny (s : State) (core : CoreId) (m : Coll) (ps : List Nat) : Bool :=
  let q := readColl m.block
  ps.any m.peers.contains || match s.readVirt (collAccess core m) q.table (4 * q.npart) with
  | .ok (tb, _, _) => (tablePeers s q.npart tb).any ps.contains
  | .error _ => false

/-- A started collective reads what it needs, with what the other modules bring, contributions or a status (R369, R373, R375): it has its
contributions, or an error is what else becomes of it. A status counts only where a participant of another module can have met it. -/
def gatherColl (s : State) (core : CoreId) (m : Coll) (r : CollAnswer) : Except State (State × Coll) :=
  let q := readColl m.block
  let late : List (Nat × BitVec 16) := if genOk s m.gen then [] else [(0x16, s.mod.gen)]
  match ({ s := s, fails := late } : Gathered).read core m q.table (4 * q.npart) 4 with
  | (none, g) => .error (match g.miss, g.worst with
    | some x, _ => g.s.updCore core fun c => c.setColl { m with miss := some x }
    | none, some f => endColl g.s core m f.1 0 f.2
    | none, none => s)
  | (some (tb, _), g) =>
    let m := { m with peers := tablePeers s q.npart tb }
    let far := match r with
      | .contributions b => b
      | .status .. => []
    if !rankNames s core m tb then
      let f := (late.head?).getD (0x60, 0#16)
      .error (failColl g.s core m tb f.1 f.2)
    else
      let g := (List.range q.npart).foldl (Gathered.step m tb far) g
      let g := { g with fails := g.fails ++ (if m.peers.any m.gone.contains then [(0x12, 0#16)] else []) ++ (match r with
        | .status st gen => if st ≠ 0#16 ∧ st ≠ 4#16 ∧ !m.peers.isEmpty then [(st.toNat, gen)] else []
        | .contributions _ => []) }
      match g.miss, g.worst with
      | some x, _ => .error (g.s.updCore core fun c => c.setColl { m with miss := some x })
      | none, some f => .error (failColl g.s core m tb f.1 f.2)
      | none, none =>
        if g.wait then .error (s.updCore core fun c => c.setColl m)
        else .ok (shareColl g.s (g.ms.map fun p => (p.1, { p.2 with peers := m.peers })) g.xs g.bad,
          { m with all := some g.xs, bad := g.bad, acq := handsOf g.ms })

/-- COLLECTIVE_COMPLETE: a started collective of a participant reads what it needs and writes its DST, or ends with a status, in issue
order among those of its context and GROUP (R373, R375, R378). -/
def execCollectiveComplete (core tid : Nat) (r : CollAnswer) (s : State) : Out :=
  .next (match (s.core core).collOf tid with
  | none => s
  | some m =>
    if !m.started || m.miss.isSome || earlierPending (s.core core) m then s
    else match m.status, endedBefore s core m, m.all with
      | some st, _, _ => endGiven s core m st
      | none, some f, _ => endAsOthers s core m f
      | none, none, some xs => if genOk s m.gen then writeColl s core m xs m.bad else endColl s core m 0x16 0 s.mod.gen
      | none, none, none => match gatherColl s core m r with
        | .ok (t, m) => writeColl t core m (m.all.getD []) m.bad
        | .error t => t)

/-- Element `e` of a collective's DST lands before its end, once its contributions are known, with what the other modules bring (R74 note 1, R375,
R380; log 5): not where it meets anything that keeps it from its place. -/
def landColl (s : State) (core tid e : Nat) (r : CollAnswer) : State :=
  match (s.core core).collOf tid with
  | none => s
  | some m =>
    if !m.started || m.miss.isSome || earlierPending (s.core core) m || m.status.isSome || (endedBefore s core m).isSome || !genOk s m.gen then s
    else match if m.all.isSome then .ok (s, m) else gatherColl s core m r with
      | .error _ => s
      | .ok (t, m) =>
        let q := readColl m.block
        let w := fmtSize q.fmt
        let b := ((collResult m.instr q m.fmode (m.all.getD [])).drop (e * w)).take w
        if b.isEmpty || m.landed.contains e then s
        else match t.writeAs (collParty t core m) (collAccess core m) (q.dst + e * w) b with
          | .ok (false, u) =>
            let u := if m.bad.contains e then poisonVirt u (collAccess core m) (q.dst + e * w) w else u
            u.updCore core fun c => c.setColl { m with landed := e :: m.landed }
          | _ => s

/-- COLLECTIVE_TIMEOUT: 2^30 cycles from its start, an incomplete collective ends with TIMEOUT, or with the status that it has met before (R369,
R375). -/
def execCollectiveTimeout (core tid : Nat) (s : State) : Out :=
  .next (match (s.core core).collOf tid with
  | none => s
  | some m =>
    if !m.started || (s.core core).bar.cycle.toNat < m.startAt + 2 ^ 30 || earlierPending (s.core core) m then s
    else match m.status, endedBefore s core m with
      | some st, _ => endGiven s core m st
      | none, some f => endAsOthers s core m f
      | none, none => endColl s core m (if namesAny s core m m.gone then 0x12 else 0x61) 0 0#16)

/-! ### The queues' heads (R121, R122, R128) -/

/-- The collective at the head of a copy queue, by what its guard decided (R122, R375). -/
def startColl (s : State) (core : CoreId) (m : Coll) : State :=
  let c := s.core core
  match m.fate with
  | none => s
  | some false => discardHead s core m.tid m.slot none
  | some true =>
    if 16 ≤ engineLoad s (coreCluster core) then s
    else
      let m := { m with started := true, startAt := c.bar.cycle.toNat }
      s.updCore core fun c => c.updEn fun e => { e with copyQ := e.copyQ.drop 1, flight := e.flight ++ [.coll m] }

/-- The guards of the commands that now stand at the heads of a core's queues are decided (R122). -/
def settleHeads (core : CoreId) (s : State) : State :=
  let d := (s.core core).decideHeads
  if d = s.core core then s else s.setCore core d

/-- The head of a copy queue; none starts while a record of the copy engine waits to enter the event queue (R128). -/
def startHead (s : State) (core : CoreId) : State :=
  let s := settleHeads core s
  let c := s.core core
  if c.holdsRecord .copy then s
  else match c.en.copyQ with
    | [] => s
    | .copy m :: _ => settleHeads core (startCopy s core m)
    | .coll m :: _ => settleHeads core (startColl s core m)

/-- ENGINE_QUEUE_HEAD_START: the command at the head of an engine queue passes its guard, starts or is discarded (R121, R122); an
edit is let in by ROPE_EDIT_START, which does the work of its start (R188). -/
def execEngineQueueHeadStart (core : Nat) (q : EngineQ) (s : State) : Out :=
  match q with
  | .matrix => .next (match matHead (s.core core) with
    | some c => s.setCore core c
    | none => s)
  | .copy => .next (startHead s core)
  | .rope => execRopeEditStart core s

/-- EVENT_RECORD_ENTER: the oldest record kept back enters the event queue (R128). -/
def execEventRecordEnter (core : Nat) (s : State) : Out :=
  .next (s.updCore core fun c => match c.en.evHeld with
    | [] => c
    | r :: rest => if c.en.events.length < 32 then (c.updEn fun e => { e with evHeld := rest }).enterEvent r else c)

end Sys2Proof.Machine
end

