-- ==== Sys2Proof/Machine/Sched.lean ====
section
/-!
DEFINITION. The die's scheduling: portioning (R257), reading descriptors and images (R254, R255, R264), the pass (R262, R263, R69,
R379), NEND and its decrements (R259, R260, R267), the graph instructions (R265 to R270), twins (R227), reports (R261).
-/
namespace Sys2Proof.Machine
open State

/-! ### Reads by the die's own engines (R264, R293) -/

/-- What a read by an engine of the die comes to: it waits for a translation, or a copy status ends it. -/
inductive DieErr where
  | wait (s : State)
  | status (st : Nat) (s : State)

/-- Read bytes for an engine of a die, by its TLB; `core` names the cluster whose service core is asked (R264, R293). A poisoned
byte ends the read with the status poison. -/
def dieRead (s : State) (core : CoreId) (part va n : Nat) (eng : XEngine := .die) : Except DieErr (List Byte × State) :=
  let a : Access := { core := core, rope := false, l1 := false, part := part, dieEng := eng }
  match s.readVirt a va n with
  | .ok (b, bad, t) => if bad then .error (.status 4 t) else .ok (b, t)
  | .error (.miss r) => match s.dieAwait (coreDie core) r with
    | (some st, t) => .error (.status st t)
    | (none, t) => .error (.wait t)
  | .error e => .error (.status e.status (s.refusedRead a va n e))

/-- A dispatch's read of bytes, of which none may be wanted (R264). -/
def dieReadIf (s : State) (core : CoreId) (part va n : Nat) : Except DieErr (List Byte × State) :=
  if n = 0 then .ok ([], s) else dieRead s core part va n .pass

/-! ### Portioning (R257) -/

/-- The live dies of a mask, in increasing order. -/
def liveDies (mask : BitVec 8) : List Nat := (List.range 8).filter fun d => mask.getLsbD d

/-- The die that node i belongs to by its index (R257 line 04). -/
def indexDie (live : List Nat) (blk i : Nat) : Nat := live.getD (i / 2 ^ blk % live.length) 0

/-- The die that a node belongs to (R257). -/
def ownerDie (live : List Nat) (blk i : Nat) (d : Desc) : Nat :=
  if d.pinned then (((List.range 8).map fun j => (d.pin + j) % 8).find? live.contains).getD 0 else indexDie live blk i

/-- The live-die mask that a launch runs under. -/
def launchMask (s : State) (l : Nat) : BitVec 8 := (s.mod.launches.get? l).elim 0#8 (·.liveMask)

/-- A node enters its die with its descriptor: the decrements that came before count against it, and at 0 it is READY (R258). -/
def placeNode (s : State) (d l i : Nat) (b : List Byte) (early : List (Nat × Row)) : State :=
  let x := readDesc b
  let s := s.updNode d l i fun n => { n with desc := some b, st := .waiting, ctr := x.preds, prio := x.prio, early := [] }
  let s := early.foldl (fun t e => t.decrement d l i e.1 e.2) s
  s.readyAll d l [i]

/-- A node that cannot be loaded is FAILED, and its die records why (R258, R261). -/
def failNode (s : State) (d l i : Nat) (f : DieFault) : State :=
  (s.updNode d l i fun n => { n with st := .failed, core := none, twinCore := none }).recordFault d l f

/-- The die whose part of a launch holds a node (R257). -/
def dieOf (s : State) (l i : Nat) : Option Nat := (List.range 8).find? fun d => (s.partOf d l).nodes.has i

/-- A node's own die reads its descriptor and keeps the node (R254, R257). -/
def loadDesc (s : State) (d l i : Nat) : State :=
  let p := s.packet l
  match dieRead s (d * 640) p.part (p.nodes + 128 * i) 128 with
  | .error (.wait t) => t
  | .error (.status st t) => failNode t d l i ⟨3, i, 0x100 + st⟩
  | .ok (b, t) =>
    if descOk b then placeNode t d l i b (t.node d l i).early
    else failNode (t.updNode d l i fun n => { n with desc := some b }) d l i ⟨4, i, 0⟩

/-- A node of a launch that no die owns yet, as no die has read its PIN fields (R257). -/
def unplacedOf (s : State) (l i : Nat) : Option Unplaced := (s.mod.launches.get? l).bind fun x => x.unplaced.get? i

/-- Change what stands of a launch's nodes that no die owns yet. -/
def updUnplaced (s : State) (l : Nat) (f : Tab Unplaced → Tab Unplaced) : State :=
  s.updMod fun m => match m.launches.get? l with
    | some x => { m with launches := m.launches.set l { x with unplaced := f x.unplaced } }
    | none => m

/-- The dies wait for a node's descriptor no more, and keep no status declared for it. -/
def dropDescReads (s : State) (part va : Nat) : State :=
  let mine : XReq → Bool := fun r => r.eng == .die && r.part == part && va ≤ r.va && r.va < va + 128 && !r.write
  { s with dies := s.dies.mapVals fun _ x => x.dropReads mine }

/-- A node stands on a die, with the decrements that came before; a status that its service core has declared for the descriptor ends it. -/
def settleNode (s : State) (d l i : Nat) (u : Unplaced) : State :=
  let p := s.packet l
  let s := updUnplaced (dropDescReads s p.part (p.nodes + 128 * i)) l fun t => t.erase i
  let s := s.updNode d l i fun n => { n with early := u.early }
  match u.errs.find? fun e => e.1 == d with
  | some e => failNode s d l i ⟨3, i, 0x100 + e.2⟩
  | none => loadDesc s d l i

/-- A die reads the byte that holds a node's PIN fields, unless it has met a status there: it stands at its place in the descriptor, whose
other bytes only the node's own die reads (R254, R257). -/
def peekDie (l i : Nat) (r : State × Option (List Byte)) (d : Nat) : State × Option (List Byte) :=
  let p := r.1.packet l
  if r.2.isSome || ((unplacedOf r.1 l i).getD {}).errs.any (·.1 == d) then r
  else match dieRead r.1 (d * 640) p.part (p.nodes + 128 * i + 38) 1 with
    | .ok (b, t) => (t, some (List.replicate 38 0#8 ++ b))
    | .error (.wait t) => (t, none)
    | .error (.status st t) => (updUnplaced t l fun x => x.set i { x.get i {} with errs := (x.get i {}).errs ++ [(d, st)] }, none)

/-- Find the die that an unplaced node belongs to (R257): every live die applies the rule, and reads the PIN fields by its own TLB; the node
belongs to none until one of them has them, and then to its owner alone. DESIGN CHOICE: where every live die ends with a status, no die
can tell the owner, and the node is FAILED on its index's die with that die's status (log 75). -/
def seekOwner (s : State) (l i : Nat) : State :=
  match unplacedOf s l i with
  | none => s
  | some _ =>
    let live := liveDies (launchMask s l)
    let blk := (s.packet l).blk
    let (t, b) := live.foldl (peekDie l i) (s, none)
    let u := (unplacedOf t l i).getD {}
    match b with
    | some b => settleNode t (ownerDie live blk i (readDesc b)) l i u
    | none => if live.all fun d => u.errs.any (·.1 == d) then settleNode t (indexDie live blk i) l i u else t

/-- The descriptors that have not been read yet are tried again: those of unplaced nodes, and those of a die's own. -/
def retryDescs (s : State) (d : Nat) : State :=
  let s := s.mod.launches.entries.foldl (fun t e => e.2.unplaced.keys.foldl (fun u i => seekOwner u e.1 i) t) s
  (s.die d).parts.entries.foldl (fun t p => (p.2.nodes.entries.filter fun n => n.2.desc.isNone && n.2.st == .waiting).foldl
    (fun u n => loadDesc u d p.1 n.1) t) s

/-- The launches that are RUNNING. -/
def runningLaunches (s : State) : List Nat := (s.mod.launches.entries.filter fun e => e.2.st == .running).map (·.1)

/-- Whether launches may be handed out: no map change is pending or draining, the module is in RUN, and no aperture write waits
(R342, R297, R346, R364). -/
def handoutOpen (s : State) : Bool :=
  !s.mod.map.pending && s.mod.map.draining.isNone && s.mod.power == .run && s.mod.phase == .ready && s.mod.aperIn.isEmpty

/-- A packet stamped by the SCC with the generation and the live mask (R253). -/
def stampPacket (b : List Byte) (gen : BitVec 16) (live : BitVec 8) : List Byte :=
  b.take 32 ++ leBytes 2 gen.toNat ++ leBytes 1 live.toNat ++ b.drop 35

/-- Whether an earlier LAUNCH, of any function, stands taken and undecided (R342). -/
def earlierLaunch (s : State) (order : Nat) : Bool :=
  s.mod.chans.entries.any fun e => e.2.taken.any fun m => m.ty == 1 && m.order < order

/-- LAUNCH_HANDOUT: the first QUEUED launch is stamped and handed to every portioning unit, at most 4 at once (R257, R342); a
cluster's press is cleared where the partition differs from its last launch's (R237). -/
def execLaunchHandout (s : State) : Out :=
  .next (match s.mod.launches.entries.find? fun e => e.2.st == .queued with
  | none => s
  | some (l, x) =>
    if !handoutOpen s ∨ 4 ≤ (runningLaunches s).length ∨ earlierLaunch s l then s
    else
      let gen := s.mod.gen
      let live := s.mod.live
      let nodes := (readPacket x.packet).nnode
      let x := { x with st := .running, handed := s.mod.clock, gen := gen, liveMask := live, packet := stampPacket x.packet gen live,
                        unplaced := (List.range nodes).foldl (fun t i => t.set i {}) {} }
      let s := s.updMod fun m => { m with launches := m.launches.set l x }
      let part := (s.packet l).part
      let s := { s with clusters := (List.range 512).foldl (fun t q =>
        let c := t.get q {}
        if c.sramPart = some part then t
        else t.set q { c with sramPart := some part, sram := if c.sramPart.isSome then [] else c.sram }) s.clusters }
      (List.range nodes).foldl (fun t i => seekOwner t l i)
        ((liveDies live).foldl (fun t d => t.updPart d l fun _ => {}) s))

/-! ### Cores for nodes (R262) -/

/-- Whether a core's engines are at rest, and no instruction of a killed helper stands (R104, R267). -/
def quiet (c : Core) : Bool :=
  c.en.matQ.isEmpty && c.en.seq.isNone && c.en.copyQ.isEmpty && c.en.flight.isEmpty && c.en.ropeQ.isEmpty && c.en.editRun.isNone
  && (c.en.press.entries.all fun p => p.2.result.isSome) && !c.bar.ctxs.keys.any (12 ≤ ·)

/-- Whether a dispatch has chosen a core whose images are still being read (R262, R264). -/
def claimed (s : State) (c : CoreId) : Bool := (s.die (coreDie c)).claims.any fun k => k.2.1 == c || k.2.2 == some c

/-- Whether a core is idle: it runs no node and none is on its way to it, its engines rest, it is not scanned and not quarantined (R262, R307,
R309). -/
def idle (s : State) (c : CoreId) : Bool :=
  (s.core c).run.isNone && !claimed s c && quiet (s.core c) && !(s.die (coreDie c)).scans.has (c % 640) && !(s.scoreOf c).quar

/-- The logical cores of a cluster with a role, in order of number (R209). -/
def roleCores (s : State) (q role : Nat) : List CoreId :=
  (List.range (s.cluster q).logical.length).filterMap fun j =>
    if role ≠ 0 ∧ (s.roleEntry q j).toNat / 2 ^ 30 = role then s.logicalCore q j else none

/-- The idle logical cores of a die with a role, by cluster and then by number, outside some clusters (R262). -/
def idleCores (s : State) (d role : Nat) (but : Nat → Bool) : List CoreId :=
  ((List.range 64).map (· + d * 64)).flatMap fun q => if but q then [] else (roleCores s q role).filter (idle s)

/-- Whether two clusters of a die are mesh neighbours: cluster number 8 × row + column (R68, R227). -/
def meshNear (a b : Nat) : Bool :=
  let r : Nat → Int := fun q => (q % 64 / 8 : Nat)
  let c : Nat → Int := fun q => (q % 8 : Nat)
  a / 64 == b / 64 && Int.natAbs (r a - r b) + Int.natAbs (c a - c b) == 1

/-- The core, and for a TWIN its second core, that an entry of the pass would be dispatched to (R262, R227, R302, R303). -/
def choose (s : State) (d : Nat) (e : PassE) : Option (CoreId × Option CoreId) :=
  let n := s.node d e.launch e.node
  let t := ((s.partOf d e.launch).tastes.get? e.node).getD {}
  let one : (Nat → Bool) → Option (CoreId × Option CoreId) := fun but =>
    ((idleCores s d n.d.role but).head?).map fun c => (c, none)
  match e.kind with
  | .taste => one fun q => q == coreCluster t.core1
  | .third => one fun q => q == coreCluster t.core1 || q == coreCluster t.core2
  | .original =>
    match n.saved with
    | some v => one fun q => q != coreCluster v.core
    | none =>
      if n.d.flag 1 then
        let cs := idleCores s d n.d.role fun _ => false
        cs.findSome? fun a => (cs.find? fun b => coreCluster a != coreCluster b && !meshNear (coreCluster a) (coreCluster b)).map
          fun b => (a, some b)
      else one fun _ => false

/-- The first entry of a level that can be dispatched, with its cores. -/
def firstIn (s : State) (d prio : Nat) : Option (PassE × CoreId × Option CoreId) :=
  ((s.die d).levels.get prio []).findSome? fun e => (choose s d e).map fun c => (e, c.1, c.2)

/-- What the pass dispatches next: the levels from 7 down to 0, each from its head (R262). -/
def passNext (s : State) (d : Nat) : Option (PassE × CoreId × Option CoreId) := [7, 6, 5, 4, 3, 2, 1, 0].findSome? (firstIn s d)

/-! ### Loading a node (R255, R264) -/

/-- What the die has read for a dispatch. -/
structure Image where
  code : List Byte
  data : List Byte
  hnds : List Byte
  succ : List Nat
  tiles : List (Nat × Nat × Bool)

/-- Read a node's images and lists (R264). -/
def readImage (s : State) (core : CoreId) (part : Nat) (d : Desc) : Except DieErr (Image × List Byte × State) := do
  let (code, s) ← dieReadIf s core part d.code d.clen
  let (data, s) ← dieReadIf s core part d.data d.dlen
  let (hnds, s) ← dieReadIf s core part d.hnds (8 * d.nhnd)
  let (succ, s) ← dieReadIf s core part d.succ (4 * d.nsucc)
  let (tiles, s) ← dieReadIf s core part d.tiles (32 * d.ntile)
  .ok ({ code := code, data := data, hnds := hnds, succ := (List.range d.nsucc).map fun j => field succ (4 * j) 4,
         tiles := (List.range d.ntile).map fun j => (field tiles (32 * j) 8, field tiles (32 * j + 8) 4, field tiles (32 * j + 12) 1 == 1) },
       tiles, s)

/-- Whether a handle declaration keeps the limits of R255. -/
def hndOk (w : Nat) : Bool :=
  let base := w % 2 ^ 20
  let size := 8 * (w / 2 ^ 33 % 2 ^ 13 + 1)
  w < 2 ^ 56 && w / 2 ^ 20 % 2 ^ 13 == 0 && base % 8 == 0 && base + (w / 2 ^ 46 % 64 + 1) * size ≤ spadSize

/-- The handles of declarations (R169, R255). -/
def hndsOf (b : List Byte) : Tab Handle :=
  (List.range (b.length / 8)).foldl (fun t j =>
    let w := field b (8 * j) 8
    t.set (w / 2 ^ 52 % 16) { base := w % 2 ^ 20, size := 8 * (w / 2 ^ 33 % 2 ^ 13 + 1), n := w / 2 ^ 46 % 64 + 1 }) {}

/-- Whether the entries of a tile list keep the limits of R255. -/
def tilesOk (b : List Byte) : Bool :=
  (List.range (b.length / 32)).all fun j =>
    field b (32 * j + 8) 4 != 0 && field b (32 * j + 12) 1 < 2 && field b (32 * j) 8 < 2 ^ 56
    && zeroBytes b (32 * j + 13) (32 * j + 32)

/-- The fault of a node whose lists are malformed: DESC, or a successor that is no static node (R255, R264). -/
def imageFault (m : Image) (tb : List Byte) (nnode i : Nat) : Option DieFault :=
  if !((List.range (m.hnds.length / 8)).all fun j => hndOk (field m.hnds (8 * j) 8)) || !tilesOk tb then some ⟨4, i, 0⟩
  else if m.succ.any fun y => nnode ≤ y then some ⟨3, i, 0x300⟩
  else none

/-- The control context at a dispatch (R66, R264). -/
def controlStart (d : Desc) (live : Bool) : Ctx :=
  { live := live, g := (Tab.set {} 1 (BitVec.ofNat 64 d.arg)).set 30 (BitVec.ofNat 64 d.sp), winV := true, winSize := 3#2 }

/-- A core's links at a dispatch: inputs emptied, words in flight to it discarded, 8 credits, the seal ended, and the items of a run as twins
counted from 0 (R210, R227, R313). -/
def linksStart (l : Links) : Links :=
  { l with inq := {}, wire := {}, fed := {}, credit := (Tab.set {} 0 8).set 1 8, creditBack := {}, dry := {}, dryTold := {},
           twinOut := [], twinNext := 0, isSealed := false, killed := false }

/-- A core at the dispatch of a run (R66, R109, R264); the race-check state is cleared, and the control context acquires the releases that made
the node READY (R124, R271). The core goes on counting its completions. The instruction cache takes every block of the code image here and evicts a block
only in a turn of the outside (R85; log 71). -/
def coreStart (c : Core) (d : Desc) (m : Image) (r : Run) (live : Bool) (rel : Row) : Core :=
  let code := m.code
  { run := some r, wired := r.wire, code := Mem.writeBytes [] 0 code, codeLen := code.length,
    bar := { ctxs := Tab.set {} 0 (controlStart d live), wdlim := c.bar.wdlim, cycle := c.bar.cycle, last := c.bar.last,
             amtab := BitVec.ofNat 64 d.amtab },
    sp := { mem := Mem.writeBytes [] 0 m.data, handles := hndsOf m.hnds, tagBase := d.tagbase,
            tagSets := if d.tagsets = 7 then 0 else 2 ^ d.tagsets, ropesFlag := d.flag 2, compl := c.sp.compl, seen := Tab.set {} 0 rel },
    en := { tidNext := c.en.tidNext, ticketNext := c.en.ticketNext, ropeTlb := c.en.ropeTlb, ropeEpoch := c.en.ropeEpoch },
    li := linksStart c.li }

/-- What a resumption finds of a handle: its race-check state cleared (R379); of other cores' copies its releases tell what they told. -/
def resumeHandle (h : Handle) (from_ : CoreId) : Handle := { h with slots := h.slots.mapVals fun _ q => { q with rel := q.rel.export from_ } }

/-- A core at the resumption of a pre-empted node (R379): scratchpad outside the footprint takes free values; race-check state is cleared,
in what a slot, fork, record or remembered status hands over as well, but what the node had acquired of copies into memory, the left core's
among them, it keeps (R298); poison in what is restored stays; a band table on its way has
come. DESIGN CHOICE: the context goes on counting its collectives by GROUP (R373; log 72); a press request that is complete and that no
PRGET has retired is dropped with its result, of which R379 and R237 to R239 say nothing (log 72). -/
def coreResume (c : Core) (d : Desc) (v : Saved) (m : Core) (r : Run) (free : Nat) : Core :=
  let inFoot : Nat → Bool := fun a => d.footBase ≤ a && a < d.footBase + d.footLen
  { run := some r, wired := r.wire, code := m.code, codeLen := m.codeLen,
    bar := { ctxs := Tab.set {} 0 { v.ctx with wdcnt := 0#64 }, forks := v.bar.forks.map fun f => { f with rel := f.rel.export v.core },
             jcnt := v.bar.jcnt, jrel := v.bar.jrel.mapVals fun _ r => r.export v.core,
             wdlim := c.bar.wdlim, cycle := c.bar.cycle, last := c.bar.last, amtab := v.bar.amtab },
    un := { vfile := v.vregs, accs := v.un.accs, mcfg := v.un.mcfg, bandVer := v.un.bandVer, poisonA := v.un.poisonA,
            bands := v.un.bandNext.entries.foldl (fun t e => e.2.getLast?.elim t fun l => t.set e.1 l.bands) v.un.bands,
            poisonV := v.un.poisonV.filter fun e => e / 32 < 48 },
    sp := { mem := (List.range spadSize).foldl (fun t a =>
              t.write a (if inFoot a then v.sp.mem.read a else Config.freeByte free a)) [],
            poison := v.sp.poison.filter fun w => inFoot (8 * w),
            handles := v.sp.handles.mapVals (fun _ h => resumeHandle h v.core),
            guards := v.sp.guards.mapVals (fun _ g => { g with rel := g.rel.export v.core }), tags := v.sp.tags,
            compl := c.sp.compl, seen := Tab.set {} 0 ((v.sp.seenRow 0).export v.core),
            tagAge := v.sp.tagAge, tagBase := v.sp.tagBase, tagSets := v.sp.tagSets, ropesFlag := v.sp.ropesFlag },
    en := { tidNext := c.en.tidNext, ticketNext := c.en.ticketNext, ropeTlb := c.en.ropeTlb, ropeEpoch := c.en.ropeEpoch,
            events := v.en.events.map (fun r => { r with obs := r.obs.export v.core }),
            evHeld := v.en.evHeld.map (fun r => { r with obs := r.obs.export v.core }),
            remembered := v.en.remembered.map (fun r => { r with obs := r.obs.export v.core }), defers := v.en.defers,
            groups := v.en.groups,
            mcredit := v.en.mcredit, schemas := v.en.schemas, matcher := v.en.matcher,
            shadow := v.en.shadow.filterVals fun k _ => k < 16 },
    li := linksStart c.li }

/-! ### Tasting at a dispatch (R299, R300) -/

/-- Whether a node is chosen and eligible for tasting (R299). -/
def tasted (s : State) (l i : Nat) (d : Desc) : Bool :=
  let p := s.packet l
  tasteHash p.seed i < p.rate && !d.flag 0 && !d.flag 1 && !d.flag 3

/-- The room that a node's taste needs in the taste area (R300). -/
def tasteRoom (tiles : List (Nat × Nat × Bool)) : Nat := (tiles.map fun t => if t.2.2 then 2 * t.2.1 else t.2.1).sum

/-- The taste area of a die (R300). -/
def tasteArea : Nat := 4000000000

/-- Begin a node's taste: room for its tiles and scratch copies, or a dropped taste; a restart keeps what stands (R300, R323). -/
def beginTaste (s : State) (d l i : Nat) (core : CoreId) (tiles : List (Nat × Nat × Bool)) : Bool × State :=
  match (s.partOf d l).tastes.get? i with
  | some t =>
    let u := (t.roots.filter (· != 0)).foldl (fun v r => v.sendRef r false (s.packet l).part d) s
    (true, u.updPart d l fun p => { p with tastes := p.tastes.set i { t with core1 := core, roots := [] } })
  | none =>
    let room := tasteRoom tiles
    if (s.die d).tasteUsed + room ≤ tasteArea then
      let u := s.updDie d fun x => { x with tasteUsed := x.tasteUsed + room }
      (true, u.updPart d l fun p => { p with tastes := p.tastes.set i { core1 := core, room := room } })
    else (false, s.updPart d l fun p => { p with word := { p.word with drop := satInc p.word.drop } })

/-! ### Dispatch (R264) -/

/-- The run record of a dispatch: the core's role-table entry is in force (R209). -/
def runOf (s : State) (l i : Nat) (kind : RunKind) (core : CoreId) (isTasted twin : Bool) : Run :=
  { launch := l, node := i, kind := kind, wire := ((s.logicalNo core).elim 0#32 fun j => s.roleEntry (coreCluster core) j),
    part := (s.packet l).part, gen := (s.mod.launches.get? l).elim 0#16 (·.gen), tasted := isTasted, twin := twin }

/-- Put a run on a core. -/
def putRun (s : State) (d l i : Nat) (kind : RunKind) (core : CoreId) (m : Image) (isTasted twin : Bool) : State :=
  let x := (s.node d l i).d
  let r := runOf s l i kind core isTasted twin
  -- the control context of a tasted node starts once its inputs are retained
  let held := kind == .original && isTasted && (((s.partOf d l).tastes.get? i).any fun t => t.phase == .retain)
  s.updCore core fun c => coreStart c x m r (!held) (s.node d l i).rel

/-- A pre-empted node resumes; free-slot units on their way to it go to its new core (R221, R379). -/
def resumeRun (s : State) (d l i : Nat) (core : CoreId) (m : Image) (v : Saved) : State :=
  let x := (s.node d l i).d
  let r := runOf s l i .original core ((s.partOf d l).tastes.has i) false
  let img := coreStart {} x m r true {}
  let s := s.updCore core fun c => coreResume c x v img r s.free
  { s with free := s.free + 1,
           cores := s.cores.mapVals fun _ c => c.updSp fun sp => { sp with handles := sp.handles.mapVals fun _ h =>
             { h with slots := h.slots.mapVals fun _ q =>
               { q with mcast := q.mcast.map fun b => if b.1 = v.core then (core, b.2) else b } } } }

/-- The pass dispatches an entry to its cores (R258, R262): it leaves its level, and its node is RUNNING. -/
def leavePass (s : State) (d : Nat) (e : PassE) (core : CoreId) (second : Option CoreId) : State :=
  let s := s.leaveLevels d e
  match e.kind with
  | .original =>
    let stage := (runOf s e.launch e.node .original core false false).wire.toNat / 2 ^ 22 % 256
    s.updNode d e.launch e.node fun n =>
      { n with st := .running, core := some core, twinCore := second, home := coreCluster core, stage := stage }
  | _ => s

/-- Start the run of a dispatched entry on its cores, with what was read for it. -/
def startRun (s : State) (d : Nat) (e : PassE) (core : CoreId) (second : Option CoreId) (m : Image) : State :=
  let l := e.launch
  let i := e.node
  let n := s.node d l i
  match e.kind with
  | .original =>
    let s := s.updNode d l i fun n => { n with saved := none, succs := m.succ, tiles := m.tiles }
    match n.saved with
    | some v => resumeRun s d l i core m v
    | none =>
      let t := if tasted s l i n.d then beginTaste s d l i core m.tiles else (false, s)
      let s := putRun t.2 d l i .original core m t.1 second.isSome
      match second with
      | some b => putRun s d l i .original b m false true
      | none => s
  | k =>
    let t := ((s.partOf d l).tastes.get? i).getD {}
    let t := { t with phase := if k == .taste then .run2 else .run3, core2 := if k == .taste then core else t.core2,
                      core3 := if k == .taste then t.core3 else core, taken := 0 }
    let s := s.updPart d l fun p => { p with tastes := p.tastes.set i t }
    putRun s d l i k core m false false

/-- A dispatch whose images or lists cannot be loaded: the node is FAILED, a taste run's taste dropped (R264, R301). -/
def failDispatch (s : State) (d : Nat) (e : PassE) (f : DieFault) : State :=
  match e.kind with
  | .original => (failNode s d e.launch e.node f).releaseTaste d e.launch e.node
  | _ => s.dropTaste d e.launch e.node

/-- Whether the images and lists of a dispatched entry still wait for a translation, or how its load goes on (R264, R293). -/
def loadRun (s : State) (d : Nat) (k : PassE × CoreId × Option CoreId) : Bool × State :=
  let (e, core, second) := k
  let gone : State → State := fun t => t.updDie d fun x => { x with claims := x.claims.erase k }
  match readImage s core (s.packet e.launch).part (s.node d e.launch e.node).d with
  | .error (.wait t) => (true, t)
  | .error (.status st t) => (false, failDispatch (gone t) d e ⟨3, e.node, 0x100 + st⟩)
  | .ok (m, tb, t) => (false, match imageFault m tb (s.packet e.launch).nnode e.node with
    | some f => failDispatch (gone t) d e f
    | none => startRun (gone t) d e core second m)

/-- Dispatch an entry of the pass to its cores (R264): they are its own while the die reads its images. -/
def dispatch (s : State) (d : Nat) (e : PassE) (core : CoreId) (second : Option CoreId) : State :=
  let k := (e, core, second)
  (loadRun ((leavePass s d e core second).updDie d fun x => { x with claims := x.claims ++ [k] }) d k).2

/-- The dispatched entries whose images have been read meanwhile start their runs (R264). -/
def settleClaims (s : State) (d : Nat) : State := (s.die d).claims.foldl (fun t k => (loadRun t d k).2) s

/-- Whether a taste run or third run has no cluster left to run on, its role's cores having changed since it was placed (R302, R303). -/
def strandedRun (s : State) (d : Nat) (e : PassE) : Bool :=
  let role := (s.node d e.launch e.node).d.role
  let t := ((s.partOf d e.launch).tastes.get? e.node).getD {}
  match e.kind with
  | .original => false
  | .taste => !s.roleElsewhere d role [coreCluster t.core1]
  | .third => !s.roleElsewhere d role [coreCluster t.core1, coreCluster t.core2]

/-- A stranded taste run's taste is dropped; a stranded third run ends it as no majority over two cores (R302, R303). -/
def dropStranded (s : State) (d : Nat) (e : PassE) : State :=
  let s := s.leaveLevels d e
  if e.kind == .third then s.noThird d e.launch e.node (((s.partOf d e.launch).tastes.get? e.node).getD {}) else s.dropTaste d e.launch e.node

/-- PASS_DISPATCH (R262, R264): what has been dispatched and read starts; then at most one entry of the levels is dispatched. -/
def execPassDispatch (die : Nat) (s : State) : Out :=
  let s := settleClaims s die
  .next (match ((s.die die).levels.get 0 []).find? (strandedRun s die) with
  | some e => dropStranded s die e
  | none => match passNext s die with
    | none => s
    | some (e, c, b) => dispatch s die e c b)

/-- Read input tiles for the taste area, in order (R300). -/
def retainTiles (s : State) (core : CoreId) (part : Nat) : List (Nat × Nat × Bool) → Except DieErr (List (Nat × List Byte) × State)
  | [] => .ok ([], s)
  | t :: rest =>
    if t.2.2 then retainTiles s core part rest
    else do
      let (b, s) ← dieRead s core part t.1 t.2.1 .taste
      let (xs, s) ← retainTiles s core part rest
      .ok ((t.1, b) :: xs, s)

/-- TASTE_RETAIN: the inputs of a tasted node stand in the taste area, and its control context starts; a fault of the copy drops
the taste (R300, R323). -/
def execTasteRetain (core : Nat) (s : State) : Out :=
  let d := coreDie core
  let start : State → Bool → State := fun t keep => t.updCore core fun c =>
    { c.updCtx 0 (fun x => { x with live := true }) with run := c.run.map fun r => { r with tasted := keep } }
  .next (match (s.core core).run with
  | none => s
  | some r => match (s.partOf d r.launch).tastes.get? r.node with
    | none => s
    | some t =>
      if r.kind ≠ .original ∨ t.phase ≠ .retain then s
      else match retainTiles s core r.part (s.node d r.launch r.node).tiles with
        | .error (.wait u) => u
        | .error (.status _ u) => start (u.dropTaste d r.launch r.node) false
        | .ok (xs, u) => start (u.updPart d r.launch fun p =>
            { p with tastes := p.tastes.set r.node { t with phase := .original, tiles := xs } }) true)

/-! ### YIELD and pre-emption (R69, R101, R263, R379) -/

/-- Whether a strictly higher level's first READY node has a role and finds no idle core (R263). -/
def wanted (s : State) (d role prio : Nat) : Bool :=
  ([1, 2, 3, 4, 5, 6, 7].filter (prio < ·)).any fun p =>
    match ((s.die d).levels.get p []).find? fun e => e.kind == .original && (s.node d e.launch e.node).saved.isNone with
    | some e => (s.node d e.launch e.node).d.role == role && (choose s d e).isNone
    | none => false

/-- The pass pre-empts the node of the core whose turn it is (R69, R379). -/
def preempt (s : State) (r : Run) : State :=
  let d := coreDie s.cur
  let c := s.here
  let v : Saved := { core := s.cur, ctx := { s.me with pc := s.me.pc + 8#64, wait := none, held := none },
                     vregs := c.un.vfile.filterVals fun k _ => k < 48, bar := c.bar, un := c.un, sp := c.sp, en := c.en }
  let s := s.updNode d r.launch r.node fun n => { n with st := .preempted, core := none, saved := some v }
  let s := s.clearRun s.cur
  s.enterLevel d (s.node d r.launch r.node).prio ⟨r.launch, r.node, .original⟩ true

/-- Whether a YIELD meets the conditions of R69 and R263. The node of a taste run has ENDED, so it is no running node (R258). DESIGN CHOICE:
a twin is not pre-empted, R379 having one core's state to save and not two (log 34). -/
def yields (s : State) (r : Run) : Bool :=
  let n := s.node (coreDie s.cur) r.launch r.node
  s.slot == 0 && s.here.helperMask == 0 && quiet s.here && r.kind == .original && !r.twin
  && wanted s (coreDie s.cur) n.d.role n.prio

/-- YIELD (R101). -/
def execYield (s : State) : Out :=
  let t := s.updMe fun x => { x with wdcnt := 0#64 }
  .next (match s.here.run with
  | some r => if yields s r then preempt t r else t.advance 8
  | none => t.advance 8)

/-! ### Digests (R301) -/

/-- Multiplication in GF(2^128) in the bit order of GHASH, bit 127 of a block's value its first bit (R301). -/
def ghash (x y : Nat) : Nat :=
  ((List.range 128).foldl (fun (r : Nat × Nat) i =>
    let z := if x / 2 ^ (127 - i) % 2 = 1 then r.1 ^^^ r.2 else r.1
    let v := if r.2 % 2 = 1 then r.2 / 2 ^^^ (0xE1 * 2 ^ 120) else r.2 / 2
    (z, v)) (0, y)).1

/-- A 16-byte block's value, first byte highest. -/
def blockValue (b : List Byte) : Nat := ((List.range 16).map fun j => (b.getD j 0#8).toNat * 256 ^ (15 - j)).sum

/-- The 16-byte blocks of a tile. -/
def blocksOf (b : List Byte) : List Nat := (List.range ((b.length + 15) / 16)).map fun j => blockValue (b.drop (16 * j))

/-- The output digest of R301 over the output tiles' bytes. -/
def digestOf (seed lid : Nat) (tiles : List (List Byte)) : Nat :=
  let m : BitVec 64 → Nat := fun x => (mix x).toNat
  let k := m (BitVec.ofNat 64 seed ^^^ 0x5EED#64) * 2 ^ 64 + m (BitVec.ofNat 64 seed ^^^ BitVec.ofNat 64 lid)
  let y := (tiles.flatMap blocksOf).foldl (fun y x => ghash (y ^^^ x) k) 0
  ghash (y ^^^ ((tiles.map List.length).sum * 2 ^ 64 + tiles.length)) k

/-- Read a node's output tiles in memory, in order. -/
def readOutputs (s : State) (core : CoreId) (part : Nat) : List (Nat × Nat × Bool) → Except DieErr (List (List Byte) × State)
  | [] => .ok ([], s)
  | t :: rest =>
    if !t.2.2 then readOutputs s core part rest
    else do
      let (b, s) ← dieRead s core part t.1 t.2.1 .taste
      let (xs, s) ← readOutputs s core part rest
      .ok (b :: xs, s)

/-- A taste run's scratch copies of the output tiles (R302). -/
def scratchOutputs (scratch : Tab Byte) (tiles : List (Nat × Nat × Bool)) : List (List Byte) :=
  (tiles.filter fun x => x.2.2).map fun x => (List.range x.2.1).map fun j => scratch.get (x.1 + j) 0#8

/-! ### NEND (R259, R260, R267) -/

/-- The first queued guarded command whose slot is UNSET, the matrix queue before the copy queue (R122). -/
def unsetGuard (c : Core) : Option Nat :=
  let unset : Nat → Bool := fun g => (c.guard g).val.isNone
  (c.en.matQ.findSome? fun q => (tileOf q.instr).bind fun t =>
    if t.e.ge == 1#1 && unset t.e.gsl.toNat then some t.e.gsl.toNat else none).or
  (c.en.copyQ.findSome? fun
    | .copy m => let p := readPlan m.sh; if p.ge && unset p.gsl then some p.gsl else none
    | .coll m => let q := readColl m.block; if q.ge && unset q.gsl then some q.gsl else none)

/-- Lines 01 to 04 of R267: the node stops issuing, its deque and unstarted commands go; the context is held until line 09. -/
def beginEnd (s : State) : State :=
  let s := s.dropHandler s.cur
  let s := s.updHere fun c =>
    { c with ending := true, bar := { c.bar with ctxs := c.bar.ctxs.set 11 {}, forks := [] },
             en := { c.en with matQ := [], copyQ := [], ropeQ := [] } }
  s.updMe fun x => { x with held := some .nend, heldOn := none, wait := none }

/-- The handed-out members of a node that it has not posted become available again (R281). -/
def returnMembers (s : State) (d l i : Nat) : State :=
  s.updDie d fun x => { x with sets := x.sets.mapVals fun _ k =>
    { k with handed := k.handed.filterVals fun m h => !(h == (l, i)) || k.posted.contains m } }

/-- What the end of a node releases: all that its control context has acquired, and every copy that its core has completed (R271). -/
def endRow (c : Core) (core : CoreId) : Row := Row.export ((c.sp.seenRow 0).set 12 c.sp.compl) core

/-- Line 08 of R267: each successor's counter on this die falls, in list order; another die's is sent an arrival; a node that no die owns yet
keeps the decrement (R257 to R260). -/
def release (s : State) (d l i : Nat) (rel : Row) : State :=
  let gen := (s.mod.launches.get? l).elim 0#16 (·.gen)
  let ys := (s.node d l i).succs
  let t := ys.foldl (fun t y => match dieOf s l y with
    | none => if (unplacedOf s l y).isNone then t
      else updUnplaced t l fun x => x.set y { x.get y {} with early := (x.get y {}).early ++ [(i, rel)] }
    | some e => if e = d then t.decrement d l y i rel
      else t.updPart e l fun p => { p with arrivals := p.arrivals ++ [(y, i, gen, rel)] }) s
  -- of the underflows of one cycle the lowest node is recorded (R261)
  let under := ys.filter fun y => dieOf s l y == some d && (s.node d l y).desc.isSome && (s.node d l y).ctr < ys.count y
  let t := if (s.partOf d l).fault.isSome || under.isEmpty then t
    else t.updPart d l fun p => { p with fault := some ⟨1, under.foldl Nat.min (under.headD 0), i⟩ }
  t.readyAll d l ys

/-- A run is over: its core is idle, and the die counts the completion (R267 line 09, R305). -/
def coreDone (s : State) (core : CoreId) : State :=
  let s := s.updCore core (·.release 0)
  (s.clearRun core).countCompletion (coreDie core)

/-- The original run of a node ends, with its digest where it is tasted (R258, R267, R302). -/
def endOriginal (s : State) (core : CoreId) (r : Run) (dig : Option Nat) : State :=
  let d := coreDie core
  let rel := endRow (s.core ((s.node d r.launch r.node).core.getD core)) ((s.node d r.launch r.node).core.getD core)
  let s := match (s.node d r.launch r.node).twinCore, (s.node d r.launch r.node).core with
    | some a, some b => (coreDone s a).clearRun b
    | _, _ => coreDone s core
  let s := s.updNode d r.launch r.node fun n => { n with st := .ended, core := none, twinCore := none }
  let s := release s d r.launch r.node rel
  match dig with
  | some v => s.tasteRunDone d r.launch r.node .original (some v)
  | none => s

/-- Whether the other of two twins has not come to the end of its node yet. -/
def twinBehind (s : State) (core : CoreId) (r : Run) : Bool :=
  r.twin && (match (s.node (coreDie core) r.launch r.node).core, (s.node (coreDie core) r.launch r.node).twinCore with
    | some a, some b => !((s.core a).ending && (s.core b).ending && quiet (s.core a) && quiet (s.core b)
                          && (s.core a).li.twinOut.isEmpty && (s.core b).li.twinOut.isEmpty)
    | _, _ => false)

/-- Lines 05 to 09 of R267, once every started command has ended (R301, R302). -/
def finishEnd (s : State) (core : CoreId) : State :=
  match (s.core core).run with
  | none => s.updCore core fun c => { c with ending := false, bar := stopAll c.bar }
  | some r =>
    let d := coreDie core
    let l := r.launch
    let i := r.node
    let p := s.packet l
    if !quiet (s.core core) || twinBehind s core r then s
    else
      let s := if r.kind == .original then returnMembers s d l i else s
      let n := s.node d l i
      match r.kind with
      | .original =>
        if r.tasted && (s.partOf d l).tastes.has i then
          match readOutputs s core r.part n.tiles with
          | .error (.wait t) => t
          | .error (.status _ t) => endOriginal (t.dropTaste d l i) core r none
          | .ok (xs, t) => endOriginal t core r (some (digestOf p.seed p.lid xs))
        else endOriginal s core r none
      | k =>
        let t? := (s.partOf d l).tastes.get? i
        -- poison in a scratch output is a copy status that its page ends the digest with (R301)
        if t?.any fun t => !(if k == .taste then t.bad else t.bad3).isEmpty then (coreDone s core).dropTaste d l i
        else (coreDone s core).tasteRunDone d l i k
          (t?.map fun t => digestOf p.seed p.lid (scratchOutputs (if k == .taste then t.scratch else t.scratch3) n.tiles))

/-- NEND (R267). -/
def execNend (s : State) : Out :=
  .next (if s.slot ≠ 0 then s.illegal
    else if s.here.helperMask ≠ 0 then s.takeTrap .graph (BitVec.ofNat 64 s.here.helperMask)
    else match unsetGuard s.here with
      | some g => s.takeTrap .guard (BitVec.ofNat 64 g)
      | none => finishEnd (beginEnd s) s.cur)

/-- TILE_ARRIVAL: the oldest arrival at a die decrements its node's counter; a stale one counts nothing and ends with status 0x0016 (R258 to
R260, R297). -/
def execTileArrival (die : Nat) (s : State) : Out :=
  .next (match (s.die die).parts.entries.find? fun p => !p.2.arrivals.isEmpty with
  | none => s
  | some (l, p) => match p.arrivals with
    | [] => s
    | (y, src, gen, rel) :: rest =>
      let t := s.updPart die l fun p => { p with arrivals := rest }
      if !genOk s gen then t.updPart die l fun p => { p with staleEnds := p.staleEnds ++ [(y, src, 0x16#16)] }
      else (t.decrement die l y src rel).readyAll die l [y])

/-! ### Graph instructions (R265 to R270) -/

/-- Trap GRAPH with a kind, and a node where it names one (R265). -/
def graphTrap (kind node : Nat) : Stop := .trap .graph (BitVec.ofNat 64 (kind * 2 ^ 16 + node * 2 ^ 32))

/-- The node index of a register: its low 32 bits; none where the high ones are set (R265). -/
def nodeIndex (w : Word) : Option Nat := if w.toNat < 2 ^ 32 then some w.toNat else none

/-- The run of the core whose turn it is, as the graph instructions see it: a core that runs no node names none. -/
def graphRun (s : State) : Option Run := s.here.run

/-- A node of the own die, which the instruction may act on (R265); its index. -/
def ownNode (s : State) (w : Word) : Except Stop (Run × Nat) :=
  match graphRun s, nodeIndex w with
  | some r, some i => if (s.partOf (coreDie s.cur) r.launch).nodes.has i then .ok (r, i) else .error (graphTrap 3 i)
  | _, _ => .error (graphTrap 3 (w.toNat % 2 ^ 32))

/-- Hold the context with an instruction until it can complete (R197, R265). -/
def holdFor (s : State) (i : Instr) (r : Option XReq) : State := s.updMe fun x => { x with held := some i, heldOn := r }

/-- A graph instruction that a taste run makes without effect: G[D] ← 0 (R265). -/
def tasteZero (s : State) (d : Fld) : State := (s.updMe (·.wg d.toNat 0#64)).advance 8

/-- Lines 02 to 08 of R266, with the descriptor read. -/
def spawn (s : State) (d : Fld) (r : Run) (b : List Byte) : State :=
  let die := coreDie s.cur
  let p := s.packet r.launch
  let j := (s.partOf die r.launch).spawn
  if !descOk b then s.stop (.trap .graph (BitVec.ofNat 64 (7 * 2 ^ 16)))
  else if j = p.spawn then s.stop (.trap .graph (BitVec.ofNat 64 (6 * 2 ^ 16)))
  else
    let i := p.nnode + p.spawn * die + j
    let s := s.updPart die r.launch fun q => { q with spawn := j + 1 }
    let s := placeNode (s.updHere (·.release s.slot)) die r.launch i b []
    let s := s.updNode die r.launch i fun n => { n with rel := (s.here.sp.relRow s.slot).export s.cur }
    (s.updMe (·.wg d.toNat (BitVec.ofNat 64 i))).advance 8

/-- NSPAWN (R266): the descriptor is read through the copy path. -/
def execNspawn (d a : Fld) (s : State) : Out :=
  let va := (s.me.rg a.toNat)
  let ends : Nat → State → State := fun st t => (t.updMe (·.wg d.toNat (BitVec.ofNat 64 (2 ^ 63 + st)))).advance 8
  .next (if s.inTaste then tasteZero s d
    else if va.toNat % 128 ≠ 0 then s.takeTrap .align va
    else match graphRun s with
      | none => s.stop (graphTrap 6 0)
      | some r => match s.me.declared with
        | some st => ends st s
        | none =>
          let x : Access := { core := s.cur, rope := false, l1 := true, part := r.part }
          match s.readVirt x va.toNat 128 with
          | .ok (b, bad, t) => if bad then ends 4 t else spawn t d r b
          | .error (.miss q) => holdFor s (.nspawn d a) (some q)
          | .error e => ends e.status (s.refusedRead x va.toNat 128 e))

/-- Whether a node's counter and priority are still to come, its descriptor not having been read (R258). -/
def unread (n : Node) : Bool := n.desc.isNone && n.st == .waiting

/-- Whether a register names a node of the core's launch whose PIN fields no die has read yet (R257). -/
def namesUnplaced (s : State) (w : Word) : Bool :=
  (graphRun s).any fun r => (nodeIndex w).any fun i => (unplacedOf s r.launch i).isSome

/-- NDEP.add, NDEP.sub and NPRIO on a node whose descriptor has been read; one not read yet holds the context (R258, R268, R269). -/
def ndep (s : State) (i : Instr) (d a : Fld) (f : Run → Nat → State) : State :=
  if s.inTaste then tasteZero s d
  else if namesUnplaced s (s.me.rg a.toNat) then holdFor s i none
  else match ownNode s (s.me.rg a.toNat) with
    | .error e => s.stop e
    | .ok (r, j) => if unread (s.node (coreDie s.cur) r.launch j) then holdFor s i none else f r j

/-- NDEP.add (R268). -/
def execNdepAdd (d a : Fld) (s : State) : Out :=
  .next (ndep s (.ndepAdd d a) d a fun r j =>
    let n := s.node (coreDie s.cur) r.launch j
    if n.st ≠ .waiting then s.stop (graphTrap 5 j)
    else if n.ctr = 0xFFFF then s.stop (graphTrap 8 j)
    else
      let s := s.updNode (coreDie s.cur) r.launch j fun n => { n with ctr := n.ctr + 1 }
      (s.updMe (·.wg d.toNat (BitVec.ofNat 64 (n.ctr + 1)))).advance 8)

/-- NDEP.sub: a release; a counter that reaches 0 makes its node READY (R268). -/
def execNdepSub (d a : Fld) (s : State) : Out :=
  .next (ndep s (.ndepSub d a) d a fun r j =>
    let die := coreDie s.cur
    let n := s.node die r.launch j
    if n.ctr = 0 then s.stop (graphTrap 4 j)
    else
      let s := s.updHere (·.release s.slot)
      let s := (s.decrement die r.launch j r.node ((s.here.sp.relRow s.slot).export s.cur)).readyAll die r.launch [j]
      (s.updMe (·.wg d.toNat (BitVec.ofNat 64 (n.ctr - 1)))).advance 8)

/-- NPRIO's effect on a node (R269). -/
def setPrio (s : State) (die l j p : Nat) : State :=
  let n := s.node die l j
  let t := s.updNode die l j fun n => { n with prio := p }
  let e : PassE := ⟨l, j, .original⟩
  if (n.st = .ready ∨ n.st = .preempted) ∧ n.prio ≠ p then (t.leaveLevels die e).enterLevel die p e false else t

/-- NPRIO (R269): the rule checks the priority before it comes to the node. -/
def execNprio (d a b : Fld) (s : State) : Out :=
  let v := s.me.rg b.toNat
  .next (if !s.inTaste ∧ 8 ≤ v.toNat then s.takeTrap .illegal v
    else ndep s (.nprio d a b) d a fun r j =>
      let n := s.node (coreDie s.cur) r.launch j
      if n.st = .ended ∨ n.st = .failed then (s.updMe (·.wg d.toNat 0xFF#64)).advance 8
      else ((setPrio s (coreDie s.cur) r.launch j v.toNat).updMe (·.wg d.toNat (BitVec.ofNat 64 n.prio))).advance 8)

/-- The state code of a node (R258). -/
def stateCode : NodeSt → Nat
  | .waiting => 0 | .ready => 1 | .running => 2 | .preempted => 3 | .ended => 4 | .failed => 5

/-- What NQRY's selectors 3, 4 and 7 answer of a node: of this die, of another, or of none (R270). -/
def queryNode (s : State) (r : Run) (w : Word) (mine : Node → Nat) (other : Nat) : Except Stop Nat :=
  match nodeIndex w with
  | none => .error (graphTrap 3 (w.toNat % 2 ^ 32))
  | some i =>
    let p := s.partOf (coreDie s.cur) r.launch
    match p.nodes.get? i with
    | some n => .ok (mine n)
    | none => if (dieOf s r.launch i).isSome || i < (s.packet r.launch).nnode then .ok other else .error (graphTrap 3 i)

/-- Whether NQRY asks for a node that no die owns yet, or for the counter or the priority of one of this die whose descriptor has not been read
(R257, R258, R270). -/
def asksUnread (s : State) (r : Run) (w : Word) (sel : BitVec 4) : Bool :=
  ((sel == 3#4 || sel == 4#4 || sel == 7#4) && namesUnplaced s w) || (sel == 4#4 || sel == 7#4) && (nodeIndex w).any fun i => ((s.partOf (coreDie s.cur) r.launch).nodes.get? i).any unread

/-- NQRY (R270), which waits for a descriptor as NDEP does; a core that runs no node answers 0 where no node is named. -/
def execNqry (d a : Fld) (sel : BitVec 4) (s : State) : Out :=
  let w := s.me.rg a.toNat
  let put : Nat → State := fun v => (s.updMe (·.wg d.toNat (BitVec.ofNat 64 v))).advance 8
  let ask : Run → (Node → Nat) → Nat → State := fun r f o => match queryNode s r w f o with
    | .ok v => put v
    | .error e => s.stop e
  .next (match graphRun s with
    | none => if sel = 3#4 ∨ sel = 4#4 ∨ sel = 7#4 then s.stop (graphTrap 3 (w.toNat % 2 ^ 32)) else put 0
    | some r =>
      let p := s.packet r.launch
      if asksUnread s r w sel then holdFor s (.nqry d a sel) none
      else match sel.toNat with
      | 0 => put r.node
      | 1 => put p.lid
      | 2 => put p.seed
      | 3 => ask r (fun n => stateCode n.st) 7
      | 4 => ask r (·.ctr) 0
      | 5 => put (if s.inTaste then 1 else 0)
      | 6 => put ((launchMask s r.launch).toNat + r.gen.toNat * 256)
      | _ => ask r (·.prio) 0xFF)

/-! ### Restarts and twins (R226, R227) -/

/-- NODE_RESTART: the service core restarts a halted node on an idle core of its cluster, role and stage; a dispatch that takes place counts
as a restart (R226). -/
def execNodeRestart (die launch node core : Nat) (s : State) : Out :=
  let n := s.node die launch node
  let j := s.logicalNo core
  let entry := j.elim 0#32 (s.roleEntry (coreCluster core))
  .next (if n.st ≠ .running ∨ n.core.isSome ∨ !restartable n ∨ j.isNone ∨ coreCluster core ≠ n.home ∨ !idle s core
      ∨ entry.toNat / 2 ^ 30 ≠ n.d.role ∨ entry.toNat / 2 ^ 22 % 256 ≠ n.stage then s
    else
      let second := if n.d.flag 1 then (idleCores s die n.d.role fun q =>
          q == coreCluster core || meshNear q (coreCluster core)).head? else none
      if n.d.flag 1 && second.isNone then s
      else
        let t := dispatch s die ⟨launch, node, .original⟩ core second
        if (t.node die launch node).core.isSome then t.updNode die launch node fun n => { n with restarts := n.restarts + 1 } else t)

/-- An item's sequence number (R227). -/
def twinNo : TwinItem → Nat
  | .msg n _ | .chan n _ _ | .copy n _ _ => n

/-- What two twins' items must agree on: the 64-bit hash of R227 stands for the item's content. -/
def twinSame : TwinItem → TwinItem → Bool
  | .msg _ a, .msg _ b => a.tgt == b.tgt && a.exists_ == b.exists_ && a.hnum == b.hnum && a.arg == b.arg && a.dat == b.dat
      && a.reply == b.reply && a.th == b.th
  | .chan _ c v, .chan _ d w => c == d && v == w
  | .copy _ _ x, .copy _ _ y => x == y
  | _, _ => false

/-- Forward the first twin's item; a copy of the second ends done without being applied, with its own arrivals (R227). -/
def forwardTwin (s : State) (a b : CoreId) : TwinItem → TwinItem → State
  | .msg _ m, _ => sendOn s { m with also := some b }
  | .chan _ out w, _ =>
    (s.sendWord a out w).updCore b fun c => c.updLi fun l => { l with creditBack := l.creditBack.set out (l.creditBack.get out 0 + 1) }
  | .copy _ t1 _, y =>
    let s := match (s.core a).copyOf t1 with
      | some m => s.updCore a fun c => c.setCopy { m with twinOk := true }
      | none => s
    match y with
    | .copy _ t2 _ => match (s.core b).copyOf t2 with
      | some m =>
        let p := readPlan m.sh
        let t := completePorts s (.copy b m.tid) (portCores b m.rcv)
        let t := (arriveAll t b (m.targets.filter fun x => x.core == b) p.delivered).getD t
        closeCopy t b m 0 p.delivered
      | none => s
    | _ => s

/-- The two cores of a node's twins. -/
def twinsOf (s : State) (d l i : Nat) : Option (CoreId × CoreId) :=
  match (s.node d l i).core, (s.node d l i).twinCore with
  | some a, some b => some (a, b)
  | _, _ => none

/-- Twins that disagree: both are scored and halted, the service core is told, and the node restarts under R226 (R227, R303). -/
def haltTwins (s : State) (a b : CoreId) (l i : Nat) : State :=
  (((s.addScore a 64).addScore b 64).tell a (.twin l i)).haltNode a 0 true

/-- The first items of two twins with the same sequence number (R227). -/
def twinPair (xs ys : List TwinItem) : Option (TwinItem × TwinItem) :=
  xs.findSome? fun x => (ys.find? fun y => twinNo y == twinNo x).map fun y => (x, y)

/-- TWIN_COMPARE: the oldest items of two twins with one sequence number are compared, and one forwarded (R227). -/
def execTwinCompare (die launch node : Nat) (s : State) : Out :=
  .next (match twinsOf s die launch node with
  | none => s
  | some (a, b) => match twinPair (s.core a).li.twinOut (s.core b).li.twinOut with
    | some (x, y) =>
      if twinSame x y then
        let t := s.updCore a fun c => c.updLi fun l => { l with twinOut := l.twinOut.erase x }
        let t := t.updCore b fun c => c.updLi fun l => { l with twinOut := l.twinOut.erase y }
        forwardTwin t a b x y
      else haltTwins s a b launch node
    | none => s)

/-- TWIN_SILENCE_TIMEOUT: one twin has issued an item and the other has been silent (R227; the count of cycles is left out, log 4). -/
def execTwinSilenceTimeout (die launch node : Nat) (s : State) : Out :=
  .next (match twinsOf s die launch node with
  | none => s
  | some (a, b) =>
    if (twinPair (s.core a).li.twinOut (s.core b).li.twinOut).isSome ∨ ((s.core a).li.twinOut.isEmpty ∧ (s.core b).li.twinOut.isEmpty) then s
    else haltTwins s a b launch node)

end Sys2Proof.Machine
end

