-- ==== Sys2Proof/Machine/Host.lean ====
section
/-!
DEFINITION. The host message channel (R336 to R341, R344), launches as the SCC takes and completes them (R342, R343), health (R352),
wear records as a reply (R350), residency reports to a fabric sender (R372), and a die's report (R261, R304).
-/
namespace Sys2Proof.Machine
open State

/-! ### Messages (R337) -/

/-- One bit of the division by the Castagnoli polynomial, reflected. -/
def crcBit (r : BitVec 32) : BitVec 32 := if r.getLsbD 0 then (r >>> 1) ^^^ 0x82F63B78#32 else r >>> 1
/-- One byte. -/
def crcByte (r : BitVec 32) (b : Byte) : BitVec 32 :=
  crcBit (crcBit (crcBit (crcBit (crcBit (crcBit (crcBit (crcBit (r ^^^ b.setWidth 32))))))))
/-- CRC-32C (R337). -/
def crc32c (bs : List Byte) : BitVec 32 := ~~~(bs.foldl crcByte 0xFFFFFFFF#32)

/-- A message: its header, whose CHECK covers the header's first twelve bytes and the payload, and the payload (R337). -/
def messageBytes (seq ty : Nat) (payload : List Byte) : List Byte :=
  let h := leBytes 4 seq ++ leBytes 2 ty ++ leBytes 2 payload.length ++ leBytes 4 0
  h ++ leBytes 4 (crc32c (h ++ payload)).toNat ++ payload

/-- The payload that a message's LEN gives. -/
def msgPayload (b : List Byte) : List Byte := (b.drop 16).take (field b 6 2)
/-- Whether a message's CHECK is good (R337). -/
def checkOk (b : List Byte) : Bool := (crc32c (b.take 12 ++ msgPayload b)).toNat == field b 12 4

/-- The sequence number after another (R337). -/
def nextSeq (n : Nat) : Nat := if n = 2 ^ 32 - 1 then 1 else n + 1
/-- How far a sequence number lies after another. -/
def seqDist (a b : Nat) : Nat := (b + (2 ^ 32 - 1) - a) % (2 ^ 32 - 1)

/-- Whether a message in slots 0 to 7 is well formed (R340). -/
def formOk (b : List Byte) : Bool :=
  let p := msgPayload b
  field b 8 4 == 0 && (match field b 4 2 with
    | 1 => field b 6 2 == 64
    | 3 => field b 6 2 == 0
    | 4 => field b 6 2 == 4 && 1 ≤ field p 2 2 && field p 2 2 ≤ 7 && field p 0 2 + field p 2 2 ≤ 24
    | _ => false)

namespace State

/-! ### Writing to the host (R339) -/

/-- A function's channel: VF 0 to 15, PF 16. -/
def chan (s : State) (fn : Nat) : Chan := s.mod.chans.get fn {}
/-- Change a channel. -/
def updChan (s : State) (fn : Nat) (f : Chan → Chan) : State :=
  s.updMod fun m => { m with chans := m.chans.set fn (f (m.chans.get fn {})) }

/-- Write into host memory and signal the function's vector 0. -/
def hostWrite (s : State) (fn addr : Nat) (b : List Byte) : State :=
  s.updChan fn fun c => { c with hostMem := c.hostMem.writeBytes addr b, msi := c.msi + 1 }

/-- The slots of a function's event ring. -/
def ringSlots (c : Chan) : Nat := 2 ^ c.evLog

/-- The COMPLETE of a launch has been written: it is DONE (R342). -/
def markDone (s : State) (l : Option Nat) (seq : Nat) : State :=
  match l with
  | none => s
  | some l => match s.mod.launches.get? l with
    | none => s
    | some x => s.updMod fun m =>
        { m with launches := m.launches.set l { x with st := if x.st = .lost then .lost else .done, finalSeq := seq } }

/-- Whether the credit of R339 lets a message go: one that stands no more than K after HACK.LAST, or not after it. -/
def hasCredit (c : Chan) (seq : Nat) : Bool :=
  let d := seqDist c.hackLast seq
  let beyond := seqDist c.lastTx c.hackLast
  d ≤ ringSlots c || seqDist c.hackLast (nextSeq c.lastTx) < d || (c.hackLast != 0 && 1 ≤ beyond && beyond < 2 ^ 31)

/-- Write the first waiting message into the ring if the credit allows it (R339); none before READY, and none in ROMONLY (R355). -/
def sendOne (s : State) (fn : Nat) : State :=
  let c := s.chan fn
  match c.waiting with
  | [] => s
  | m :: rest =>
    let seq := m.seq.getD (nextSeq c.lastTx)
    if s.mod.phase ≠ .ready ∨ !c.hasArea ∨ !hasCredit c seq then s
    else
      let t := s.updChan fn fun c =>
        { c with waiting := rest, lastTx := if m.seq.isSome then c.lastTx else seq,
                 retained := if m.seq.isSome then c.retained else (c.retained ++ [{ m with seq := some seq }]).drop (c.retained.length - 63) }
      let t := t.hostWrite fn (c.evBase + 512 * (seq % ringSlots c)) (messageBytes seq m.ty m.payload)
      if m.seq.isSome then t else t.markDone m.launch seq

/-- Write every waiting message that the credit allows. -/
def pump (s : State) (fn : Nat) : State := (List.range (s.chan fn).waiting.length).foldl (fun t _ => t.sendOne fn) s

/-- The messages of a function that may wait in the SCC (R339). -/
def waitLimit : Nat := 64

/-- The messages of a channel that wait to be sent for the first time: those that a SYNC has sent again stand among the retained ones. -/
def fresh (c : Chan) : Nat := (c.waiting.filter fun m => m.seq.isNone).length

/-- Send a message to a function's host, as soon as the credit allows; 64 may wait, and another is not kept, which only an EVENT meets
(R339; log 48); a COMPLETE always is. -/
def send (s : State) (fn ty : Nat) (payload : List Byte) (l : Option Nat := none) : State :=
  if (l.isNone ∧ waitLimit ≤ fresh (s.chan fn)) ∨ s.mod.phase = .romOnly then s
  else (s.updChan fn fun c => { c with waiting := c.waiting ++ [{ ty := ty, payload := payload, launch := l }] }).pump fn

/-- Whether a host message may be taken: its answer, those of the messages taken before and the COMPLETE of each launch of the function
have room among the messages that may wait (R339; log 48). -/
def hasRoom (s : State) (fn : Nat) : Bool :=
  let c := s.chan fn
  let due := s.mod.launches.entries.filter fun e => e.2.fn == fn && e.2.fabric.isNone && (e.2.st == .queued || e.2.st == .running)
  fresh c + c.taken.length + due.length < waitLimit

/-- Answer REJECT (R341). -/
def reject (s : State) (fn hseq reason : Nat) : State := s.send fn 0x88 (leBytes 4 hseq ++ leBytes 2 reason ++ leBytes 2 0)

/-- Write a message of SEQ 0 into the reply slot (R339, R344). -/
def replySlot (s : State) (fn ty : Nat) (payload : List Byte) : State :=
  let c := s.chan fn
  s.hostWrite fn (c.evBase + 512 * ringSlots c) (messageBytes 0 ty payload)

/-- The residency state's code (R342). -/
def residencyCode : LState → Nat
  | .queued => 0 | .running => 1 | .done => 2 | .refused => 3 | .lost => 4

/-- The payload of SYNCREPLY and MSYNC: the resident launches of the function's host, in the order they were taken (R344). -/
def syncPayload (s : State) (fn : Nat) : List Byte :=
  let c := s.chan fn
  let ls := s.mod.launches.entries.filter fun e => e.2.fn == fn && e.2.fabric.isNone
  leBytes 4 c.lastRx ++ leBytes 4 c.lastTx ++ leBytes 4 s.mod.boots ++ leBytes 4 ls.length
  ++ ls.flatMap fun e => leBytes 4 (field e.2.packet 0 4) ++ leBytes 4 e.2.hseq ++ leBytes 1 (residencyCode e.2.st) ++ leBytes 3 0

/-- The module takes host message `seq`: LASTRX and BOOTS are written at ACKADDR (R338). -/
def takeSeq (s : State) (fn seq : Nat) : State :=
  let t := s.updChan fn fun c => { c with lastRx := seq }
  if (t.chan fn).hasArea then
    t.updChan fn fun c => { c with hostMem := c.hostMem.writeBytes c.ackAddr (leBytes 4 seq ++ leBytes 4 s.mod.boots) }
  else t

/-! ### Health (R352) -/

/-- The logical core count of a die (R311). -/
def dieCores (s : State) (d : Nat) : Nat := ((List.range 64).map fun q => (s.cluster (d * 64 + q)).logical.length).sum

/-- The health that the conditions of R352 give. -/
def healthNow (s : State) : Health :=
  if s.mod.live ≠ 0xFF#8 ∨ s.mod.drives = 0#2 then .replace
  else if (s.clusters.entries.any fun e => e.2.reserve.isNone) ∨ s.mod.drives ≠ 3#2 ∨ !s.mod.portsDown.isEmpty then .degraded
  else .ok

/-- The code of a health state (R352). -/
def healthCode : Health → Nat
  | .ok => 0 | .degraded => 1 | .replace => 2

/-- Health only moves to a worse state; every change sends EVENT on the PF (R340, R352). -/
def noteHealth (s : State) : State :=
  let h := s.healthNow
  if healthCode h ≤ healthCode s.mod.health then s
  else (s.updMod fun m => { m with health := h }).send 16 0x86
    (leBytes 1 (healthCode h) ++ leBytes 1 s.mod.live.toNat ++ leBytes 2 s.mod.gen.toNat ++ leBytes 4 0)

/-- The payload of the HEALTH reply (R352). Host writes discarded in PARK and SLEEP count with the aperture faults (R364). -/
def healthPayload (s : State) : List Byte :=
  let quar := (s.dies.entries.map fun e => (e.2.scores.entries.filter fun x => x.2.quar).length).sum
  leBytes 1 (healthCode s.mod.health) ++ leBytes 1 s.mod.live.toNat ++ leBytes 2 s.mod.gen.toNat ++ leBytes 2 quar
  ++ leBytes 1 s.mod.drives.toNat ++ leBytes 1 s.mod.portsDown.length
  ++ ((List.range 8).flatMap fun d => leBytes 2 (s.dieCores d))
  ++ leBytes 8 (s.mod.apFaults + s.mod.discarded) ++ leBytes 16 0
  ++ (List.range 64).flatMap fun k => leBytes 4 (s.mod.mem.errors.get k 0)

/-- A wear record's 64 bytes (R350). -/
def wearBytes (w : Wear) : List Byte :=
  leBytes 8 w.power ++ leBytes 8 w.thermal ++ ((List.range 5).flatMap fun b => leBytes 8 (w.band.get b 0)) ++ leBytes 8 w.energy

/-! ### Launches (R342, R343, R371, R372) -/

/-- Whether the fields of a packet keep their limits, with GEN and LIVE zero (R253). -/
def packetOk (b : List Byte) : Bool :=
  let p := readPacket b
  b.length == 64 && 1 ≤ p.nnode && p.nnode ≤ 2 ^ 20 && p.nodes % 128 == 0 && p.nodes < 2 ^ 56 && field b 26 1 < 16
  && field b 27 1 ≤ 12 && zeroBytes b 30 64

/-- Whether a launch is resident: a fabric launch until its final report, a host launch until its message is consumed (R342). -/
def resident (x : Launch) : Bool :=
  match x.st with
  | .refused => false
  | .done | .lost => x.fabric.isNone
  | _ => true

/-- The launches of a VF, or of its fabric senders, that are resident. -/
def residents (s : State) (fn : Nat) : Nat := (s.mod.launches.entries.filter fun e => e.2.fn == fn && resident e.2).length

/-- The lowest REASON for which a launch of a function or window is refused (R342). -/
def refusal (s : State) (fn : Nat) (b : List Byte) : Option Nat :=
  let p := readPacket b
  if !packetOk b then some 1
  else if 2 ^ 20 < p.nnode + 8 * p.spawn then some 2
  else if s.mod.live = 0#8 then some 3
  else if p.part ≠ fn then some 4
  else if 32 ≤ s.residents fn then some 5
  else if s.mod.phase ≠ .ready ∨ s.mod.drives = 0#2 then some 6
  else none

/-- The residency report of a fabric launch (R372). -/
def residencyReport (s : State) (fseq st code lid conv : Nat) : List Byte :=
  leBytes 4 fseq ++ leBytes 1 st ++ leBytes 1 0 ++ leBytes 2 code ++ leBytes 4 lid ++ leBytes 4 s.mod.addr.toNat
  ++ leBytes 4 conv ++ leBytes 12 0

/-- Write a report at a fabric sender's REPORT address, bytes 8 to 31 before bytes 0 to 7; one that finds its sender unreachable is dropped
(R366, R372). -/
def sendReport (s : State) (src part addr : Nat) (b : List Byte) : State :=
  if (s.mod.peers.get src {}).unreachable ∨ !s.pathUp src then s
  else (s.sendFabric ⟨src, part, addr + 8, .report, b.drop 8, 0#20, 0#16⟩).sendFabric ⟨src, part, addr, .report, b.take 8, 0#20, 0#16⟩

/-- A launch becomes resident at its place in the order (R342). -/
def putLaunch (s : State) (l : Nat) (x : Launch) : State := s.updMod fun m => { m with launches := m.launches.set l x }

/-- A launch becomes resident at the next place (R342, R371). -/
def addLaunch (s : State) (x : Launch) : State :=
  (s.putLaunch s.mod.launchNext x).updMod fun m => { m with launchNext := m.launchNext + 1 }

/-- HACK.LAST has reached `last`: the host's launches whose final message it covers leave residency (R342). -/
def leaveResidency (s : State) (fn last : Nat) : State :=
  let lastTx := (s.chan fn).lastTx
  let ahead : Nat → Bool := fun f => let d := seqDist last f; 1 ≤ d && d ≤ seqDist last lastTx
  s.updMod fun m => { m with launches := m.launches.filterVals fun _ x =>
    !(x.fn == fn && x.fabric.isNone && (x.st == .done || x.st == .lost) && x.finalSeq != 0 && !ahead x.finalSeq) }

/-- The dies' reports of a launch, by die. -/
def dieReports (x : Launch) : List (Nat × DieFault × TasteWord × Option Nat) := x.reports.entries

/-- STATUS, DIE, u and v of a completion (R343): the lowest non-zero status, of the lowest die. -/
def completionStatus (x : Launch) : Nat × Nat × Nat × Nat :=
  match x.dieFail with
  | some d => (6, d, 0, 0)
  | none => (dieReports x).foldl (fun best r =>
      if r.2.1.status ≠ 0 ∧ (best.1 = 0 ∨ r.2.1.status < best.1) then (r.2.1.status, r.1, r.2.1.u, r.2.1.v) else best) (0, 0, 0, 0)

/-- The taste words of a launch's dies, summed field by field, saturating (R343). -/
def completionTaste (x : Launch) : TasteWord :=
  let sum : (TasteWord → Nat) → Nat := fun f => Nat.min 0xFFFF ((dieReports x).map fun r => f r.2.2.1).sum
  { void := sum (·.void), drop := sum (·.drop), dis := sum (·.dis), run := sum (·.run) }

/-- CONV of a completion (R343). -/
def completionConv (x : Launch) : Nat :=
  ((dieReports x).filterMap fun r => r.2.2.2).foldl Nat.min 0xFFFFFFFF

/-- The taste word as a number (R304). -/
def tasteBits (w : TasteWord) : Nat := w.void * 2 ^ 48 + w.drop * 2 ^ 32 + w.dis * 2 ^ 16 + w.run

/-- The payload of a COMPLETE (R343). -/
def completePayload (x : Launch) (elapsed : Nat) : List Byte :=
  let st := completionStatus x
  leBytes 4 (field x.packet 0 4) ++ leBytes 4 x.hseq ++ leBytes 2 st.1 ++ leBytes 1 st.2.1 ++ leBytes 1 0
  ++ leBytes 4 st.2.2.1 ++ leBytes 4 st.2.2.2 ++ leBytes 8 (tasteBits (completionTaste x)) ++ leBytes 4 (completionConv x)
  ++ leBytes 2 x.gen.toNat ++ leBytes 1 x.liveMask.toNat ++ leBytes 1 0 ++ leBytes 8 elapsed

/-- The dies forget a launch that is over: its parts, what they were still to read for it, and what a reader of its writes could have missed
(R261, R298); of its collectives none is to come (R373). -/
def forgetLaunch (s : State) (l : Nat) : State :=
  let p := s.packet l
  let mine : XReq → Bool := fun r => r.eng == .die && r.part == p.part && (p.nodes ≤ r.va && r.va < p.nodes + 128 * p.nnode
    || !(s.mod.launches.entries.any fun e => e.1 != l && e.2.st == .running && (s.packet e.1).part == p.part))
  let t := { s with dies := s.dies.mapVals fun _ d =>
    (({ d with parts := d.parts.erase l } : Die).dropClaims fun k => k.1.launch == l).dropReads mine }
  (t.updMod fun m => { m with failedColls := m.failedColls.filter fun f => f.launch != some l }).settleLaunch l

/-- Every die has reported: the SCC writes COMPLETE, or the final residency report, and the dies forget the launch (R343, R372). -/
def completeLaunch (s : State) (l : Nat) (x : Launch) : State :=
  let s := s.forgetLaunch l
  match x.fabric with
  | none => (s.updMod fun m => { m with launches := m.launches.set l x }).send x.fn 0x82
      (completePayload x (s.mod.clock - x.handed)) (some l)
  | some (src, fseq, addr) =>
    let b := s.residencyReport fseq 2 (completionStatus x).1 (field x.packet 0 4) (completionConv x)
    (s.updMod fun m => { m with launches := m.launches.set l { x with st := .done, final := b } }).sendReport src x.fn addr b

end State

/-! ### The die's report (R261, R304) -/

/-- Whether a descriptor of a launch is still to be read, or its node to be placed on a die (R257, R258). -/
def unreadLeft (s : State) (l : Nat) : Bool :=
  ((s.mod.launches.get? l).any fun x => !x.unplaced.entries.isEmpty) ||
  s.dies.entries.any fun d => ((d.2.parts.get l {}).nodes.entries.any fun n => n.2.desc.isNone && n.2.st == .waiting)

/-- Whether a command belongs to a launch. -/
def CEntry.ofLaunch (l : Nat) : CEntry → Bool
  | .copy m => m.run.any fun r => r.launch == l
  | .coll m => m.run.any fun r => r.launch == l

/-- Whether an arrival, a copy or a taste of a launch is in flight on a die (R261, R304). -/
def inFlight (s : State) (d l : Nat) : Bool :=
  let p := s.partOf d l
  !p.arrivals.isEmpty || !p.tastes.entries.isEmpty
  || s.cores.entries.any fun c => coreDie c.1 == d && c.2.en.flight.any (CEntry.ofLaunch l)

/-- Whether a die has finished its part: every node ENDED or FAILED, nothing in flight (R261). -/
def finished (s : State) (d l : Nat) : Bool :=
  ((s.partOf d l).nodes.entries.all fun n => n.2.st == .ended || n.2.st == .failed) && !inFlight s d l

/-- Whether no node of a die is READY, RUNNING or PREEMPTED and nothing is in flight (R261). -/
def noneActive (s : State) (d l : Nat) : Bool :=
  ((s.partOf d l).nodes.entries.all fun n => n.2.st == .ended || n.2.st == .failed || n.2.st == .waiting) && !inFlight s d l

/-- What a die reports: the fault it recorded first, STALLED with its lowest WAITING node, or DONE (R261). -/
def reportOf (p : Part) : DieFault :=
  match p.fault, p.nodes.entries.find? fun n => n.2.st == .waiting with
  | some f, _ => f
  | none, some n => ⟨2, n.1, n.2.ctr⟩
  | none, none => ⟨0, 0, 0⟩

/-- The dies whose reports a launch needs: those it was handed to that have not failed (R343). -/
def reporters (s : State) (x : Launch) : List Nat := (liveDies x.liveMask).filter fun d => !(s.die d).failed

/-- Whether the module is in RUN, an entry under way included. -/
def inRun (s : State) : Bool := s.mod.power == .run || s.mod.power == .parkPending || s.mod.power == .sleepPending

/-- DIE_REPORT: a die that holds a part of the launch reports it, in RUN and once the module has booted (R261, R295, R304, R343). -/
def execDieReport (die launch : Nat) (s : State) : Out :=
  .next (match s.mod.launches.get? launch with
  | none => s
  | some x =>
    let p := s.partOf die launch
    if !inRun s ∨ s.mod.phase ≠ .ready ∨ !(s.die die).parts.has launch ∨ x.st ≠ .running ∨ !(reporters s x).contains die ∨ p.reported ∨ x.reports.has die ∨ unreadLeft s launch
        ∨ !(finished s die launch || (reporters s x).all fun d => noneActive s d launch) then s
    else
      let t := (s.harvestAll die).updPart die launch fun p => { p with reported := true }
      let x := { x with reports := x.reports.set die (reportOf p, p.word, p.conv) }
      if (reporters s x).all x.reports.has then t.completeLaunch launch x
      else t.updMod fun m => { m with launches := m.launches.set launch x })

/-! ### The host's acts (R338 to R344) -/

/-- Hold a message in its slot. -/
def holdSlot (s : State) (fn slot : Nat) (b : List Byte) : State := s.updChan fn fun c => { c with slots := c.slots.set slot b }

/-- A message is taken: LASTRX moves, and it stands for the event of its TYPE; a LAUNCH gets its place among those of all functions
(R338, R342). -/
def takeHostMsg (s : State) (fn seq ty : Nat) (payload : List Byte) : State :=
  let n := s.mod.launchNext
  let t := (s.takeSeq fn seq).updChan fn fun c => { c with taken := c.taken ++ [⟨seq, ty, payload, n⟩] }
  if ty = 1 then t.updMod fun m => { m with launchNext := n + 1 } else t

/-- Decide an arrival in a slot of a function whose slots are taken (R341); the event of its TYPE then answers what is taken. With no room
for an answer the message stays in its slot (log 48). -/
def decideSlot (s : State) (fn slot : Nat) (b : List Byte) : State :=
  let c := s.chan fn
  let seq := field b 0 4
  let want := nextSeq c.lastRx
  if !s.hasRoom fn then holdSlot s fn slot b
  else if seq = 0 then (if checkOk b then s.reject fn 0 3 else s.reject fn want 2)
  else if seq ≠ want ∧ seq ≤ c.lastRx then s
  else if seq ≠ want then s.reject fn want 1
  else if !checkOk b then s.reject fn want 2
  else if !formOk b then (s.takeSeq fn seq).reject fn seq 3
  else takeHostMsg s fn seq (field b 4 2) (msgPayload b)

/-- Slots that were held are taken where each is the next in sequence; the others are discarded (R341, R344). -/
def takeHeld (s : State) (fn : Nat) : State :=
  let t := s.updChan fn fun c => { c with slots := {} }
  ((List.range 8).foldl (fun (r : State × Tab (List Byte)) _ =>
    match r.2.entries.find? fun e => field e.2 0 4 == nextSeq (r.1.chan fn).lastRx with
    | some e => (decideSlot r.1 fn e.1 e.2, r.2.erase e.1)
    | none => r) (t, (s.chan fn).slots)).1

/-- Slots that stood for want of room are decided again, from the next in sequence on (R339; log 48). -/
def retrySlots (s : State) (fn : Nat) : State :=
  if !(s.chan fn).ready then s
  else (List.range 8).foldl (fun t j =>
    let k := (nextSeq (s.chan fn).lastRx + j) % 8
    match (t.chan fn).slots.get? k with
    | some b => decideSlot (t.updChan fn fun c => { c with slots := c.slots.erase k }) fn k b
    | none => t) s

/-- Whether host writes reach the module: in PARK and SLEEP they are discarded and counted (R364). -/
def hostCounts (s : State) : Bool := s.mod.power == .park || s.mod.power == .sleep

/-- HOST_SLOT_WRITE: a write covering header byte 15 of a message slot, or of the SYNC slot, 8 (R338, R341, R344). -/
def execHostSlotWrite (fn slot : Nat) (msg : List Byte) (s : State) : Out :=
  .next (if hostCounts s then s.updMod fun m => { m with discarded := m.discarded + 1 }
    else if s.mod.power = .off ∨ s.mod.phase = .romOnly ∨ msg.length ≠ 512 then s
    else if slot = 8 then s.updChan fn fun c => { c with taken := c.taken ++ [⟨0, 2, msg, 0⟩] }
    else if (s.chan fn).ready then decideSlot s fn slot msg
    else holdSlot s fn slot msg)

/-- Take the first taken message that a step decides; none where none stands, or where the channel is inert (R355). -/
def popTaken (s : State) (fn : Nat) (p : InMsg → Bool) : Option (InMsg × State) :=
  if s.mod.phase = .romOnly then none
  else ((s.chan fn).taken.find? p).map fun m => (m, s.updChan fn fun c => { c with taken := c.taken.erase m })

/-- LAUNCH: a taken LAUNCH becomes resident or is refused, in the order in which they were taken (R342). -/
def execLaunch (fn hseq : Nat) (packet : List Byte) (s : State) : Out :=
  .next (match popTaken s fn fun m => m.ty == 1 && m.seq == hseq && m.payload == packet with
  | none => s
  | some (m, t) => if earlierLaunch t m.order then s else match t.refusal fn packet with
    | some r => t.send fn 0x81 (leBytes 4 (field packet 0 4) ++ leBytes 4 hseq ++ leBytes 2 r ++ leBytes 2 0)
    | none => t.putLaunch m.order { fn := fn, hseq := hseq, packet := packet })

/-- Whether a SYNC keeps its limits (R340, R344). -/
def syncOk (b : List Byte) : Bool :=
  let p := msgPayload b
  checkOk b && field b 0 4 == 0 && field b 4 2 == 2 && field b 6 2 == 32 && field b 8 4 == 0
  && field p 0 8 % 4096 == 0 && 3 ≤ field p 8 1 && field p 8 1 ≤ 8 && zeroBytes p 9 16 && field p 16 8 % 8 == 0 && zeroBytes p 28 32

/-- Take a SYNC (R344): the steps of the rule in order; then the slots that were held until the function's first one are taken (R341), where
those of a function that takes slots already were discarded in the first step. -/
def takeSync (s : State) (fn : Nat) (msg : List Byte) : State :=
  let p := msgPayload msg
  let from_ := field p 24 4
  let t := s.updChan fn fun c =>
    { c with evBase := field p 0 8, evLog := field p 8 1, ackAddr := field p 16 8, hasArea := true, ready := true,
             slots := if c.ready then {} else c.slots, hackLast := from_, msync := false,
             waiting := (c.retained.filter fun m =>
                 let d := seqDist from_ (m.seq.getD 0)
                 1 ≤ d && d ≤ seqDist from_ c.lastTx) ++ c.waiting.filter fun m => m.seq.isNone }
  let t := t.leaveResidency fn from_
  let t := t.replySlot fn 0x83 (t.syncPayload fn)
  takeHeld (t.pump fn) fn

/-- SYNC (R344); one that arrives before READY waits for the boot to restore the journal, and takes MSYNC's place there (R345). -/
def execSync (fn : Nat) (msg : List Byte) (s : State) : Out :=
  .next (if s.mod.phase = .boot then s else match popTaken s fn fun m => m.ty == 2 && m.payload == msg with
  | none => s
  | some (_, t) => if syncOk msg then takeSync t fn msg else t)

/-- HEALTH (R352). -/
def execHealth (fn : Nat) (s : State) : Out :=
  .next (match popTaken s fn fun m => m.ty == 3 with
  | none => s
  | some (_, t) => t.send fn 0x84 t.healthPayload)

/-- WEAR (R350). -/
def execWear (fn first count : Nat) (s : State) : Out :=
  .next (match popTaken s fn fun m => m.ty == 4 && field m.payload 0 2 == first && field m.payload 2 2 == count with
  | none => s
  | some (_, t) => t.send fn 0x85 ((List.range count).flatMap fun j => wearBytes (t.mod.wear.get (first + j) {})))

/-- HACK_WRITE: LAST moves, launches whose final message it covers leave residency, and waiting messages are sent (R336, R342). -/
def execHackWrite (fn : Nat) (v : Word) (s : State) : Out :=
  let last := v.toNat % 2 ^ 32
  .next (if hostCounts s then s.updMod fun m => { m with discarded := m.discarded + 1 }
    else if s.mod.power = .off ∨ s.mod.phase = .romOnly then s
    else
      let t := s.updChan fn fun c => { c with hackLast := last }
      retrySlots ((t.leaveResidency fn last).pump fn) fn)

/-- MODULE_MESSAGE_SEND: a waiting message is written once the credit allows (R339). -/
def execModuleMessageSend (fn : Nat) (s : State) : Out := .next (retrySlots (s.sendOne fn) fn)

/-! ### The channel window (R336) -/

/-- CHSTATE.PHASE (R336). -/
def phaseCode : Phase → Nat
  | .boot => 0 | .ready => 1 | .romOnly => 2

/-- CHSTATE: BOOTS, MSYNC and PHASE; the other bits are 0 (R336). -/
def chState (s : State) (fn : Nat) : Word :=
  BitVec.ofNat 64 (s.mod.boots % 2 ^ 32 * 2 ^ 32 + (if (s.chan fn).msync then 128 else 0) + phaseCode s.mod.phase)

/-- What a host reads in 8 bytes of a function's BAR 0: CHSTATE, 0 where nothing is readable, all ones in PARK and SLEEP (R336, R364).
Of the slots and HACK, which are for writes, it reads 0 too (log 48). -/
def barValue (s : State) (fn off : Nat) : Word :=
  if hostCounts s then BitVec.allOnes 64 else if off = 0x1208 then chState s fn else 0#64

/-- A host reads BAR 0; a module without power answers nothing (R336, R364). -/
def barRead (s : State) (fn off : Nat) : State :=
  if s.mod.power = .off then s else s.updMod fun m => { m with barOut := m.barOut ++ [(fn, off, barValue s fn off)] }

end Sys2Proof.Machine
end

