-- ==== Sys2Proof/Machine/Cadence.lean ====
section
/-!
DEFINITION. The sweep engine's cadence sets (R272 to R277) and the CADENCE instructions (R278 to R284). The members' LAST, PREV,
POST, sweeps and exponents stand in memory, where R272 lays them out.
-/
namespace Sys2Proof.Machine
open State

/-! ### Members in memory (R272) -/

/-- The sweep engine's access of a set's pages, by the last-level TLB of its die. -/
def sweepAccess (d part : Nat) : Access := { core := d * 640, rope := false, l1 := false, part := part, cad := true }

/-- Whether a set's pages are readable as R272 has them; where they are not, the engine reads free bytes. -/
def memberBytes (s : State) (d : Nat) (k : CadSet) (m off n : Nat) : List Byte :=
  match s.readVirt (sweepAccess d k.part) (k.base + 512 * m + off) n with
  | .ok (b, _, _) => b
  | .error _ => (List.range n).map fun j => Config.freeByte s.free (512 * m + off + j)

/-- Whether a member's elements from an offset lie in poisoned sectors. -/
def memberPoison (s : State) (d : Nat) (k : CadSet) (m off n : Nat) : Bool :=
  match s.readVirt (sweepAccess d k.part) (k.base + 512 * m + off) n with
  | .ok (_, p, _) => p
  | .error _ => false

/-- What the engine's read of a member's bytes leaves: what the ECC found; an integrity violation locks the partition's key domain (R288). -/
def memberSeen (s : State) (d : Nat) (k : CadSet) (m off n : Nat) : State := s.metRead (sweepAccess d k.part) (k.base + 512 * m + off) n

/-- Write bytes of a member: pinned storage; an integrity violation locks the partition's key domain (R288). -/
def memberWrite (s : State) (d : Nat) (k : CadSet) (m off : Nat) (b : List Byte) : State :=
  match s.writeVirt (sweepAccess d k.part) (k.base + 512 * m + off) b with
  | .ok (_, t) => t
  | .error e => s.refusedWrite (sweepAccess d k.part) (k.base + 512 * m + off) b.length e

/-- The control fields of a member: SLAST, SPREV, C, PIN and PC. -/
structure Control where
  slast : Nat
  sprev : Nat
  c : Nat
  pin : Bool
  pc : Nat
  deriving DecidableEq, Repr

/-- Read a member's control fields. -/
def control (s : State) (d : Nat) (k : CadSet) (m : Nat) : Control :=
  let b := memberBytes s d k m 384 9
  let x := field b 8 1
  { slast := field b 0 4, sprev := field b 4 4, c := x % 8, pin := x / 8 % 2 == 1, pc := x / 16 % 8 }

/-- A member's control fields as bytes. -/
def Control.bytes (x : Control) : List Byte :=
  leBytes 4 x.slast ++ leBytes 4 x.sprev ++ leBytes 1 (x.c + (if x.pin then 8 else 0) + 16 * x.pc)

/-! ### The calendar (R274, R275) -/

/-- Whether a member is due in a sweep (R274). -/
def due (x : Control) (t : Nat) : Bool := x.slast + 2 ^ x.c ≤ t

/-- The set in an id of a die. -/
def setOf (s : State) (d k : Nat) : Option CadSet := (s.die d).sets.get? k
/-- Write the set in an id of a die. -/
def putSet (s : State) (d k : Nat) (x : CadSet) : State := s.updDie d fun y => { y with sets := y.sets.set k x }

/-- The largest difference of two members' values over W elements, exact; NaN if any difference is NaN (R275 line 01). -/
def largest (w : Nat) (post last : List Byte) : Val :=
  (List.range w).foldl (fun (m : Val) e =>
    let v := (Val.add .rne (f32.unpack false (field post (4 * e) 4)) (f32.unpack false (field last (4 * e) 4)).neg).1.abs
    if m.isNan then m else if v.isNan || m.lt v then v else m) (.num false 0 0)

/-- The exponent of a member's next visit (R275 lines 02 to 04). -/
def nextC (k : CadSet) (x : Control) (d : Val) : Nat :=
  if x.pin then x.pc
  else if d.lt (f32.unpack false k.lo.toNat) && x.c < k.cmax then x.c + 1
  else if ((f32.unpack false k.hi.toNat).lt d || d.isNan) && 0 < x.c then x.c - 1
  else x.c

/-- The update of a posted member at the close of sweep `t` (R275). -/
def visit (s : State) (d : Nat) (k : CadSet) (t m : Nat) : State :=
  let last := memberBytes s d k m 0 128
  let post := memberBytes s d k m 256 128
  let x := control s d k m
  let x := { x with c := nextC k x (largest k.w post last), sprev := x.slast, slast := t }
  let s := [(0, 128), (256, 128), (384, 9)].foldl (fun (t : State) r => memberSeen t d k m r.1 r.2) s
  let s := memberWrite s d k m 128 last
  memberWrite (memberWrite s d k m 0 post) d k m 384 x.bytes

/-- Apply a pin word to a member (R284). -/
def applyPin (s : State) (d : Nat) (k : CadSet) (m w : Nat) : State :=
  let x := control s d k m
  memberWrite (memberSeen s d k m 384 9) d k m 384 { x with pin := w / 8 % 2 == 1, pc := w % 8 }.bytes

/-- The close of an open sweep (R274, R275, R284), a release of every post of it (R276). -/
def closeSweep (s : State) (d id : Nat) (k : CadSet) : State :=
  let t := k.t + 1
  let s := k.posted.foldl (fun s m => visit s d k t m) s
  let s := k.pins.entries.foldl (fun s p => applyPin s d k p.1 p.2.toNat) s
  putSet s.takeFree d id { k with
    t := t, isOpen := false, due := [], posted := [], handed := {}, pins := {}, posts := {}, rel := Row.join k.rel k.posts }

/-- Open the next sweep: its due set is fixed; one with no due member closes at once (R274). Answers the due count. -/
def openSweep (s : State) (d id : Nat) (k : CadSet) : Nat × State :=
  let ms := (List.range k.m).filter fun m => due (control s d k m) (k.t + 1)
  let s := (List.range k.m).foldl (fun t m => memberSeen t d k m 384 9) s
  let k := { k with isOpen := true, due := ms }
  (ms.length, if ms.isEmpty then closeSweep s d id k else putSet s.takeFree d id k)

/-! ### The instructions (R278 to R284) -/

/-- Trap CADENCE with a status and a member (R278). -/
def cadTrap (st m : Nat) : Stop := .trap .cadence (BitVec.ofNat 64 (st + m % 2 ^ 32 * 2 ^ 32))

/-- The set that CDSEL names, of the context's partition: NOSET (R278). -/
def mySet (s : State) : Except Stop CadSet :=
  match setOf s (coreDie s.cur) s.me.cdSel.toNat with
  | some k => if k.part = s.partition s.cur then .ok k else .error (cadTrap 0x40 0)
  | none => .error (cadTrap 0x40 0)

/-- A member of the set that CDSEL names: NOSET, MEMBER (R278). -/
def myMember (s : State) (m : Nat) : Except Stop CadSet := do
  let k ← mySet s
  if k.m ≤ m then .error (cadTrap 0x41 m) else .ok k

/-- The definition that a CDDEF block holds; none where it is malformed (R279). -/
def readCadence (b : List Byte) (part : Nat) : Option (CadSet × Nat) :=
  let x := field b 13 1
  let lo := f32.unpack false (field b 16 4)
  let hi := f32.unpack false (field b 20 4)
  if field b 0 8 % 512 ≠ 0 ∨ 65536 < field b 8 4 ∨ 32 ≤ field b 12 1 ∨ 128 ≤ x ∨ x % 8 < x / 8 % 8 ∨ !zeroBytes b 14 16
      ∨ !zeroBytes b 24 64 ∨ lo.isNan ∨ lo.lt (.num false 0 0) ∨ hi.isNan ∨ hi.lt lo then none
  else some ({ part := part, base := field b 0 8, m := field b 8 4, w := field b 12 1 + 1, cmax := x % 8,
               extrap := x / 64 == 1, lo := BitVec.ofNat 32 (field b 16 4), hi := BitVec.ofNat 32 (field b 20 4) }, x / 8 % 8)

/-- Undefine a set: its pages are unpinned (R279). -/
def undefine (s : State) (d id : Nat) : State :=
  match setOf s d id with
  | none => s
  | some k => s.updDie d fun x => { k.pinned.foldl (fun (y : Die) i => y.unpin i) x with sets := x.sets.erase id }

/-- Translate the pages of a range with write permission, and collect their last-level entries. -/
def pinRange (s : State) (a : Access) : List Nat → Except AccErr (List Nat × State)
  | [] => .ok ([], s)
  | va :: rest => do
    let (_, s) ← s.physOf a va true
    let (is, s) ← pinRange s a rest
    match s.findEntry (coreDie a.core) a.part va with
    | some p => .ok (if is.contains p.1 then is else p.1 :: is, s)
    | none => .ok (is, s)

/-- The 64 KiB steps of the members' range. -/
def memberSteps (k : CadSet) : List Nat :=
  let lo := k.base / 65536
  (List.range ((k.base + 512 * k.m + 65535) / 65536 - lo)).map fun j => Nat.max k.base ((lo + j) * 65536)

/-- Set each member as CDDEF leaves it: PREV ← LAST, SLAST ← SPREV ← 0, C ← C0, PIN ← PC ← 0 (R279). Poison ends it with its
copy status. -/
def initMembers (s : State) (a : Access) (k : CadSet) (c0 : Nat) : Nat → Except AccErr (Bool × State)
  | 0 => .ok (false, s)
  | n + 1 => do
    let (bad, s) ← initMembers s a k c0 n
    let va := k.base + 512 * n
    let (last, p, s) ← s.readVirt a va 128
    let (p2, s) ← s.writeVirt a (va + 128) last
    let (p3, s) ← s.writeVirt a (va + 384) (leBytes 8 0 ++ leBytes 1 c0)
    .ok (bad || p || p2 || p3, s)

/-- What CDDEF's reads of a set's members leave where it ends with a status (R288): which of them it had read by then is not stated, and the
model has it read them all (DESIGN CHOICE, log 74). -/
def State.metMembers (s : State) (a : Access) (k : CadSet) : State :=
  (List.range k.m).foldl (fun t n => (t.metRead a (k.base + 512 * n) 128).metRead a (k.base + 512 * n + 384) 9) s

/-- Pin a set's pages and set its members (R279, R292): the set, or the copy status that ends CDDEF. -/
def defineSet (s : State) (a : Access) (k : CadSet) (c0 : Nat) : Except AccErr (Except Nat CadSet × State) := do
  let d := coreDie a.core
  let (is, t) ← pinRange s a (memberSteps k)
  let pinned := t.updDie d fun x => is.foldl (fun (y : Die) i => y.pin i) x
  if 8192 < (pinned.die d).pins.entries.length then .ok (.error 0x11, s)
  else match initMembers pinned a k c0 k.m with
    | .ok (false, u) => .ok (.ok { k with pinned := is }, u)
    | .ok (true, _) => .ok (.error 4, s.metMembers a k)
    | .error (.miss r) => .error (.miss r)
    | .error e => .ok (.error e.status, s.metMembers a k)

/-- CDDEF (R279). -/
def execCddef (d a : Fld) (k : BitVec 3) (s : State) : Out :=
  let ga := s.me.rg a.toNat
  let die := coreDie s.cur
  let id := k.toNat
  let part := s.partition s.cur
  let ends : State → Nat → State := fun t st => (t.updMe (·.wg d.toNat (BitVec.ofNat 64 (2 ^ 63 + st)))).advance 8
  let done : State → State := fun t => (t.updMe fun x => { x.wg d.toNat 0#64 with cdSel := k }).advance 8
  .next (match (do blockCheck ga 64; s.here.readRanges s.slot [(ga.toNat, 64)] : Except Stop Core) with
  | .error e => s.stop e
  | .ok c =>
    let t := s.setCore s.cur c
    match readCadence (c.sp.mem.readBytes ga.toNat 64) part with
    | none => s.stop (cadTrap 0x47 0)
    | some (x, c0) =>
      if (setOf s die id).any fun o => o.isOpen || o.part != part then s.stop (cadTrap 0x46 0)
      else
        let t := undefine t die id
        if x.m = 0 then done t
        else match s.me.declared with
          | some st => ends t st
          | none =>
            let acc : Access := { core := s.cur, rope := false, l1 := true, part := part, cad := true }
            match defineSet t acc x c0 with
            | .ok (.ok y, u) => done (putSet u die id y)
            | .ok (.error st, u) => ends u st
            | .error (.miss r) => holdFor t (.cddef d a k) (some r)
            | .error e => ends t e.status)

/-- CDSWEEP (R280): the return that opens a sweep, or that has waited for it, acquires the close before (R276). -/
def execCdsweep (d a : Fld) (s : State) : Out :=
  let die := coreDie s.cur
  let id := s.me.cdSel.toNat
  let t := (s.me.rg a.toNat).toNat
  let put : State → Nat → State := fun u v => (u.updMe (·.wg d.toNat (BitVec.ofNat 64 v))).advance 8
  .next (match mySet s with
  | .error e => s.stop e
  | .ok k =>
    if 2 ^ 32 ≤ t then s.stop (cadTrap 0x45 0)
    else if t ≤ k.t then put (if s.me.held.isSome then s.updHere (·.acquire s.slot k.rel) else s) (2 ^ 32)
    else if t = k.t + 1 then
      let u := s.updHere (·.acquire s.slot k.rel)
      if k.isOpen then put (if s.me.held.isSome then u else s) k.due.length
      else let r := openSweep u die id k
           put r.2 r.1
    else if t = k.t + 2 ∧ k.isOpen then holdFor s (.cdsweep d a) none
    else s.stop (cadTrap 0x45 0))

/-- The node that a member is handed out to: that of the core's run, or the core itself where it runs none. -/
def holder (s : State) : Nat × Nat := (s.here.run.map fun r => (r.launch, r.node)).getD (0, 2 ^ 32 + s.cur)

/-- CDNEXT (R281). -/
def execCdnext (d : Fld) (s : State) : Out :=
  let die := coreDie s.cur
  let put : State → Nat → State := fun u v => (u.updMe (·.wg d.toNat (BitVec.ofNat 64 v))).advance 8
  .next (if s.inTaste then s.stop .void
    else match mySet s with
    | .error e => s.stop e
    | .ok k => match if k.isOpen then k.due.find? fun m => !k.handed.has m else none with
      | some m => put (putSet s die s.me.cdSel.toNat { k with handed := k.handed.set m (holder s) }) m
      | none => put s 0x10000)

/-- The checks of CDPOST, in order (R282). -/
def postCheck (s : State) (m : Nat) : Except Stop CadSet := do
  let k ← myMember s m
  if !k.isOpen then .error (cadTrap 0x42 m)
  else if !k.due.contains m then .error (cadTrap 0x43 m)
  else if k.posted.contains m then .error (cadTrap 0x44 m)
  else .ok k

/-- CDPOST (R282): a release; the last post closes the sweep. -/
def execCdpost (a b : Fld) (s : State) : Out :=
  let die := coreDie s.cur
  let id := s.me.cdSel.toNat
  let m := (s.me.rg b.toNat).toNat
  .next (if s.inTaste then s.stop .void
    else match (do let k ← postCheck s m; let v ← s.here.readVec s.slot .a false a; .ok (k, v) : Except Stop (CadSet × VReg × Core)) with
    | .error e => s.stop e
    | .ok (k, v, c) =>
      let post := (List.range 32).flatMap fun e => leBytes 4 (if e < k.w then elem 32 v e else 0)
      let t := memberWrite (s.setCore s.cur (c.release s.slot)) die k m 256 post
      let rel := (t.here.sp.relRow s.slot).export s.cur
      let k := { k with posted := k.posted ++ [m], posts := Row.join k.posts rel, handed := if k.handed.has m then k.handed else k.handed.set m (holder s) }
      (if k.posted.length = k.due.length then closeSweep t die id k else putSet t die id k).advance 8)

/-- The value of element e of a member by CDREAD (R277). -/
def cadElem (last prev : List Byte) (x : Control) (t : Nat) (e : Nat) : Nat :=
  let l := f32.unpack false (field last (4 * e) 4)
  let p := f32.unpack false (field prev (4 * e) 4)
  let step := (Val.mul (Val.add .rne l p.neg).1 (.num false (t - x.slast) (-(Nat.log2 (x.slast - x.sprev) : Int)))).1
  (f32.pack .rne false false (Val.add .rne l step).1).1

/-- The value that CDREAD returns (R277): LAST, or the exact extrapolation rounded once. -/
def cadValue (s : State) (d : Nat) (k : CadSet) (n : Nat) : VReg :=
  let last := memberBytes s d k n 0 128
  let prev := memberBytes s d k n 128 128
  let x := control s d k n
  let t := if k.isOpen then k.t + 1 else k.t
  let ext := k.extrap && !(k.isOpen && k.due.contains n) && x.sprev < x.slast && x.slast < t
  ofElems 32 ((List.range 32).map fun e =>
    if k.w ≤ e then 0 else if ext then cadElem last prev x t e else field last (4 * e) 4)

/-- CDREAD (R283); poison of the member's sectors goes with the elements it gives (R130). -/
def execCdread (d a : Fld) (s : State) : Out :=
  let die := coreDie s.cur
  let n := (s.me.rg a.toNat).toNat
  .next (match myMember s n with
  | .error e => s.stop e
  | .ok k =>
    let v := cadValue s die k n
    let ph := s.me.phys d.toNat
    let bad := (List.range k.w).filter fun e => memberPoison s die k n (4 * e) 4 || (k.extrap && memberPoison s die k n (128 + 4 * e) 4)
    let t := s.updHere fun c => (c.wv s.slot d.toNat v).updUn fun u => { u with poisonV := u.poisonV ++ bad.map fun e => ph * 32 + e }
    let t := (memberSeen t die k n 384 9).takeFree
    ((List.range (if k.extrap then 2 else 1)).foldl (fun t j => memberSeen t die k n (128 * j) 128) t).advance 8)

/-- CDPIN (R284): an IDLE set applies the word at once, an OPEN one at its close. -/
def execCdpin (a b : Fld) (s : State) : Out :=
  let die := coreDie s.cur
  let m := (s.me.rg a.toNat).toNat
  let w := s.me.rg b.toNat
  .next (match myMember s m with
  | .error e => s.stop e
  | .ok k =>
    if 16 ≤ w.toNat ∨ k.cmax < w.toNat % 8 ∨ (w.toNat % 8 ≠ 0 ∧ w.toNat < 8) then s.stop (cadTrap 0x47 m)
    else if k.isOpen then (putSet s die s.me.cdSel.toNat { k with pins := k.pins.set m w }).advance 8
    else (applyPin s die k m w.toNat).advance 8)

end Sys2Proof.Machine
end

