-- ==== Sys2Proof/Machine/Reliab.lean ====
section
/-!
DEFINITION. RELIAB (R312 to R317), scans (R307, R308), the decay of scores (R305), and the map changes that carry quarantine out
(R208, R297, R309, R311).
-/
namespace Sys2Proof.Machine
open State

/-! ### Instructions (R312 to R317) -/

/-- The core of the own cluster that a register names, or ILLEGAL with the register (R312). -/
def clusterCore (s : State) (w : Word) (f : CoreId → State) : State :=
  if 9 < w.toNat then s.takeTrap .illegal w else f (coreOf (coreCluster s.cur) w.toNat)

/-- SEAL (R313): a core that runs a node is killed first, with the cause SEAL. -/
def execSealCore (a : Fld) (s : State) : Out :=
  let w := s.me.rg a.toNat
  .next (clusterCore s w fun c =>
    if c = s.cur then s.takeTrap .illegal w
    else
      let t := s.advance 8
      if (s.core c).li.isSealed then t else if (s.core c).run.isSome then t.killCore c 1 0 else t.sealLinks c false)

/-- ERRSEND (R314). -/
def execErrsend (a b : Fld) (s : State) : Out :=
  let w := s.me.rg a.toNat
  let v := s.me.rg b.toNat
  .next (match if w.toNat < 8 then s.logicalCore (coreCluster s.cur) w.toNat else none with
  | none => s.takeTrap .illegal w
  | some c => if 2 ≤ v.toNat then s.takeTrap .illegal v else (s.appendErr c v.toNat false).advance 8)

/-- SCANRUN (R307, R315): it holds its context until the scan ends; a core whose engines have not come to rest is waited for. -/
def execScanrun (d a : Fld) (s : State) : Out :=
  let w := s.me.rg a.toNat
  .next (clusterCore s w fun c =>
    let x := s.die (coreDie c)
    if c = s.cur ∨ (s.core c).run.isSome ∨ claimed s c ∨ (s.scoreOf c).quar ∨ x.scans.has (c % 640) then
      (s.updMe (·.wg d.toNat 3#64)).advance 8
    else
      let t := s.updMe fun y => { y with held := some (.scanrun d a), heldOn := none }
      if quiet (s.core c) then t.updDie (coreDie c) fun x => { x with scans := x.scans.set (c % 640) (s.cur, s.slot) } else t)

/-- QUAR (R316). -/
def execQuar (a b : Fld) (s : State) : Out :=
  let v := s.me.rg b.toNat
  .next (clusterCore s (s.me.rg a.toNat) fun c =>
    if 3 ≤ v.toNat then s.takeTrap .illegal v
    else
      let o := s.scoreOf c
      let t := s.advance 8
      if o.quar then t
      else if v = 0#64 then t.quarantine c
      else t.setScore c { o with watch := v == 1#64 })

/-- The KIND of a core (R317); of one that its cluster's map gives no place a free value. -/
def coreKind (s : State) (c : CoreId) : Nat :=
  let q := s.cluster (coreCluster c)
  if (s.logicalNo c).isSome then 0
  else if q.reserve = some (corePhys c) then 1
  else if q.service = some (corePhys c) then 2
  else (if Config.freeBit s.free then 1 else 0) + (if Config.freeBit (s.free + 1) then 2 else 0)

/-- The status word of a core (R317). -/
def statusWord (s : State) (c : CoreId) : Nat :=
  let o := s.scoreOf c
  ((s.logicalNo c).getD 0xF) * 2 ^ 20 + coreKind s c * 2 ^ 18 + (if o.quar then 2 ^ 17 else 0) + (if o.watch then 2 ^ 16 else 0)
  + o.score

/-- Write a core's status word to a register. -/
def putStatus (s : State) (d : Fld) (c : CoreId) : State :=
  ({ s with free := s.free + 2 }.updMe (·.wg d.toNat (BitVec.ofNat 64 (statusWord s c)))).advance 8

/-- SUSPR (R317). -/
def execSuspr (d a : Fld) (s : State) : Out := .next (clusterCore s (s.me.rg a.toNat) fun c => putStatus s d c)

/-- SUSPR.w (R317): the score is written first, and R306 applies. -/
def execSusprW (d a b : Fld) (s : State) : Out :=
  let v := s.me.rg b.toNat
  .next (clusterCore s (s.me.rg a.toNat) fun c =>
    if 2 ^ 16 ≤ v.toNat then s.takeTrap .illegal v else putStatus (s.putScore c v.toNat) d c)

/-! ### Scans (R306 to R308, R315) -/

/-- A scan leaves a core's scratchpad, vector file, accumulators and latches cleared (R307). -/
def scanClear (c : Core) : Core :=
  { c with un := { c.un with vfile := {}, accs := {}, latchA := none, latchB := none, latchC := none, mla := {}, poisonV := [], poisonA := [] },
           sp := { c.sp with mem := [], poison := [] } }

/-- R306 on a scan's outcome. -/
def scanOutcome (s : State) (c : CoreId) (passed : Bool) : State :=
  if passed then s.setScore c { s.scoreOf c with score := 256, watch := false } else s.quarantine c

/-- The core that the SCANRUN which holds a context of a service core names. -/
def scanNames (i : CoreId) (y : Ctx) : Option CoreId :=
  match y.held with
  | some (.scanrun _ a) => if (y.rg a.toNat).toNat ≤ 9 then some (coreOf (coreCluster i) (y.rg a.toNat).toNat) else none
  | _ => none

/-- A scan ends: the core is cleared and returns to dispatch, and the SCANRUN of it that waits gets its result; one that its watchdog
has ended gets none (R71, R315). -/
def endScan (s : State) (c : CoreId) (result : Nat) : State :=
  match (s.die (coreDie c)).scans.get? (c % 640) with
  | none => s
  | some (i, k) =>
    let t := (s.updDie (coreDie c) fun x => { x with scans := x.scans.erase (c % 640) }).updCore c scanClear
    t.updCore i fun x => x.updCtx k fun y => match y.held with
      | some (.scanrun d _) =>
        if scanNames i y = some c then { y.wg d.toNat (BitVec.ofNat 64 result) with pc := y.pc + 8#64, held := none } else y
      | _ => y

/-- SCAN_COMPLETE (R307, R315). -/
def execScanComplete (core : Nat) (passed : Bool) (s : State) : Out :=
  .next (if (s.die (coreDie core)).scans.has (core % 640) then
      endScan (scanOutcome s core passed) core (if passed then 0 else 1)
    else s)

/-- The role of a core by its cluster's table, 0 for one that no node goes to. -/
def roleOf (s : State) (c : CoreId) : Nat := ((s.logicalNo c).elim 0#32 (s.roleEntry (coreCluster c))).toNat / 2 ^ 30

/-- SCAN_ABORT: a READY node of priority 6 or 7 of the core's role finds no other idle core of that role on the die (R307). -/
def execScanAbort (core : Nat) (s : State) : Out :=
  let d := coreDie core
  let wants := [6, 7].any fun p => ((s.die d).levels.get p []).any fun e =>
    e.kind == .original && (s.node d e.launch e.node).saved.isNone
    && (s.node d e.launch e.node).d.role == roleOf s core && (idleCores s d (roleOf s core) fun _ => false).isEmpty
  .next (if (s.die d).scans.has (core % 640) && wants then endScan s core 2 else s)

/-- SCC_SERVICE_SCAN: with no launch RUNNING, the SCC scans a service core that is watched (R308). -/
def execSccServiceScan (cluster : Nat) (passed : Bool) (s : State) : Out :=
  .next (match (s.cluster cluster).service with
  | none => s
  | some p =>
    let c := coreOf cluster p
    if (s.scoreOf c).watch ∧ !(s.scoreOf c).quar ∧ (runningLaunches s).isEmpty then
      scanOutcome (s.updCore c scanClear) c passed
    else s)

/-- SCORE_DECAY: at every 2^20th completion every non-zero score of the die falls by 1, and R306's thresholds apply (R305, R306). -/
def execScoreDecay (die : Nat) (s : State) : Out :=
  .next (if (s.die die).completions < 2 ^ 20 then s
    else
      let t := s.updDie die fun x => { x with completions := x.completions - 2 ^ 20 }
      ((s.die die).scores.entries.filter fun e => e.2.score != 0).foldl (fun t e => t.putScore (die * 640 + e.1) (e.2.score - 1)) t)

/-- The factory tests clear a quarantine record, in MANUFACTURE only (R310, R360). -/
def clearQuar (s : State) (c : CoreId) : State :=
  if s.mod.sec = .manufacture then s.setScore c { s.scoreOf c with quar := false } else s

/-! ### Map changes (R208, R297, R309, R311) -/

/-- A cluster's map without its quarantined cores: the service core first takes the reserve's place, then a logical core does, and
what is left over takes the numbers from 0 in physical order. -/
def newMap (c : Cluster) (quar : Nat → Bool) : Cluster :=
  let spare := c.reserve.filter fun r => !quar r
  let lost := c.service.any quar || c.service.isNone
  let service := if lost then spare else c.service
  let spare := if lost then none else spare
  if service.isNone then { c with logical := [], reserve := none, service := none }
  else
    let bad := c.logical.filter quar
    match bad, spare with
    | [], r => { c with reserve := r, service := service }
    | b :: rest, some r =>
      let l := c.logical.map fun p => if p = b then r else p
      { c with logical := if rest.isEmpty then l else (l.filter fun p => !quar p).mergeSort (· ≤ ·), reserve := none, service := service }
    | _, none => { c with logical := (c.logical.filter fun p => !quar p).mergeSort (· ≤ ·), reserve := none, service := service }

/-- Carry the quarantines out in every cluster. -/
def remap (s : State) : State :=
  { s with clusters := (List.range 512).foldl (fun t q =>
      let c := t.get q {}
      let n := newMap c fun p => (s.scoreOf (coreOf q p)).quar
      if n = c then t else t.set q n) s.clusters }

/-- The dies of the mask that keep at least 448 logical cores (R311). -/
def maskNow (s : State) : BitVec 8 :=
  (List.range 8).foldl (fun m d => if s.mod.live.getLsbD d && !(s.die d).failed && 448 ≤ s.dieCores d then m ||| (1#8 <<< d) else m) 0#8

/-- A service core starts: its control context runs its firmware, with the control window of R67 (R66, R67, R208, R348; log 70). -/
def serviceStart (c : Core) : Core :=
  { c with code := Mem.writeBytes [] 0 Config.serviceImage, codeLen := Config.serviceImage.length,
           bar := { c.bar with ctxs := Tab.set {} 0 { live := true, winV := true, winSize := 3#2 } } }

/-- The service cores of the clusters that `q` names start (R208, R348). -/
def startServices (s : State) (q : Nat → Bool) : State :=
  ((List.range 512).filter q).foldl (fun t k => (t.cluster k).service.elim t fun p => t.updCore (coreOf k p) serviceStart) s

/-- Each cluster keeps map g while what is stamped g drains, where the map changes its logical numbers (R297 step 3). -/
def keepMaps (s t : State) : State :=
  { t with clusters := (List.range 512).foldl (fun x q =>
      let c := x.get q {}
      if c.logical = (s.cluster q).logical then x else x.set q { c with before := some (s.cluster q).logical }) t.clusters }

/-- MAP_CHANGE_INSTALL: with no launch RUNNING, the pending change is installed as map g + 1; a core that becomes a service
core starts (R208, R297 steps 1 to 3). DESIGN CHOICE: a quarantined service core that the reserve has replaced runs on, its contexts live, at
level U; R208 and R309 do not say that it stops (log 73). -/
def execMapChangeInstall (s : State) : Out :=
  .next (if !s.mod.map.pending ∨ s.mod.map.draining.isSome ∨ !(runningLaunches s).isEmpty then s
    else
      let t := keepMaps s (remap s)
      let t := startServices t fun q => (t.cluster q).service != (s.cluster q).service
      let t := t.updMod fun m => { m with live := maskNow t, gen := m.gen + 1#16,
                                          map := { pending := false, draining := some m.gen, drainFrom := m.clock } }
      t.noteHealth)

/-- Whether an item stamped with a generation remains in a core. -/
def Core.holdsGen (c : Core) (g : BitVec 16) : Bool :=
  c.li.replies.any (fun r => r.gen == g) || (c.en.copyQ ++ c.en.flight).any (fun e => e.gen == g)
  || (c.li.amIn ++ c.li.mailbox ++ c.li.handling.toList).any fun m => m.gen == g

/-- Whether an item stamped with a generation remains in the module (R297 step 4). -/
def genRemains (s : State) (g : BitVec 16) : Bool :=
  s.cores.entries.any (fun c => c.2.holdsGen g)
  || s.dies.entries.any fun d => d.2.parts.entries.any fun p => p.2.arrivals.any fun a => a.2.2.1 == g

/-- MAP_DRAIN_COMPLETE: nothing stamped g remains and 2^20 cycles have passed (R297 step 4). -/
def execMapDrainComplete (s : State) : Out :=
  .next (match s.mod.map.draining with
  | none => s
  | some g =>
    if s.mod.map.drainFrom + 2 ^ 20 ≤ s.mod.clock ∧ !genRemains s g then
      { s with clusters := s.clusters.mapVals fun _ c => { c with before := none } }.updMod fun m => { m with map := { m.map with draining := none } }
    else s)

end Sys2Proof.Machine
end

