-- ==== Sys2Proof/Machine/Debug.lean ====
section
/-!
DEFINITION. The debug instructions (R363) and the end of a debug level (R362).
-/
namespace Sys2Proof.Machine
open State

/-- The core and slot that a target word names: not the service core itself (R363). -/
def debugTarget (s : State) (w : Word) : Option (CoreId × Nat) :=
  let c := w.toNat % 16
  let k := w.toNat / 16 % 16
  if w.toNat < 256 ∧ c < 10 ∧ k < 12 ∧ c ≠ corePhys s.cur then some (coreOf (coreCluster s.cur) c, k) else none

/-- What a selector names (R363). -/
inductive Selected where
  | g (n : Nat)
  | p (n : Nat)
  | k (n : Nat)
  | sys (num : Nat)
  | pc
  deriving DecidableEq, Repr

/-- Read a selector: class in [13:12], index in [11:0] (R363). -/
def selector (w : Word) : Option Selected :=
  let i := w.toNat % 4096
  if 2 ^ 14 ≤ w.toNat then none
  else match w.toNat / 4096 with
    | 0 => if i < 32 then some (.g i) else none
    | 1 => if i < 8 then some (.p i) else none
    | 2 => if i < 8 then some (.k i) else none
    | _ => if i = 0xFFF then some .pc else if sysListed (BitVec.ofNat 12 i) then some (.sys i) else none

/-- The value of a selected register of a context. -/
def selectedValue (s : State) (i : CoreId) (k : Nat) : Selected → Word
  | .g n => (s.core i).rg k n
  | .p n => if ((s.core i).ctx k).rp n then 1#64 else 0#64
  | .k n => (((s.core i).ctx k).rk n).setWidth 64
  | .sys num => sysRead s i k num
  | .pc => ((s.core i).ctx k).pc

/-- Write a selected register of a context; none where the value is refused. A context whose PC is written leaves the instruction that it
waits in or that holds it, so that DRUN resumes it at the PC (R363). -/
def writeSelected (s : State) (i : CoreId) (k : Nat) (v : Word) : Selected → Option State
  | .g n => some (s.updCore i fun c => c.updCtx k (·.wg n v))
  | .p n => some (s.updCore i fun c => c.updCtx k (·.wp n (v.getLsbD 0)))
  | .k n => some (s.updCore i fun c => c.updCtx k (·.wk n (v.setWidth 32)))
  | .sys num => match sysWrite (s.core i) k num true v with
    | .ok c => some (s.setCore i c)
    | _ => none
  | .pc => if v.toNat % 4 ≠ 0 then none
    else some (s.updCore i fun c => c.updCtx k fun x =>
      { x with pc := v, wait := none, held := none, heldOn := none, declared := none })

/-- A target that the instruction names, or ILLEGAL with the target word. -/
def onTarget (s : State) (w : Word) (f : CoreId → Nat → State) : State :=
  match debugTarget s w with
  | none => s.takeTrap .illegal w
  | some (i, k) => f i k

/-- DHALT (R363). -/
def execDhalt (a : Fld) (s : State) : Out :=
  .next (onTarget s (s.me.rg a.toNat) fun i k =>
    (s.updCore i fun c => if (c.ctx k).live then c.updCtx k fun x => { x with dbgHalt := true } else c).advance 8)

/-- DRUN (R363). -/
def execDrun (a : Fld) (s : State) : Out :=
  .next (onTarget s (s.me.rg a.toNat) fun i k =>
    (s.updCore i fun c => if (c.ctx k).dbgHalt then c.updCtx k fun x => { x with dbgHalt := false } else c).advance 8)

/-- A halted target and a selector: ILLEGAL for a wrong target, then a wrong selector, then a target that is not halted (R363). -/
def onHalted (s : State) (a b : Word) (f : CoreId → Nat → Selected → State) : State :=
  onTarget s a fun i k => match selector b with
    | none => s.takeTrap .illegal b
    | some x => if ((s.core i).ctx k).dbgHalt then f i k x else s.takeTrap .illegal a

/-- DRDR (R363). -/
def execDrdr (d a b : Fld) (s : State) : Out :=
  .next (onHalted s (s.me.rg a.toNat) (s.me.rg b.toNat) fun i k x =>
    (s.updMe (·.wg d.toNat (selectedValue s i k x))).advance 8)

/-- DWRR (R363). -/
def execDwrr (a b c : Fld) (s : State) : Out :=
  let v := s.me.rg c.toNat
  .next (onHalted s (s.me.rg a.toNat) (s.me.rg b.toNat) fun i k x =>
    match writeSelected s i k v x with
    | some t => t.advance 8
    | none => s.takeTrap .illegal v)

/-- The debug level returns to none: every context that debug halted resumes (R361, R362). -/
def endDebug (s : State) : State :=
  { s with cores := s.cores.mapVals fun _ c => c.updBar fun b =>
             { b with ctxs := b.ctxs.mapVals fun _ x => { x with dbgHalt := false } },
           mod := { s.mod with dbg := .none } }

end Sys2Proof.Machine
end

