-- ==== Sys2Proof/Machine/Refill.lean ====
section
/-!
DEFINITION. Waits and held instructions that end (R70, R71, R197), refill-or-fault requests and their answers (R293), the host's
memory aperture (R346), the harvest timer (R295) and the scrub (R290).
-/
namespace Sys2Proof.Machine
open State

/-- What follows from an outcome that is a next state. -/
def nextOf (o : Out) (s : State) : State :=
  match o with
  | .next t => t
  | _ => s

/-! ### The watchdog (R71) -/

/-- Whether a context's watchdog has expired: WDCNT has reached a WDLIM other than 0, and the context is neither blocked, nor
halted by debug, nor ending its node. -/
def wdogDue (c : Core) (k : Nat) : Bool :=
  let x := c.ctx k
  k < 12 && x.live && x.wait.isNone && !x.dbgHalt && !(c.ending && x.held.isSome) && c.bar.wdlim != 0#64 && c.bar.wdlim.toNat ≤ x.wdcnt.toNat

/-- WDOG_EXPIRY: the context traps WDOG with EVAL = WDCNT before its next issue, or in place of an instruction that holds it (R71,
R236, R285). -/
def execWdogExpiry (core slot : Nat) (s : State) : Out :=
  .next (if wdogDue (s.core core) slot then onSlot s core slot fun t => t.takeTrap .wdog t.me.wdcnt else s)

/-! ### Waits (R70) -/

/-- Whether the condition that ends a wait holds, for the context whose turn it is (R70, R226). -/
def waitOver (s : State) : Wait → Bool
  | .chanRead ch n => n ≤ (s.inWords ch).length || s.inDead ch
  | .chanWrite out => match s.outDest s.cur out with
    | none => true
    | some (j, _) => (s.core j).li.killed || (s.core j).li.isSealed || s.here.li.credit.get out 0 != 0
  | .handleFull h n => (s.here.handle? h).all fun x => x.n < n || x.fullFrom n
  | .handleEmpty h n => (s.here.handle? h).all fun x => x.n < n || x.freeFrom n
  | .joinZero n => s.here.bar.jcnt.get n 0 == 0
  | .slotFree n => !(s.here.ctx n).live
  | .met _ => true
  | .event => !s.here.en.events.isEmpty

/-- CONTEXT_WAIT_END: the context is runnable again, and its instruction continues: one whose wait's condition has held returns, and
acquires what it waited for, whatever holds now; a channel access issues again (R23, R70, R104, R106, R119). A context that debug has
halted does not go on (R363). -/
def execContextWaitEnd (core slot : Nat) (s : State) : Out :=
  .next (onSlot s core slot fun t => match t.me.wait with
    | none => t
    | some w =>
      if t.me.dbgHalt ∨ !waitOver t w then t
      else match w with
        | .met r => (t.updHere (·.acquire t.slot r)).advance 8
        | _ => t.updMe fun x => { x with wait := none })

/-! ### Held instructions (R197) -/

/-- The trap of a rope operation for which the service core has declared a status (R199, R293). -/
def declaredRope (s : State) (st : Nat) : State :=
  if st = 0x13 then s.takeTrap .quota (BitVec.ofNat 64 (s.partition s.cur)) else s.stop (ropeTrap stFault)

/-- An instruction that holds the context whose turn it is carries on; it holds it again where it cannot complete yet. -/
def carryOn (s : State) (i : Instr) : State :=
  match i with
  | .nend => finishEnd s s.cur
  | .cewait d a => nextOf (execCewait d a s) s
  | .clwait d a => nextOf (execClwait d a s) s
  | .nspawn d a => nextOf (execNspawn d a s) s
  | .ndepAdd d a => nextOf (execNdepAdd d a s) s
  | .ndepSub d a => nextOf (execNdepSub d a s) s
  | .nprio d a b => nextOf (execNprio d a b s) s
  | .nqry d a sel => nextOf (execNqry d a sel s) s
  | .cddef d a k => nextOf (execCddef d a k s) s
  | .cdsweep d a => nextOf (execCdsweep d a s) s
  | .scanrun d a => nextOf (execScanrun d a s) s
  | .tlbinv d a b m => nextOf (execTlbinv d a b m s) s
  | i => if isRopeOp i then (match s.me.declared with
      | some st => declaredRope s st
      | none => ropeRun s i (ropeBody i)) else s

/-- Whether the SCANRUN that holds a context has begun its scan. -/
def scanning (s : State) (core slot : Nat) : Bool :=
  (s.die (coreDie core)).scans.entries.any fun e =>
    e.2 == (core, slot) && (scanNames core ((s.core core).ctx slot)).any fun c => c % 640 == e.1

/-- An instruction of a killed helper has completed: its context goes (R104). -/
def dropOrphan (s : State) : State :=
  if 12 ≤ s.slot ∧ s.me.held.isNone then s.updHere (·.updBar fun b => { b with ctxs := b.ctxs.erase s.slot }) else s

/-- HELD_INSTRUCTION_COMPLETE: what holds a context completes if it can (R197, R236, R265, R267, R278, R294, R312). -/
def execHeldInstructionComplete (core slot : Nat) (s : State) : Out :=
  .next (onSlot s core slot fun t => match t.me.held with
    | none => t
    | some i =>
      if !t.me.live ∨ t.me.heldOn.isSome ∨ t.me.dbgHalt ∨ (scanning t core slot && (match i with
          | .scanrun .. => true
          | _ => false)) then t
      else dropOrphan (carryOn t i))

/-! ### Refill-or-fault requests (R293) -/

/-- Whether something waits for the answer to a request. -/
def waitsOn (s : State) (r : XReq) : Bool :=
  (s.cores.entries.any fun c =>
    (c.2.en.flight.any fun
      | .copy m => m.miss == some r
      | .coll m => m.miss == some r)
    || (c.2.en.editRun.any fun e => e.miss == some r)
    || c.2.bar.ctxs.entries.any fun x => x.2.heldOn == some r)
  || (s.dies.entries.any fun d => d.2.waits.contains r)
  || (s.mod.aperIn ++ s.mod.reportIn).any fun q => q.miss == some r

/-- TRANSLATION_REQUEST: an access that waits sends its request to the service core of its cluster (R293 step 2). -/
def execTranslationRequest (r : XReq) (s : State) : Out :=
  .next (if waitsOn s r ∧ !(s.cluster (coreCluster r.core)).xreqs.contains r then
      s.updCluster (coreCluster r.core) fun c => { c with xreqs := c.xreqs ++ [r] }
    else s)

/-- What waits for a request goes on: with the translation, or with a copy status that has been declared (R293). -/
def wake (s : State) (r : XReq) (st : Option Nat) : State :=
  let code := st.map (BitVec.ofNat 16)
  { s with
    cores := s.cores.mapVals fun _ c =>
      { c with
        en := { c.en with
          flight := c.en.flight.map (fun
            | .copy m => .copy (if m.miss = some r then { m with miss := none, status := m.status.or code } else m)
            | .coll m => .coll (if m.miss = some r then
                { m with miss := none, status := m.status.or code, owes := if st.isSome then none else m.owes } else m))
          editRun := c.en.editRun.map fun e => if e.miss = some r then
            { e with miss := none, fault := st.map fun x => if x = 0x13 then 0x18 else stFault } else e }
        bar := { c.bar with ctxs := c.bar.ctxs.mapVals fun _ x =>
          if x.heldOn = some r then { x with heldOn := none, declared := st } else x } }
    dies := s.dies.mapVals fun _ d =>
      if d.waits.contains r then { d with waits := d.waits.erase r, declared := (st.map fun x => (r, x)).toList ++ d.declared } else d
    mod := { s.mod with aperIn := s.mod.aperIn.map fun q => if q.miss = some r then { q with miss := none } else q
                        reportIn := s.mod.reportIn.map fun q => if q.miss = some r then { q with miss := none } else q } }

/-! ### The aperture (R346) -/

/-- The access of a host through a VF's aperture: by the lowest live die's first cluster. -/
def aperAccess (s : State) (vf : Nat) : Access :=
  { core := (liveDies s.mod.live).headD 0 * 640, rope := false, l1 := true, part := vf, host := true }

/-- A host access that faults: a write is dropped, a read completes with Unsupported Request; both are counted (R346). -/
def aperFault (s : State) (q : AperReq) : State :=
  s.updMod fun m => { m with apFaults := m.apFaults + 1,
                             aperOut := if q.bytes.isSome then m.aperOut else m.aperOut ++ [(q.vf, none)] }

/-- Perform the first host access that waits, if its translation is there. -/
def aperHead (s : State) : State :=
  match s.mod.aperIn with
  | [] => s
  | q :: rest =>
    let a := aperAccess s q.vf
    let gone : State → State := fun t => t.updMod fun m => { m with aperIn := rest }
    let err : State → AccErr → State := fun u => fun
      | .miss r => s.updMod fun m => { m with aperIn := { q with miss := some r } :: rest }
      | _ => aperFault (gone u) q
    if q.miss.isSome then s
    else match q.bytes with
      | some b => match s.writeVirt a q.va b with
        | .ok (stays, t) => if stays then aperFault (gone t) q else gone t
        | .error e => err (s.refusedWrite a q.va b.length e) e
      | none => match s.readVirt a q.va q.n with
        | .ok (b, bad, t) => if bad then aperFault (gone t) q else (gone t).updMod fun m => { m with aperOut := m.aperOut ++ [(q.vf, some b)] }
        | .error e => err (s.refusedRead a q.va q.n e) e

/-- Perform the host accesses that wait, in order, as far as their translations are there. -/
def aperRun (s : State) : State := (List.range s.mod.aperIn.length).foldl (fun t _ => aperHead t) s

/-- A status declared for the host access that waits for a request ends it (R346). -/
def aperDeclared (s : State) (r : XReq) : State :=
  match s.mod.aperIn with
  | q :: rest => if q.miss = some r then aperFault (s.updMod fun m => { m with aperIn := rest }) q else s
  | [] => s

/-- Whether a host access reaches the module, and lies in the window (R346, R364). -/
def aperOpen (s : State) (va n : Nat) : Bool := s.mod.phase == .ready && s.mod.power != .off && va + n ≤ 2 ^ 36

/-- APERTURE_WRITE (R346); in PARK and SLEEP discarded and counted (R364). -/
def execApertureWrite (vf va : Nat) (bytes : List Byte) (s : State) : Out :=
  .next (if hostCounts s then s.updMod fun m => { m with discarded := m.discarded + 1 }
    else if !aperOpen s va bytes.length then s
    else aperRun (s.updMod fun m => { m with aperIn := m.aperIn ++ [{ vf := vf, va := va, bytes := some bytes, n := bytes.length }] }))

/-- APERTURE_READ (R346); in PARK and SLEEP it returns all ones (R364). -/
def execApertureRead (vf va n : Nat) (s : State) : Out :=
  .next (if hostCounts s then s.updMod fun m => { m with aperOut := m.aperOut ++ [(vf, some (List.replicate n 0xFF#8))] }
    else if !aperOpen s va n then s
    else aperRun (s.updMod fun m => { m with aperIn := m.aperIn ++ [{ vf := vf, va := va, bytes := none, n := n }] }))

/-! ### Residency reports of a peer (R372) -/

/-- How a residency report reaches its REPORT address, a virtual one of this module: DESIGN CHOICE: by the lowest live die's TLB (log 76). -/
def reportAccess (s : State) (part : Nat) : Access :=
  { core := (liveDies s.mod.live).headD 0 * 640, rope := false, l1 := false, part := part }

/-- Perform the first part of a report that waits, if its translation is there; one that cannot be written is dropped (log 76). -/
def reportHead (s : State) : State :=
  match s.mod.reportIn with
  | [] => s
  | q :: rest =>
    let gone : State → State := fun t => t.updMod fun m => { m with reportIn := rest }
    if q.miss.isSome then s
    else
      let b := q.bytes.getD []
      match s.writeVirt (reportAccess s q.vf) q.va b with
      | .ok (_, t) => gone t
      | .error (.miss r) => s.updMod fun m => { m with reportIn := { q with miss := some r } :: rest }
      | .error e => gone (s.refusedWrite (reportAccess s q.vf) q.va b.length e)

/-- Perform the parts that wait, in order, as far as their translations are there (R366, R372). -/
def reportRun (s : State) : State := (List.range s.mod.reportIn.length).foldl (fun t _ => reportHead t) s

/-- A status declared for the request of a report drops what waits for it. -/
def reportDeclared (s : State) (r : XReq) : State := s.updMod fun m => { m with reportIn := m.reportIn.filter fun q => q.miss != some r }

/-! ### The resume from SLEEP (R364) -/

/-- The sweep engine translates pages with write permission: their last-level entries, or that it waits for a translation, or none where a
page no longer translates. A locked key domain undoes no translation. -/
def wakePages (s : State) (a : Access) : List Nat → Option (List Nat) × Bool × State
  | [] => (some [], false, s)
  | va :: rest => match s.translate a va true with
    | .ok (e, t) => if e.remote then (none, false, t) else match wakePages t a rest with
      | (some l, w, u) => (some (((u.findEntry (coreDie a.core) a.part va).map (·.1)).toList ++ l), w, u)
      | r => r
    | .error (.miss r) => match s.dieAwait (coreDie a.core) r with
      | (some _, t) => (none, false, t)
      | (none, t) => match wakePages t a rest with
        | (some _, _, u) => (some [], true, u)
        | r => r
    | .error _ => (none, false, s)

/-- A set's pages are translated again after SLEEP and its entries pinned; one that no longer translates, by the service core's declaration,
is undefined (R364). -/
def wakeSet (s : State) (e : Nat × Nat) : State :=
  let over_ : State → State := fun t => t.updMod fun m => { m with waking := m.waking.erase e }
  match setOf s e.1 e.2 with
  | none => over_ s
  | some k => match wakePages s (sweepAccess e.1 k.part) (memberSteps k) with
    | (none, _, t) => over_ (undefine t e.1 e.2)
    | (some _, true, t) => t
    | (some l, false, t) =>
      let is := l.eraseDups
      over_ (t.updDie e.1 fun x => { is.foldl (fun (y : Die) i => y.pin i) x with sets := x.sets.set e.2 { k with pinned := is } })

/-- The module is READY again (R364); an entry that the host has asked for while the resume was under way is under way now (log 56). -/
def resumed (s : State) : State :=
  s.updMod fun m => { m with wantRun := false, wantDown := none, power := match m.wantDown with
    | none => .run
    | some false => .parkPending
    | some true => .sleepPending }

/-- READY follows a resume once every cadence set has been translated again (R364). -/
def wakeRun (s : State) : State :=
  let t := s.mod.waking.foldl wakeSet s
  if !s.mod.waking.isEmpty && t.mod.waking.isEmpty then resumed t else t

/-! ### Answers (R293, R296) -/

/-- Zero a physical page, its sidecar lines and its error marks, under a key, 0 for none (R223, R287, R293, R359). -/
def zeroPage (m : Memory) (pa n key : Nat) : Memory :=
  let side := Memory.sidecarAt pa
  let inside : Nat → Bool := fun q => (pa ≤ q * 64 && q * 64 < pa + n) || (side ≤ q * 64 && q * 64 < side + n / 1024)
  let m := (m.stampKey (pa / 64) (n / 64) key).stampKey (side / 64) (n / 65536) key
  { m with hbm := (m.hbm.zeroRange pa n).zeroRange side (n / 1024),
           poison := m.poison.filter fun q => !inside q, badTag := m.badTag.filter fun q => !inside q,
           flips := m.flips.filter fun f => !inside f.1,
           stale := m.stale.filter fun x => !(pa ≤ x.pa && x.pa < pa + n) }

/-- Whether an answer's entry is one that TLBW accepts and that the request's access finds (R292, R319); a mapping onto a peer is
installed once the peer answers (R368). -/
def entryFits (s : State) (r : XReq) (e : TlbE) : Bool :=
  (tlbwBad e.w0 e.w1).isNone && e.hits r.part r.va && e.allows r.write && s.current e
  && !(e.remote && (s.mod.peers.get e.moda {}).unreachable)

/-- The service core installs an entry (R319). -/
def installFor (s : State) (r : XReq) (e : TlbE) : State := s.tlbWrite ((s.serviceOf r.core).getD r.core) 0 e

/-- The request leaves its service core's queue. -/
def popRequest (s : State) (r : XReq) : State :=
  s.updCluster (coreCluster r.core) fun c => { c with xreqs := c.xreqs.erase r }

/-- What waits for an answered request is tried again. -/
def resumeAll (s : State) (r : XReq) (st : Option Nat) : State :=
  let t := wake (if st.isSome then reportDeclared (aperDeclared s r) r else s) r st
  wakeRun (reportRun (aperRun (retryDescs t (coreDie r.core))))

/-- TRANSLATION_ANSWER: an entry that allows the access, a zeroed page within the quota, or a declared status (R293, R296). -/
def execTranslationAnswer (r : XReq) (ans : XAnswer) (s : State) : Out :=
  let size : TlbE → Nat := fun e => 2 ^ e.shift
  .next (if !(s.cluster (coreCluster r.core)).xreqs.contains r then s
    else match ans with
    | .install w0 w1 =>
      let e : TlbE := ⟨w0, w1⟩
      if entryFits s r e then
        resumeAll (installFor (popRequest s r) r e) r none
      else s
    | .allocate w0 w1 =>
      let e : TlbE := ⟨w0, w1⟩
      if !entryFits s r e || e.remote then s
      else match s.takePages r.part (size e / 65536) with
        | none => s
        | some t =>
          let pa := e.f1 0 25 * 2 ^ 16
          let t := (popRequest t r).updMem fun m => zeroPage m pa (size e) (m.keyOf r.part)
          resumeAll (installFor t r e) r none
    | .fault => resumeAll (popRequest s r) r (some 0x11)
    | .quota => resumeAll (popRequest s r) r (some 0x13)
    | .unreachable => resumeAll (popRequest s r) r (some 0x12))

/-! ### Harvest timer and scrub (R290, R295) -/

/-- HARVEST_TIMER_EXPIRY: a harvest pass over the die's dirty entries (R295). -/
def execHarvestTimerExpiry (die : Nat) (s : State) : Out :=
  .next (if (s.die die).timer ≤ s.mod.clock then
      (s.harvestAll die).updDie die fun x => { x with timer := s.mod.clock + 3990000 }
    else s)

/-- MEMORY_REFRESH: the scrub reads a populated sector, and its ECC finds what stands in it, which the event's operand reports (R286 to R288,
R290). -/
def execMemoryRefresh (sector : Nat) (o : EccResult) (s : State) : Out :=
  .next (if s.mod.power ≠ .run ∨ 96000000000 ≤ sector * 64 % 2 ^ 37 ∨ eccOf s.mod.mem sector ≠ o then s else s.eccRead sector)

end Sys2Proof.Machine
end

