-- ==== Sys2Proof/Machine/Power.lean ====
section
/-!
DEFINITION. Boot, reset, training and recovery (R345, R348, R349, R354, R355), failures of the module (R353), NVMe records (R305, R347, R350), wear
counters (R350) and power states (R364).
-/
namespace Sys2Proof.Machine
open State

/-! ### NVMe (R305, R347, R350) -/

/-- Write scores and flags to NVMe where a drive works (R305, R347). -/
def saveScores (s : State) : State :=
  if s.mod.drives = 0#2 then s
  else s.updMod fun m => { m with savedScores := s.dies.entries.foldl (fun t d =>
    d.2.scores.entries.foldl (fun t e => t.set (d.1 * 640 + e.1) e.2) t) m.savedScores }

/-- Write the wear counters to NVMe where a drive works (R347, R350). -/
def saveWear (s : State) : State := if s.mod.drives = 0#2 then s else s.updMod fun m => { m with savedWear := m.wear }

/-- SCORE_PERSIST (R305). -/
def execScorePersist (s : State) : Out := .next (if inRun s then saveScores s else s)
/-- WEAR_PERSIST (R350). -/
def execWearPersist (s : State) : Out := .next (if inRun s then saveWear s else s)

/-- A saturating 64-bit counter. -/
def sat64 (n : Nat) : Nat := Nat.min (2 ^ 64 - 1) n

/-- The band of a temperature, in kelvin less 273 of the Celsius scale that R350 uses: below 40, 60, 80, 95 °C, or above. -/
def wearBand (t : Nat) : Nat := if t < 313 then 0 else if t < 333 then 1 else if t < 353 then 2 else if t < 368 then 3 else 4

/-- One second of a wear record at a temperature with the energy drawn (R350). -/
def wearTick (w : Wear) (temp joules : Nat) : Wear :=
  let low := w.lowest.elim temp fun l => Nat.min l temp
  let rise := w.lowest.any fun l => l + 40 ≤ temp
  { w with band := w.band.set (wearBand temp) (sat64 (w.band.get (wearBand temp) 0 + 1)), energy := sat64 (w.energy + joules),
           thermal := if rise then sat64 (w.thermal + 1) else w.thermal, lowest := some (if rise then temp else low) }

/-- WEAR_COUNT_TICK (R350). -/
def execWearCountTick (record temp joules : Nat) (s : State) : Out :=
  .next (if s.mod.power = .off then s
    else s.updMod fun m => { m with wear := m.wear.set record (wearTick (m.wear.get record {}) temp joules) })

/-! ### Boot (R345, R348, R349, R355) -/

/-- The security version of a thermometer code: how many bits are 1 (R354). -/
def Fuses.svnOf (f : Fuses) : Nat := ((List.range 64).filter fun k => f.svn.getLsbD k).length

/-- SVN raised to a version; the code ends at 64 (R354, R355). -/
def Fuses.raise (f : Fuses) (v : Nat) : Fuses := { f with svn := f.svn ||| BitVec.ofNat 64 (2 ^ Nat.min 64 v - 1) }

/-- Whether stage 2 accepts an image: its signature, its version, and no test image outside MANUFACTURE (R355). -/
def imageOk (s : State) (img : FwImage) : Bool :=
  Config.imageVerifies s.mod.fuses.rooth img.bytes img.signature && s.mod.fuses.svnOf ≤ img.version && !(img.test && s.mod.sec != .manufacture)

/-- Whether image `j` is accepted: one that the model holds no bytes of as the outside says. -/
def bootImage (s : State) (b : BootInput) (j : Nat) : Bool :=
  s.mod.drives != 0#2 && (match s.mod.images[j]? with
    | some img => imageOk s img
    | none => (if j = 0 then b.image0 else b.image1) && s.mod.fuses.svnOf ≤ b.version)

/-- Image `j` of the drives: where the model holds none, one of unknown bytes (log 15). -/
def driveImage (s : State) (b : BootInput) (j : Nat) : FwImage :=
  (s.mod.images[j]?).getD ⟨Config.driveImage j b.version, [], b.version, false⟩

/-! ### Training (R349) -/

/-- The items of training: 16 stacks, 28 links between compute dies, 16 to I/O dies, 2 SerDes groups. -/
def trainItems : Nat := 62

/-- The item of the link between two compute dies. -/
def pairItem (l : Nat × Nat) : Nat :=
  let lo := Nat.min l.1 l.2
  let hi := Nat.max l.1 l.2
  16 + hi * (hi - 1) / 2 + lo

/-- The ports of a SerDes group: 0 those within the pod, 1 the four out of it (R366; log 14). -/
def groupPorts (g : Nat) : List Nat := if g = 0 then List.range 36 else [36, 37, 38, 39]

/-- An item's temperature now. -/
def tempNow (b : BootInput) (j : Nat) : Nat := b.temps.getD j 0

/-- Whether an item's record is void: absent, failing its signature or CRC, of another image, or more than 25 K away (R349). -/
def voidItem (s : State) (b : BootInput) (img : Option FwImage) (version j : Nat) : Bool :=
  match s.mod.training.get? j with
  | none => true
  | some r => b.corrupt.contains j || r.image != img || r.version != version || r.temp + 25 < tempNow b j || tempNow b j + 25 < r.temp

/-- Whether training of an item fails, if it is trained. -/
def failsTraining (b : BootInput) (j : Nat) : Bool :=
  (j < 16 && b.badStacks.contains j) || b.badLinks.any (fun l => pairItem l == j)
  || (44 ≤ j && j < 60 && b.badIoLinks.contains (j - 44)) || (60 ≤ j && b.badGroups.contains (j - 60))

/-- The items that training leaves out: the void ones that fail (R349). -/
def failedItems (s : State) (b : BootInput) (img : Option FwImage) (version : Nat) : List Nat :=
  (List.range trainItems).filter fun j => voidItem s b img version j && failsTraining b j

/-- The dies that training leaves out of the mask: a stack's, the higher of a pair, a die without a link to an I/O die (R349). -/
def badDies (b : BootInput) (failed : List Nat) : List Nat :=
  ((b.badStacks.filter failed.contains).map (· / 2)) ++ (b.badLinks.filter fun l => failed.contains (pairItem l)).map (fun l => Nat.max l.1 l.2)
  ++ (b.badIoLinks.filter fun l => failed.contains (44 + l)).map (· / 2)

/-- The ports that training leaves down: those of a SerDes group that fails (R349). -/
def badPorts (failed : List Nat) : List Nat := [0, 1].flatMap fun g => if failed.contains (60 + g) then groupPorts g else []

/-- Every void item that trains is recorded again (R349). -/
def recordTraining (s : State) (b : BootInput) (img : Option FwImage) (version : Nat) : State :=
  let good := (List.range trainItems).filter fun j => voidItem s b img version j && !failsTraining b j
  s.updMod fun m => { m with training := good.foldl (fun t j => t.set j ⟨img, version, tempNow b j⟩) m.training }

/-- A LOST launch's COMPLETE or report (R343, R345, R371). -/
def loseLaunch (s : State) (l : Nat) (x : Launch) : State :=
  let x := { x with st := .lost, reports := {}, dieFail := none }
  let lid := field x.packet 0 4
  match x.fabric with
  | none =>
    let p := leBytes 4 lid ++ leBytes 4 x.hseq ++ leBytes 2 5 ++ leBytes 18 0 ++ leBytes 4 0xFFFFFFFF ++ leBytes 2 x.gen.toNat
      ++ leBytes 1 x.liveMask.toNat ++ leBytes 9 0
    (s.updMod fun m => { m with launches := m.launches.set l x }).send x.fn 0x82 p (some l)
  | some (src, fseq, addr) =>
    let b := s.residencyReport fseq 4 5 lid 0xFFFFFFFF
    (s.updMod fun m => { m with launches := m.launches.set l { x with final := b } }).sendReport src x.fn addr b

/-- Whether a boot makes a launch LOST, or finds it LOST with its COMPLETE unwritten (R342, R345). -/
def losing (x : Launch) : Bool :=
  x.st == .queued || x.st == .running || (x.st == .lost && x.fabric.isNone && x.finalSeq == 0)

/-- Every QUEUED or RUNNING launch becomes LOST; a COMPLETE that had not been written is sent again (R342, R345). -/
def loseAll (s : State) : State :=
  (s.mod.launches.entries.filter fun e => losing e.2).foldl (fun t e => loseLaunch t e.1 e.2) s

/-- MSYNC in the journalled event area; from then on the slots are taken. Where SYNCs have come since the reset they are taken instead, in the
order of their coming, and MSYNC not written; with no area journalled the bit alone is set, as after every boot (R336, R345; log 48). -/
def writeMsync (s : State) (fn : Nat) : State :=
  let syncs := (s.chan fn).taken.filter fun m => m.ty == 2 && syncOk m.payload
  if !syncs.isEmpty then
    syncs.foldl (fun t m => takeSync t fn m.payload) (s.updChan fn fun c => { c with taken := c.taken.filter fun x => x.ty != 2 })
  else if (s.chan fn).ready then s
  else if !(s.chan fn).hasArea then s.updChan fn fun c => { c with msync := true }
  else takeHeld ((s.replySlot fn 0x87 (s.syncPayload fn)).updChan fn fun c => { c with msync := true, ready := true }) fn

/-- What a reset of the module leaves: the journal and the other NVMe records, fuses, training's address; everything volatile is as
at reset (R345, R347). Memory's contents are those of stage 5 (R348). -/
def afterReset (s : State) : State :=
  let o := s.mod
  { State.reset with
    agenda := s.agenda, cur := s.cur, slot := s.slot, free := s.free,
    mod := { o with
      mem := { quota := o.mem.quota }, map := {}, phase := .boot, dbg := .none, nonce := none, spdm := {}, aperIn := [], reportIn := [],
      apFaults := 0, discarded := 0, wantRun := false, waking := [], wantDown := none, failedColls := [], running := none, exported := [], portsDown := [],
      chans := o.chans.mapVals fun _ c =>
        { c with ready := false, msync := false, slots := {}, waiting := [], taken := c.taken.filter fun m => m.ty != 2 },
      peers := o.peers.mapVals fun _ p => { p with sweep := [], owed := false, unreachable := false } } }

/-- The logical maps restored from the quarantine records (R208, R348 stage 6). -/
def restoreMaps (s : State) : State :=
  let scored : Tab Die := (List.range 8).foldl (fun t d =>
    let mine := s.mod.savedScores.filterVals fun k _ => coreDie k == d
    let x := t.get d {}
    if mine.entries.isEmpty then t
    else t.set d { x with scores := mine.entries.foldl (fun y e => y.set (e.1 % 640) e.2) {} }) s.dies
  remap { s with dies := scored }

/-- Stage 3: one power cycle and one boot are counted, and persisted (R336, R350). -/
def countBoot (s : State) : State :=
  let wear := (List.range 24).foldl (fun (t : Tab Wear) k =>
    let w := t.get k {}
    t.set k { w with power := sat64 (w.power + 1) }) s.mod.wear
  saveWear (s.updMod fun m => { m with boots := m.boots + 1, wear := wear })

/-- Stage 1 to 3 leave what the host has written since the reset: a SYNC and what stands in its slots (R341, R345). -/
def keepChans (s t : State) : State := t.updMod fun m => { m with chans := s.mod.chans }

/-- The first boot in MANUFACTURE generates UDS (R354). -/
def generateUds (s : State) : State :=
  if s.mod.sec = .manufacture ∧ s.mod.fuses.uds.isNone then
    s.updMod fun m => { m with fuses := { m.fuses with uds := some Config.deviceSecret } }
  else s

/-- Stages 3 to 6 with an accepted image (R348). -/
def bootOn (s : State) (b : BootInput) (image : FwImage) : State :=
  let img := some image
  let version := image.version
  let s := countBoot (keepChans s (afterReset s))
  let failed := failedItems s b img version
  let s := recordTraining s b img version
  let s := restoreMaps s
  let s := (badDies b failed).foldl (fun t d => t.updDie d fun x => { x with failed := true }) s
  let s := s.updMod fun m => { m with live := 0xFF#8, portsDown := badPorts failed, power := .run, phase := .ready,
                                      running := img, fuses := m.fuses.raise version }
  let s := s.updMod fun m => { m with live := maskNow s }
  let s := startServices s fun _ => true
  let s := loseAll s
  let s := (List.range 17).foldl writeMsync s
  let s := (List.range 17).foldl State.pump s
  s.noteHealth

/-- COLD_BOOT: power-good, or a reset, starts the stages through to READY; with no acceptable image PHASE is ROMONLY (R348, R355).
A power cycle ends what the key domains, debug and its marks held (R356, R359). -/
def execColdBoot (b : BootInput) (s : State) : Out :=
  let cold := s.mod.power == .off
  let s' := generateUds (if cold then s.updMod fun m => { m with invSeen := false, obsSeen := false } else s)
  .next (if s.mod.phase ≠ .boot then s
    else if bootImage s b 0 then bootOn s' b (driveImage s b 0)
    else if bootImage s b 1 then bootOn s' b (driveImage s b 1)
    else (afterReset s').updMod fun m => { m with phase := .romOnly, power := .run })

/-- A reset of the module: it boots again from stage 1 (R353, R345, R361). -/
def resetModule (s : State) : State := (afterReset s).updMod fun m => { m with power := if s.mod.power = .off then .off else .run }

/-- MODULE_RESET (R353). -/
def execModuleReset (s : State) : Out := .next (resetModule s)

/-- POWER_LOSS: the module is OFF. From PARK and SLEEP it is an entry into OFF, which writes scores and wear counters; a sudden loss in RUN
saves them as far as time allows, which is open (R305, R350, R353, R364; log 14). -/
def execPowerLoss (s : State) : Out :=
  let t := if s.mod.phase = .ready ∧ (hostCounts s ∨ Config.freeBit s.free) then saveWear (saveScores s) else s
  .next (({ afterReset t with free := s.free + 1 }).updMod fun m => { m with power := .off, wear := m.savedWear })

/-! ### Failures (R353) -/

/-- Halt a launch's nodes on a die: running ones as under R72, each of whose cores its service core is told of, the others FAILED; its tastes
end (R343). DESIGN CHOICE: such a halt has no trap; its record names slot 0 with that context's PC, ECAUSE 0 and EVAL 0 (log 34). -/
def haltPart (s : State) (l d : Nat) : State :=
  let runs := s.cores.entries.filter fun c => coreDie c.1 == d && c.2.run.any fun r => r.launch == l
  let s := runs.foldl (fun t c => (t.tell c.1 (.halt c.1 0 (c.2.ctx 0).pc 0#64 0#64 (s.secretRun c.1))).haltNode c.1 0 false) s
  let s := (s.partOf d l).tastes.keys.foldl (fun t i => t.releaseTaste d l i) s
  let p := s.packet l
  let s := s.updDie d fun x => (({ x with levels := x.levels.mapVals fun _ q => q.filter fun e => e.launch != l } : Die).dropClaims
    fun k => k.1.launch == l).dropReads fun r => r.eng == .die && r.part == p.part && p.nodes ≤ r.va && r.va < p.nodes + 128 * p.nnode
  s.updPart d l fun p => { p with nodes := p.nodes.mapVals fun _ n =>
    if n.st = .ended then n else { n with st := .failed, core := none, twinCore := none, saved := none } }

/-- A failed die's cores and engines hold nothing any more. -/
def dropDie (s : State) (d : Nat) : State :=
  { s with cores := s.cores.filterVals fun c _ => coreDie c != d,
           dies := s.dies.set d { scores := (s.die d).scores, failed := true } }

/-- A RUNNING launch ends DIEFAIL once the other dies have drained (R343). -/
def failLaunch (s : State) (d : Nat) (e : Nat × Launch) : State :=
  let x := { e.2 with dieFail := e.2.dieFail.or (some d), unplaced := {} }
  let s := (liveDies x.liveMask).foldl (fun t k => if k = d then t else haltPart t e.1 k) s
  let s := s.updMod fun m => { m with launches := m.launches.set e.1 x }
  if (reporters s x).all x.reports.has then s.completeLaunch e.1 x else s

/-- DIE_FAIL: the die leaves the mask at once, and a map change is pending (R353, R297). A launch that every die has reported is
over, and only its COMPLETE may still wait to be written (R343). -/
def execDieFail (die : Nat) (s : State) : Out :=
  .next (if (s.die die).failed then s
    else
      let hit := s.mod.launches.entries.filter fun e =>
        e.2.st == .running && e.2.liveMask.getLsbD die && !(reporters s e.2).all e.2.reports.has
      let t := dropDie s die
      let t := t.updMod fun m => { m with live := m.live &&& ~~~(1#8 <<< die), map := { m.map with pending := true } }
      let t := hit.foldl (fun t e => failLaunch t die e) t
      t.noteHealth)

/-- THERMAL_PAUSE: a step of 1 µs in which the die's clock stands, with no visible effect (R353, R96). -/
def execThermalPause (_die : Nat) (s : State) : Out := .next s

/-- NVME_DRIVE_FAIL (R353). -/
def execNvmeDriveFail (drive : Nat) (s : State) : Out :=
  .next (s.updMod fun m => { m with drives := m.drives &&& ~~~(1#2 <<< drive) }).noteHealth

/-! ### Power states (R364) -/

/-- Harvest every die, and persist scores, flags and wear counters (R364 steps 2 and 3). -/
def settle (s : State) : State := saveWear (saveScores ((List.range 8).foldl State.harvestAll s))

/-- Whether a core is frozen for PARK under invasive debug: every context of a run of the launches `ls` halted, and no copy, collective, edit,
press request or message of theirs in flight at it, be it a core that runs no node; what stands in a queue, a matrix command, and what a
service core has under way do not count (R364). -/
def frozen (ls : List Nat) (c : Core) : Bool :=
  let mine : Option Nat → Bool := fun l => l.any ls.contains
  (!mine (c.run.map (·.launch)) || c.bar.ctxs.entries.all fun x => !x.2.live || x.2.dbgHalt)
  && (c.en.flight.all fun
    | .copy m => !mine (m.run.map (·.launch))
    | .coll m => !mine (m.run.map (·.launch)))
  && (c.en.editRun.all fun e => !mine e.launch) && (c.en.press.entries.all fun p => p.2.result.isSome || !mine p.2.launch)
  && (c.li.replies.all fun r => !ls.contains r.launch)
  && (c.li.amIn ++ c.li.mailbox ++ c.li.handling.toList).all fun m => !ls.contains m.launch

/-- Whether entry into PARK may take place (R364 step 1). -/
def parkReady (s : State) : Bool :=
  let ls := runningLaunches s
  ls.isEmpty || (s.mod.dbg == .invasive && s.cores.entries.all fun c => frozen ls c.2)

/-- What SLEEP keeps of a die (R364). -/
def sleepDie (x : Die) : Die :=
  { x with tlb := x.tlb.filterVals fun i _ => x.pinned i, tlbAge := x.tlbAge.filter x.pinned, parts := {}, levels := {}, scans := {},
           waits := [], declared := [], claims := [], sets := x.sets.mapVals fun _ k => { k with posts := {}, rel := {} } }

/-- SLEEP: the core rails are off; HBM, key domains, cadence sets with their pins, press SRAM and residency are kept; a nonce ends with the power
period (R357, R361, R364). -/
def sleepState (s : State) : State :=
  let s := endDebug s
  { s with cores := {}, dies := s.dies.mapVals fun _ x => sleepDie x,
           clusters := s.clusters.mapVals fun _ c => { c with roles := {}, tlb := [], notices := [], xreqs := [] },
           mod := { s.mod with nonce := none, mem := { s.mod.mem with stale := [], pubs := {}, hands := {} } } }

/-- A die's cadence sets at a resume: the entries that they pinned over SLEEP go, as every page is translated again (R364). -/
def unpinSets (x : Die) : Die :=
  { x with tlb := {}, tlbAge := [], pins := {}, sets := x.sets.mapVals fun _ k => { k with pinned := [] } }

/-- The resume: from PARK at once; after SLEEP the service cores start again, and every page of every cadence set is translated anew, by
refill-or-fault requests where the TLB lacks it, before the module is READY (R293, R364). -/
def resumeNow (s : State) : State :=
  let s := s.updMod fun m => { m with wantDown := none }
  if s.mod.power = .sleep then
    let ids := s.dies.entries.flatMap fun d => d.2.sets.keys.map fun k => (d.1, k)
    let t := startServices { s with dies := s.dies.mapVals fun _ x => unpinSets x } fun _ => true
    if ids.isEmpty then resumed t else wakeRun (t.updMod fun m => { m with waking := ids })
  else resumed s

/-- The entry is complete; where the host has set D0 meanwhile the resume follows (R364). -/
def enter (s : State) (p : Power) : State :=
  let t := s.updMod fun m => { m with power := p }
  if s.mod.wantRun then resumeNow t else t

/-- What the host asks for while a resume from SLEEP is under way stands until the module is READY (R364; log 56). -/
def whileWaking (s : State) (down : Option Bool) : State :=
  if s.mod.power = .sleep ∧ s.mod.waking ≠ [] then s.updMod fun m => { m with wantDown := down } else s

/-- PARK_REQUEST: D1; where an entry is under way, one into SLEEP among them, it stands, and a D0 written meanwhile is over; where a resume is,
the entry follows it (R364; log 56). -/
def execParkRequest (s : State) : Out :=
  .next (if (s.mod.power = .run ∨ s.mod.power = .parkPending) ∧ s.mod.phase = .ready then
      s.updMod fun m => { m with power := .parkPending, wantRun := false }
    else if s.mod.power = .sleepPending then s.updMod fun m => { m with wantRun := false }
    else whileWaking s (some false))

/-- PARK_ENTRY (R364). -/
def execParkEntry (s : State) : Out :=
  .next (if s.mod.power = .parkPending ∧ parkReady s then enter (settle s) .park else s)

/-- SLEEP_REQUEST: D2 or D3hot; an entry into PARK under way becomes one into SLEEP; where a resume is under way, the entry follows it (R364;
log 56). -/
def execSleepRequest (s : State) : Out :=
  .next (if (s.mod.power = .run ∨ s.mod.power = .park ∨ s.mod.power = .parkPending ∨ s.mod.power = .sleepPending) ∧ s.mod.phase = .ready then
      s.updMod fun m => { m with power := .sleepPending, wantRun := false }
    else whileWaking s (some true))

/-- SLEEP_ENTRY (R364). -/
def execSleepEntry (s : State) : Out :=
  .next (if s.mod.power = .sleepPending ∧ (runningLaunches s).isEmpty then enter (sleepState (settle s)) .sleep else s)

/-- RESUME: D0; an entry under way first completes (R364). -/
def execResume (s : State) : Out :=
  .next (match s.mod.power with
    | .park => resumeNow s
    | .sleep => if s.mod.waking.isEmpty then resumeNow s else whileWaking s none
    | .parkPending | .sleepPending => s.updMod fun m => { m with wantRun := true }
    | _ => s)

end Sys2Proof.Machine
end

