-- ==== Sys2Proof/Machine/Sha.lean ====
section
/-!
DEFINITION. SHA-256, the press's DIGEST (R238).
-/
namespace Sys2Proof.Machine

/-- The 64 round constants of SHA-256. -/
def shaK : List (BitVec 32) :=
  [0x428a2f98#32, 0x71374491#32, 0xb5c0fbcf#32, 0xe9b5dba5#32, 0x3956c25b#32, 0x59f111f1#32, 0x923f82a4#32, 0xab1c5ed5#32,
   0xd807aa98#32, 0x12835b01#32, 0x243185be#32, 0x550c7dc3#32, 0x72be5d74#32, 0x80deb1fe#32, 0x9bdc06a7#32, 0xc19bf174#32]
  ++ [0xe49b69c1#32, 0xefbe4786#32, 0x0fc19dc6#32, 0x240ca1cc#32, 0x2de92c6f#32, 0x4a7484aa#32, 0x5cb0a9dc#32, 0x76f988da#32,
   0x983e5152#32, 0xa831c66d#32, 0xb00327c8#32, 0xbf597fc7#32, 0xc6e00bf3#32, 0xd5a79147#32, 0x06ca6351#32, 0x14292967#32]
  ++ [0x27b70a85#32, 0x2e1b2138#32, 0x4d2c6dfc#32, 0x53380d13#32, 0x650a7354#32, 0x766a0abb#32, 0x81c2c92e#32, 0x92722c85#32,
   0xa2bfe8a1#32, 0xa81a664b#32, 0xc24b8b70#32, 0xc76c51a3#32, 0xd192e819#32, 0xd6990624#32, 0xf40e3585#32, 0x106aa070#32]
  ++ [0x19a4c116#32, 0x1e376c08#32, 0x2748774c#32, 0x34b0bcb5#32, 0x391c0cb3#32, 0x4ed8aa4a#32, 0x5b9cca4f#32, 0x682e6ff3#32,
   0x748f82ee#32, 0x78a5636f#32, 0x84c87814#32, 0x8cc70208#32, 0x90befffa#32, 0xa4506ceb#32, 0xbef9a3f7#32, 0xc67178f2#32]

/-- The initial hash value of SHA-256. -/
def shaH : List (BitVec 32) :=
  [0x6a09e667#32, 0xbb67ae85#32, 0x3c6ef372#32, 0xa54ff53a#32, 0x510e527f#32, 0x9b05688c#32, 0x1f83d9ab#32, 0x5be0cd19#32]

/-- A rotation right. -/
def ror32 (x : BitVec 32) (n : Nat) : BitVec 32 := x.rotateRight n

/-- Big-endian words of bytes. -/
def beWords : Nat → List Byte → List (BitVec 32)
  | 0, _ => []
  | n + 1, bs => BitVec.ofNat 32 ((bs.take 4).foldl (fun a b => a * 256 + b.toNat) 0) :: beWords n (bs.drop 4)

/-- The message schedule, latest word first. -/
def schedule : Nat → List (BitVec 32) → List (BitVec 32)
  | 0, w => w
  | n + 1, w =>
    let g : Nat → BitVec 32 := fun i => w.getD i 0#32
    let s0 := ror32 (g 14) 7 ^^^ ror32 (g 14) 18 ^^^ (g 14 >>> 3)
    let s1 := ror32 (g 1) 17 ^^^ ror32 (g 1) 19 ^^^ (g 1 >>> 10)
    schedule n ((g 15 + s0 + g 6 + s1) :: w)

/-- One round over the eight working variables. -/
def shaRound (v : List (BitVec 32)) (kw : BitVec 32) : List (BitVec 32) :=
  let g : Nat → BitVec 32 := fun i => v.getD i 0#32
  let e := g 4
  let a := g 0
  let t1 := g 7 + (ror32 e 6 ^^^ ror32 e 11 ^^^ ror32 e 25) + ((e &&& g 5) ^^^ (~~~e &&& g 6)) + kw
  let t2 := (ror32 a 2 ^^^ ror32 a 13 ^^^ ror32 a 22) + ((a &&& g 1) ^^^ (a &&& g 2) ^^^ (g 1 &&& g 2))
  [t1 + t2, a, g 1, g 2, g 3 + t1, e, g 5, g 6]

/-- One block of 64 bytes. -/
def shaBlock (h : List (BitVec 32)) (b : List Byte) : List (BitVec 32) :=
  let w := (schedule 48 (beWords 16 b).reverse).reverse
  let v := (shaK.zip w).foldl (fun v p => shaRound v (p.1 + p.2)) h
  (h.zip v).map fun p => p.1 + p.2

/-- Every block in turn. -/
def shaBlocks : Nat → List (BitVec 32) → List Byte → List (BitVec 32)
  | 0, h, _ => h
  | n + 1, h, bs => shaBlocks n (shaBlock h (bs.take 64)) (bs.drop 64)

/-- The bytes of a number, most significant first. -/
def beBytes (n v : Nat) : List Byte := (leBytes n v).reverse

/-- SHA-256 of bytes. -/
def sha256 (bs : List Byte) : List Byte :=
  let n := bs.length
  let zeros := (119 - n % 64) % 64
  let m := bs ++ [0x80#8] ++ List.replicate zeros 0#8 ++ beBytes 8 (8 * n)
  (shaBlocks (m.length / 64) shaH m).flatMap fun w => beBytes 4 w.toNat

end Sys2Proof.Machine
end

