-- ==== Sys2Proof/Machine/Secure.lean ====
section
/-!
DEFINITION. Attestation (R356), the vendor-defined requests (R357), key domains (R358, R359), security states (R360) and debug
levels (R361, R362).
-/
namespace Sys2Proof.Machine
open State

/-! ### The DOE mailbox (R356, R357) -/

/-- An answer of the DOE mailbox. -/
def doeAnswer (s : State) (fn : Nat) (r : DoeReply) : State := s.updMod fun m => { m with doeOut := m.doeOut ++ [(fn, r)] }

/-- The code of a security state (R354). -/
def secCode : SecState → Nat
  | .manufacture => 0 | .secure => 1 | .returned => 2
/-- The code of a debug level (R356). -/
def dbgCode : DbgLevel → Nat
  | .none => 0 | .observe => 1 | .invasive => 2

/-- The state word of measurement block 4 (R356). -/
def stateWord (s : State) : Word :=
  BitVec.ofNat 64 (secCode s.mod.sec + 4 * dbgCode s.mod.dbg + (if s.mod.invSeen then 16 else 0) + (if s.mod.obsSeen then 32 else 0))

/-- The connection state of an SPDM requester as a number, for the responder's open answers. -/
def connCode (c : Spdm) : Nat :=
  (if c.version then 1 else 0) + (if c.caps then 2 else 0) + (if c.algs then 4 else 0) + (if c.keyed then 8 else 0)
  + (if c.session then 16 else 0)

/-- Whether the DOE mailbox takes requests: refused with BUSY in PARK and SLEEP, inert before READY (R355, R364). -/
def doeOpen (s : State) (fn : Nat) (f : State) : State :=
  if hostCounts s then doeAnswer s fn (.refused .busy)
  else if s.mod.power = .off ∨ s.mod.phase ≠ .ready then s
  else f

/-- The measurement blocks 1 to 4: the boot ROM, the running image with its security version, the service-core firmware, the state word
(R356). -/
def measurements (s : State) : List (Nat × List Byte) :=
  let version := s.mod.running.elim s.mod.fuses.svnOf (·.version)
  [(1, sha256 Config.bootRom), (2, sha256 (s.mod.running.elim (Config.driveImage 0 version) (·.bytes)) ++ leBytes 8 version), (3, sha256 Config.serviceImage),
   (4, leBytes 8 (stateWord s).toNat)]

/-- A trap notice as observe gives it: without EPC and EVAL for a partition whose key domain was not ABSENT (R361, R362). -/
def noticeBytes : Notice → List Byte
  | .halt core slot epc ecause eval secret =>
    leBytes 4 core ++ leBytes 4 slot ++ leBytes 8 ecause.toNat ++ (if secret then [] else leBytes 8 epc.toNat ++ leBytes 8 eval.toNat)
  | _ => []

/-- What a debug level measures besides: the counters, the SUSPR values, the wear records and the trap notices (R361; log 15). -/
def observed (s : State) : List (Nat × List Byte) :=
  if s.mod.dbg = .none then []
  else [(5, s.cores.entries.flatMap fun c => leBytes 4 c.1 ++ leBytes 8 c.2.bar.cycle.toNat),
        (6, s.dies.entries.flatMap fun d => d.2.scores.entries.flatMap fun e =>
          leBytes 4 (d.1 * 640 + e.1) ++ leBytes 8 (statusWord s (d.1 * 640 + e.1))),
        (7, (List.range 24).flatMap fun k => wearBytes (s.mod.wear.get k {})),
        (8, s.clusters.entries.flatMap fun q => q.2.notices.flatMap noticeBytes)]

/-- What the responder answers: GET_MEASUREMENTS, once accepted, with the blocks (R356, R361). -/
def spdmAnswer (s : State) (code conn : Nat) (req : List Byte) (accepted : Bool) : DoeReply :=
  let blocks := measurements s ++ observed s
  let bytes := Config.spdmReply code conn blocks req
  if code = 6 ∧ accepted then .measurements blocks bytes else .spdm bytes

/-- An SPDM request: the responder answers, and where it accepts the request in this state of the connection the connection
moves on (R356). `code` numbers the request in the rule's order. -/
def spdmRequest (s : State) (fn code : Nat) (req : List Byte) (ok : Spdm → Bool) (f : Spdm → Spdm) : State :=
  let c := s.mod.spdm.get fn {}
  let accepted := ok c && Config.spdmAccepts code (connCode c) req
  doeOpen s fn
    (let t := doeAnswer s fn (spdmAnswer s code (connCode c) req accepted)
     if accepted then t.updMod fun m => { m with spdm := m.spdm.set fn (f c) } else t)

/-- GET_VERSION opens a connection anew (R356). -/
def execGetVersion (fn : Nat) (req : List Byte) (s : State) : Out :=
  .next (spdmRequest s fn 0 req (fun _ => true) fun _ => { version := true })
/-- GET_CAPABILITIES (R356). -/
def execGetCapabilities (fn : Nat) (req : List Byte) (s : State) : Out :=
  .next (spdmRequest s fn 1 req (·.version) fun c => { c with caps := true })
/-- NEGOTIATE_ALGORITHMS (R356). -/
def execNegotiateAlgorithms (fn : Nat) (req : List Byte) (s : State) : Out :=
  .next (spdmRequest s fn 2 req (·.caps) fun c => { c with algs := true })
/-- GET_DIGESTS (R356). -/
def execGetDigests (fn : Nat) (req : List Byte) (s : State) : Out := .next (spdmRequest s fn 3 req (·.algs) id)
/-- GET_CERTIFICATE (R356). -/
def execGetCertificate (fn : Nat) (req : List Byte) (s : State) : Out := .next (spdmRequest s fn 4 req (·.algs) id)
/-- CHALLENGE (R356). -/
def execChallenge (fn : Nat) (req : List Byte) (s : State) : Out := .next (spdmRequest s fn 5 req (·.algs) id)
/-- GET_MEASUREMENTS (R356). -/
def execGetMeasurements (fn : Nat) (req : List Byte) (s : State) : Out := .next (spdmRequest s fn 6 req (·.algs) id)
/-- KEY_EXCHANGE (R356). -/
def execKeyExchange (fn : Nat) (req : List Byte) (s : State) : Out :=
  .next (spdmRequest s fn 7 req (·.algs) fun c => { c with keyed := true })
/-- FINISH (R356). -/
def execFinish (fn : Nat) (req : List Byte) (s : State) : Out :=
  .next (spdmRequest s fn 8 req (·.keyed) fun c => { c with keyed := false, session := true })
/-- END_SESSION (R356). -/
def execEndSession (fn : Nat) (req : List Byte) (s : State) : Out :=
  .next (spdmRequest s fn 9 req (·.session) fun c => { c with session := false })

/-! ### Vendor-defined requests (R357) -/

/-- What a request of R357 comes to: a refusal, or a new state with its answer. -/
abbrev Vendor := Except DoeRefusal (DoeReply × State)

/-- A vendor-defined request: on its function and inside a secured session only; a refusal changes nothing (R357). -/
def vendor (s : State) (fn : Nat) (fnOk : Bool) (r : Vendor) : State :=
  doeOpen s fn
    (if !fnOk || !(s.mod.spdm.get fn {}).session then doeAnswer s fn .notAccepted
     else match r with
      | .error e => doeAnswer s fn (.refused e)
      | .ok (a, t) => doeAnswer t fn a)

/-- DBGNONCE: a fresh nonce, which replaces the last (R357). -/
def execDbgnonce (fn : Nat) (s : State) : Out :=
  let n := Config.nonce s.mod.nonces
  .next (vendor s fn (fn == 16) (.ok (.nonce n, s.updMod fun m => { m with nonce := some n, nonces := m.nonces + 1 })))

/-- The code of a token's purpose. -/
def purposeCode : Purpose → Nat
  | .observe => 0 | .invasive => 1 | .advance => 2

/-- The first check of a token: its signature, its device and its nonce (R361). -/
def tokenOk (s : State) (t : Token) : Bool :=
  Config.tokenVerifies s.mod.fuses.debugh t.device t.nonce (purposeCode t.purpose) t.signature
  && s.mod.fuses.uds.any (fun u => t.device == Config.deviceHash u)
  && s.mod.nonce == some t.nonce

/-- Whether every key domain is ABSENT. -/
def allAbsent (s : State) : Bool := s.mod.mem.keys.entries.all fun e => e.2 == .absent

/-- Grant a debug level; what a level that it replaces had halted resumes (R361, R362). -/
def grant (s : State) (l : DbgLevel) : State :=
  let s := if l == .invasive then s else endDebug s
  s.updMod fun m => { m with dbg := l, nonce := none, invSeen := m.invSeen || l == .invasive, obsSeen := m.obsSeen || l == .observe }

/-- DBGAUTH: BADTOKEN, then STATE, then BUSY (R361, R362). -/
def execDbgauth (fn : Nat) (t : Token) (s : State) : Out :=
  .next (vendor s fn (fn == 16)
    (if !tokenOk s t || t.purpose == .advance then .error .badToken
     else if t.purpose == .invasive && s.mod.sec == .secure && !allAbsent s then .error .state
     else if s.mod.power ≠ .run then .error .busy
     else .ok (.done, grant s (if t.purpose == .invasive then .invasive else .observe))))

/-- DBGEND; answered in PARK and SLEEP as well (R357, R364). -/
def execDbgend (fn : Nat) (s : State) : Out :=
  .next (if hostCounts s ∧ fn = 16 ∧ (s.mod.spdm.get fn {}).session then doeAnswer (endDebug s) fn .done
    else vendor s fn (fn == 16) (.ok (.done, endDebug s)))

/-! ### Key domains (R358, R359) -/

/-- The physical pages of a partition: those allocated to it and those that its tables map, as far as entries and the tables' writer have
shown them, until they are mapped no more (R296, R359). -/
def partPages (s : State) (n : Nat) : List (Nat × Nat) := s.mod.mem.pages.get n []

/-- A die without a partition's entries: their pins go with them, a cadence set's included (R359). -/
def Die.dropPart (x : Die) (n : Nat) : Die :=
  let stays : Nat → Bool := fun i => (x.tlb.get? i).all fun e => e.part != n
  { x with tlb := x.tlb.filterVals fun _ e => e.part != n, tlbAge := x.tlbAge.filter stays, pins := x.pins.filterVals fun i _ => stays i,
           sets := x.sets.mapVals fun _ k => { k with pinned := k.pinned.filter stays } }

/-- Remove a partition's entries from every TLB (R359). -/
def dropTlb (s : State) (n : Nat) : State :=
  { s with
    dies := s.dies.mapVals fun _ x => x.dropPart n
    clusters := s.clusters.mapVals fun _ c => { c with tlb := c.tlb.filter fun e => e.part != n }
    cores := s.cores.mapVals fun _ c => c.updEn fun e => { e with ropeTlb := e.ropeTlb.filter fun f => f.part != n } }

/-- Zero a partition's pages under a key, 0 for none, and set its domain (R359). -/
def rekey (s : State) (n key : Nat) (k : KeyDom) : State :=
  dropTlb (s.updMem fun m => { (partPages s n).foldl (fun m p => zeroPage m p.1 p.2 key) m with
    keys := m.keys.set n k, keyNo := m.keyNo.set n key, keyNext := Nat.max m.keyNext (key + 1) }) n

/-- KEYCREATE: STATE, then BUSY (R358, R359, R360, R362). -/
def execKeycreate (fn : Nat) (s : State) : Out :=
  .next (vendor s fn (fn < 16)
    (if s.mod.sec ≠ .secure ∨ s.mod.dbg = .invasive then .error .state
     else if s.residents fn ≠ 0 ∨ s.mod.mem.keys.get fn .absent ≠ .absent then .error .busy
     else .ok (.done, rekey s fn s.mod.mem.keyNext .active)))

/-- KEYDESTROY (R359). -/
def execKeydestroy (fn : Nat) (s : State) : Out :=
  .next (vendor s fn (fn < 16) (if s.residents fn ≠ 0 then .error .busy else .ok (.done, rekey s fn 0 .absent)))

/-! ### Firmware and security states (R355, R357, R360) -/

/-- FWRECOVER: an image that R355 accepts is written to both drives, and the module resets; in ROMONLY the only request served,
with no session (R355, R357). -/
def execFwrecover (fn : Nat) (img : FwImage) (s : State) : Out :=
  let r : Vendor := if imageOk s img then .ok (.done, resetModule (s.updMod fun m => { m with images := [img, img] })) else .error .badImage
  .next (if s.mod.phase = .romOnly ∧ fn = 16 ∧ s.mod.power ≠ .off then match r with
      | .error e => doeAnswer s fn (.refused e)
      | .ok (a, t) => doeAnswer t fn a
    else vendor s fn (fn == 16) r)

/-- ADVANCE: STATE moves to the next; every key domain is destroyed first (R357, R360). -/
def execAdvance (fn : Nat) (t : Token) (s : State) : Out :=
  .next (vendor s fn (fn == 16)
    (if !tokenOk s t || t.purpose != .advance then .error .badToken
     else match s.mod.sec with
      | .returned => .error .state
      | st =>
        let u := (List.range 16).foldl (fun u n => if u.mod.mem.keys.get n .absent = .absent then u else rekey u n 0 .absent) s
        .ok (.done, u.updMod fun m => { m with sec := if st = .manufacture then .secure else .returned, nonce := none })))

end Sys2Proof.Machine
end

