-- ==== Sys2Proof/Machine/Fabric.lean ====
section
/-!
DEFINITION. The fabric: ports (R366), remote accesses (R367), incarnations (R368, R369) and fabric launches (R370 to R372).
-/
namespace Sys2Proof.Machine
open State

/-- Whether the module's links are up: down in SLEEP and OFF (R364). -/
def linksUp (s : State) : Bool := s.mod.power != .sleep && s.mod.power != .off

/-- Whether the module answers its peers: in RUN, once it has booted; in PARK accesses wait, in SLEEP and OFF nothing answers (R364, R368). -/
def answers (s : State) : Bool := inRun s && s.mod.phase == .ready

/-- LINK_PORT_RETRAIN: the port takes traffic again (R366). -/
def execLinkPortRetrain (port : Nat) (s : State) : Out :=
  .next (if !linksUp s then s else s.updMod fun m => { m with portsDown := m.portsDown.erase port })

/-! ### Incarnations (R368, R369) -/

/-- A peer module. -/
def peer (s : State) (p : Nat) : Peer := s.mod.peers.get p {}
/-- Change a peer module. -/
def updPeer (s : State) (p : Nat) (f : Peer → Peer) : State :=
  s.updMod fun m => { m with peers := m.peers.set p (f (m.peers.get p {})) }

/-- What a core has in progress with a peer ends with UNREACHABLE: a copy that has started, and a collective that has been issued, one whose
table is not known yet once it has read it (R369). -/
def unreachFlight (s : State) (core p : Nat) (e : CEntry) : CEntry :=
  match e with
  | .copy m => if m.started && m.status.isNone && meetsPeer s core m (· == p) then .copy { m with status := some 0x12#16, miss := none } else e
  | .coll m => if m.status.isSome then e
      else if namesAny s core m [p] then .coll { m with status := some 0x12#16, miss := none }
      else .coll { m with gone := m.gone ++ [p] }

/-- I(p) increases: what a core has in progress with the peer ends, its entries match no access, and every die owes its sweep (R368, R369). -/
def increase (s : State) (p : Nat) : State :=
  let t := { s with cores := s.cores.mapVals fun i c => c.updEn fun e =>
    { e with flight := e.flight.map (unreachFlight s i p), copyQ := e.copyQ.map (unreachFlight s i p) } }
  updPeer t p fun x => { x with inc := x.inc + 1#8, unreachable := true, sweep := List.range 8, owed := false }

/-- Every path to a peer has failed: its incarnation increases, once the last removal has completed (R368). -/
def pathLost (s : State) (p : Nat) : State :=
  if (peer s p).sweep.isEmpty then increase s p else updPeer s p fun x => { x with owed := true }

/-- The peers that the module knows: those it keeps a record of, those that an entry of a TLB names, and those that a core's commands name. -/
def knownPeers (s : State) : List Nat :=
  let of_ : List TlbE → List Nat := fun l => (l.filter (·.remote)).map (·.moda)
  (s.mod.peers.keys ++ s.dies.entries.flatMap (fun d => of_ (d.2.tlb.entries.map (·.2))) ++ s.clusters.entries.flatMap (fun q => of_ q.2.tlb)
    ++ s.cores.entries.flatMap fun c => (c.2.en.flight ++ c.2.en.copyQ).flatMap fun
      | .copy m => m.peers
      | .coll m => match s.readVirt (collAccess c.1 m) (readColl m.block).table (4 * (readColl m.block).npart) with
        | .ok (tb, _, _) => tablePeers s (readColl m.block).npart tb
        | .error _ => m.peers).eraseDups

/-- LINK_PORT_FAIL: the port takes no traffic, and counts in the health report; with the last port of a path the incarnation of every peer
behind it increases (R352, R366, R368). -/
def execLinkPortFail (port : Nat) (s : State) : Out :=
  .next (if !linksUp s || s.mod.portsDown.contains port then s
    else
      let t := s.updMod fun m => { m with portsDown := m.portsDown ++ [port] }
      State.noteHealth (((knownPeers s).filter fun p => s.pathUp p && !t.pathUp p).foldl pathLost t))

/-- INCARNATION_INCREASE: once the last one's removal has completed on every die (R368, R369). -/
def execIncarnationIncrease (p : Nat) (s : State) : Out :=
  .next (if !linksUp s || !(peer s p).sweep.isEmpty then s else increase s p)

/-- A peer shows its BOOTS: a value that differs from the last seen one increases its incarnation, once the last removal has completed; it
has answered (R368). -/
def peerBoots (s : State) (p boots : Nat) : State :=
  let t := match (peer s p).boots with
    | some b => if b = boots then s else increase s p
    | none => s
  if !linksUp s || !(peer s p).sweep.isEmpty then s else updPeer t p fun x => { x with boots := some boots, unreachable := false }

/-- INCARNATION_SWEEP: a die removes its entries that name the peer, harvesting each first; a further increase that has waited for the last die
follows (R368, R295). -/
def execIncarnationSweep (die p : Nat) (s : State) : Out :=
  .next (if !linksUp s || !(peer s p).sweep.contains die then s
    else
      let names : TlbE → Bool := fun e => e.remote && e.moda == p
      let t := s.updDie die fun x =>
        { x with marked := (x.tlb.entries.filter fun e => names e.2 && e.2.dirty).foldl
                   (fun m e => if m.contains e.2.w0 then m else m ++ [e.2.w0]) x.marked,
                 tlbAge := x.tlbAge.filter fun i => !((x.tlb.get? i).any names),
                 tlb := x.tlb.filterVals fun _ e => !names e }
      let t := { t with
        clusters := t.clusters.mapVals fun q c => if q / 64 = die then { c with tlb := c.tlb.filter fun e => !names e } else c
        cores := t.cores.mapVals fun i c =>
          if coreDie i = die then c.updEn fun e => { e with ropeTlb := e.ropeTlb.filter fun f => !names f } else c }
      let t := updPeer t p fun x => { x with sweep := x.sweep.erase die }
      if (peer t p).owed && (peer t p).sweep.isEmpty then increase t p else t)

/-! ### Accesses by a peer (R366, R367) -/

/-- Answer a peer's access with a copy status and the bytes read. -/
def answerPeer (s : State) (src part phys st : Nat) (b : List Byte) : State :=
  s.sendFabric ⟨src, part, phys, .answer st, b, 0#20, 0#16⟩

/-- How many bytes an access covers. -/
def accBytes : RemoteAcc → Nat
  | .read n => n
  | .write b => b.length
  | .atomicAdd _ => 8
  | .reduce _ sf df _ b => b.length / fmtSize sf * fmtSize df
  | .toCore .. | .report _ => 0

/-- Whether every page of an access has been exported to its partition (R367). -/
def exportedTo (s : State) (part phys n : Nat) : Bool :=
  n != 0 && physOk phys n && (List.range ((phys + n - 1) / 65536 - phys / 65536 + 1)).all fun j =>
    s.mod.exported.contains (part, phys / 65536 + j)

/-- The elements that a peer's reduction leaves: each takes its new value as a local reduction's does (R220, R366). -/
def remoteReduce (op sf df : Nat) (fmode : Word) (old ops : List Byte) : List Byte :=
  let p : Plan := { readPlan {} with op := op, sf := sf, df := df }
  (List.range (ops.length / fmtSize sf)).flatMap fun k =>
    reduceElem p fmode ((old.drop (k * fmtSize df)).take (fmtSize df)) ((ops.drop (k * fmtSize sf)).take (fmtSize sf))

/-- The bytes that an access writes, given what it reads; none for a read. -/
def remoteNew (acc : RemoteAcc) (old : List Byte) : Option (List Byte) :=
  match acc with
  | .read _ | .toCore .. | .report _ => none
  | .write b => some b
  | .atomicAdd v => some (leBytes 8 (leNat old + v.toNat))
  | .reduce op sf df fmode b => some (remoteReduce op sf df fmode old b)

/-- Whether an access needs what stands in memory. -/
def remoteReads : RemoteAcc → Bool
  | .write _ => false
  | _ => true

/-- The bytes that an access answers with. -/
def remoteAnswer (acc : RemoteAcc) (old : List Byte) : List Byte :=
  match acc with
  | .read _ | .atomicAdd _ => old
  | _ => []

/-- Whether a numbered release of this module reaches a peer: it is known to, or the table of the collective under way names the peer (R377,
R378). -/
def reaches (s : State) (src n : Nat) : Bool :=
  (s.mod.mem.hands.get? n).any fun h => h.peers.contains src || (s.core h.core).en.flight.any fun
    | .coll m => m.hand == n && namesAny s h.core m [src]
    | .copy _ => false

/-- What a peer's context has acquired of this module's cores: the releases that it names and that reach its module (R377, R378). -/
def peerRow (s : State) (src : Nat) (seen : List Nat) : Row := Row.viaAll (seen.filter (reaches s src))

/-- The bytes of pieces as a peer may read them, whose context has acquired `row`: for each write that it has not acquired a free bit says
whether its access finds what stood before (R378 note 2; log 5). -/
def peerSees (s : State) (row : Row) (ps : List Piece) (b : List Byte) : List Byte :=
  let w : Party := { core := numCores, row := row, free := s.free }
  if s.mod.mem.stale.isEmpty then b
  else (pieceAddrs ps).zip b |>.map fun x => olderByte s.mod.mem.hands w ((ps.map (·.pa)).headD 0) x.1 s.mod.mem.stale x.2

/-- What an access that is accepted does at its memory, raw and under the partition's key; an integrity violation locks the domain; a
poisoned sector gives ECC, and stays poisoned where the access has read it (R287 to R289, R367; log 16). -/
def performRemote (s : State) (src part phys : Nat) (seen : List Nat) (acc : RemoteAcc) : State :=
  let m := s.mod.mem
  let ps : List Piece := [⟨phys, accBytes acc, 0⟩]
  let viol : State → List Nat → AccErr → State := fun u secs e =>
    answerPeer (u.refused part secs e) src part phys (match e with
      | .integrity _ => 0x15
      | _ => 0x14) []
  if m.keys.get part .absent = .locked then answerPeer s src part phys 0x15 []
  else match if remoteReads acc then s.fetchPieces part ps else .ok ([], false, s) with
    | .error e => viol s (ps.flatMap m.pieceSectors) e
    | .ok (old, bad, t) => match remoteNew acc old with
      | none =>
        let u := if m.stale.isEmpty then t else t.takeFree
        answerPeer u src part phys (if bad then 4 else 0) (remoteAnswer acc (peerSees t (peerRow s src seen) ps old))
      | some b => match t.storePieces part ps b with
        | .error e => viol (s.metErrors t) (ps.flatMap t.mod.mem.partSectors) e
        | .ok (stays, u) =>
          let u := if bad then u.updMem fun m => m.keepPoison t.mod.mem (sectors phys (accBytes acc)) else u
          answerPeer u src part phys (if bad ∨ stays then 4 else 0) (remoteAnswer acc old)

/-- Whether a logical core that a transaction names exists under the current map (R365). -/
def namesCore (s : State) (die cluster core : Nat) : Bool :=
  s.mod.live.getLsbD die && cluster < 64 && core < (s.cluster (die * 64 + cluster)).logical.length

/-- REMOTE_ACCESS: performed on a page exported to the same partition, refused with FAULT otherwise; a transaction that names a logical core
is routed by the current map, or refused with this module's generation, which every answer carries. The sender's generation is recorded;
in PARK the access waits, in SLEEP and OFF nothing answers, and over failed ports nothing comes (R365 to R368). A residency report is
written at its virtual address (R372), unanswered (log 76). -/
def execRemoteAccess (src part phys : Nat) (req : RemoteReq) (s : State) : Out :=
  .next (if !answers s || !s.pathUp src then s
    else
      let s := updPeer s src fun x => { x with unreachable := false, gen := some req.gen }
      match req.acc with
      | .report b => reportRun (s.updMod fun m => { m with reportIn := m.reportIn ++ [{ vf := part, va := phys, bytes := some b, n := b.length }] })
      | .toCore die cluster core => answerPeer s src part phys (if namesCore s die cluster core then 0 else 0x16) []
      | acc => if exportedTo s part phys (accBytes acc) then performRemote s src part phys req.seen acc else answerPeer s src part phys 0x11 [])

/-- The service processor exports a page of 64 KiB to a partition of its peers, or takes it back (R367). -/
def exportPage (s : State) (part page : Nat) (on : Bool) : State :=
  s.updMod fun m => { m with exported := if on then (if m.exported.contains (part, page) then m.exported else m.exported ++ [(part, page)])
                                         else m.exported.erase (part, page) }

/-! ### Fabric launches (R370 to R372) -/

/-- Whether a record's reserved bytes are zero and its REPORT is aligned (R370). -/
def recordFits (b : List Byte) : Bool :=
  b.length == 128 && zeroBytes b 68 72 && zeroBytes b 80 128 && field b 72 8 % 64 == 0 && field b 72 8 < 2 ^ 56

/-- The record of a fabric launch that was taken (R371). -/
def fabricOf (s : State) (src part fseq : Nat) : Option (Nat × Launch) :=
  s.mod.launches.entries.find? fun e => e.2.fn == part && (match e.2.fabric with
    | some (m, f, _) => m == src && f == fseq
    | none => false)

/-- A fabric launch is taken: refused, or resident and QUEUED, with its report (R342, R371, R372). -/
def takeFabric (s : State) (src part fseq addr : Nat) (packet : List Byte) (bad : Bool) : State :=
  let s := updPeer s src fun x => { x with fseq := x.fseq.set part fseq }
  let lid := field packet 0 4
  let why := if bad then some 1 else s.refusal part packet
  let st := if why.isSome then 3 else 0
  let b := s.residencyReport fseq st (why.getD 0) lid 0xFFFFFFFF
  let x : Launch := { fn := part, hseq := 0, packet := packet, st := if why.isSome then .refused else .queued,
                      fabric := some (src, fseq, addr), final := b }
  (s.addLaunch x).sendReport src part addr b

/-- A record that has arrived in the window is taken, a duplicate, or refused (R371). -/
def decideFabric (s : State) (src part : Nat) (record : List Byte) : State :=
  let fseq := field record 64 4
  let addr := field record 72 8
  let last := (peer s src).fseq.get part 0
  if fseq = last + 1 then takeFabric s src part fseq addr (record.take 64) (!recordFits record)
  else if fseq ≤ last then match fabricOf s src part fseq with
    | some (_, x) => match x.fabric with
      | some (_, _, a) => s.sendReport src part a x.final
      | none => s
    | none => s
  else s.sendReport src part addr (s.residencyReport fseq 3 7 (field record 0 4) 0xFFFFFFFF)

/-- The physical address of the launch window (R370). -/
def windowAddr : Nat := 0x1FFFFFF0000

/-- FABRIC_LAUNCH: the record is taken in FSEQ order, a duplicate's report is written again, a gap or a module that is not READY refuses it;
then the sender's copy completes; any other write to the window ends with FAULT. Over failed ports nothing comes; the sender's generation is
recorded (R342, R365, R366, R370, R371). -/
def execFabricLaunch (src part : Nat) (record : FabRecord) (s : State) : Out :=
  .next (if !inRun s || !s.pathUp src then s
    else
      let s := updPeer s src fun x => { x with unreachable := false, gen := some record.gen }
      if record.bytes.length ≠ 128 then answerPeer s src part windowAddr 0x11 []
      else answerPeer (decideFabric s src part record.bytes) src part windowAddr 0 [])

end Sys2Proof.Machine
end

