-- ==== Sys2Proof/Machine/Press.lean ====
section
/-!
DEFINITION. The meanings of PRESS (R237 to R247): press requests, token instructions, the stop matcher, VMASKL; and the press's
completion of a request (R238, R240).
-/
namespace Sys2Proof.Machine
open State

/-- The bytes of the press SRAM (R237). -/
def sramSize : Nat := 4194304

/-- Trap PRESS with a status (R241). -/
def pressTrap (st : Nat) : Stop := .trap .press (BitVec.ofNat 64 st)

/-! ### PRQ and PRGET (R238, R239) -/

/-- The fields of a request block (R238). -/
structure PrqBlock where
  op : Nat
  kind : Nat
  he : Bool
  h : Nat
  d : Nat
  src : Nat
  slen : Nat
  dst : Nat
  dlen : Nat
  deriving DecidableEq, Repr

/-- Read a request block. -/
def readPrq (b : List Byte) : PrqBlock :=
  { op := field b 0 1 % 16, kind := field b 0 1 / 16, he := field b 1 1 % 2 == 1, h := field b 1 1 / 2 % 16,
    d := field b 2 1 % 64, src := field b 8 4, slen := field b 12 4, dst := field b 16 4, dlen := field b 20 4 }

/-- FIELD: a reserved bit, or an operation's KIND, DLEN, HE, SLEN or overlap (R238, R241). -/
def prqFieldOk (b : List Byte) : Bool :=
  let q := readPrq b
  let apart := q.dlen == 0 || q.src + q.slen ≤ q.dst || q.dst + q.dlen ≤ q.src
  field b 1 1 / 32 == 0 && field b 2 1 / 64 == 0 && zeroBytes b 3 8 && zeroBytes b 24 32 && q.slen != 0
  && (match q.op with
      | 0 => q.kind == 0 && q.dlen == 0 && !q.he
      | 1 => (q.kind == 1 || q.kind == 2) && q.dlen != 0 && apart
      | 2 => (q.kind == 1 || q.kind == 2) && apart
      | 3 => q.kind == 0 && q.dlen == 32 && apart
      | _ => false)

/-- RANGE (R241). -/
def prqRangeOk (q : PrqBlock) : Bool :=
  q.src + q.slen ≤ spadSize && (if q.op = 0 then q.dst + q.slen ≤ sramSize else q.dst + q.dlen ≤ spadSize)

/-- The slot that a request's output arrives on (R238). -/
def prqSlot (c : Core) (q : PrqBlock) : Except Stop (Option (Nat × Nat)) :=
  if !q.he then .ok none
  else do
    let x ← needHandle c q.h
    if x.n ≤ q.d then .error (handleTrap 5 q.h) else .ok (some (q.h, (x.pp + q.d) % x.n))

/-- The lowest free request slot of a core (R237). -/
def freeTicket (c : Core) : Option Nat := [1, 2, 3, 4].find? fun t => !c.en.press.has t

/-- The attempts in a row that the press has refused a core, each within 256 cycles of the one before (R224). -/
def pressTries (c : Core) : Nat := if c.bar.cycle.toNat ≤ c.en.pressAt + 256 then c.en.pressTries else 0

/-- Whether the press accepts an attempt of the core whose turn it is: it has a request slot, and the load of the other cores, a
free bit, lets it in; the eighth attempt in a row is let in (R224). -/
def pressAccepts (s : State) (c : Core) : Bool := (freeTicket c).isSome && (7 ≤ pressTries c || !Config.freeBit s.free)

/-- An attempt, accepted or refused, is counted; one that finds no request slot counts for nothing (R224). -/
def pressCount (s : State) (ok : Bool) : State :=
  (s.updHere fun c => c.updEn fun e =>
    { e with pressTries := if ok then 0 else if (freeTicket c).isSome then pressTries c + 1 else e.pressTries,
             pressAt := c.bar.cycle.toNat }).takeFree

/-- The granules a request writes in the scratchpad. -/
def prqOut (op dst dlen : Nat) : List Nat := if op = 0 then [] else granules dst dlen

/-- The operand checks of PRQ, in the order of R237: the request they leave. -/
def prqCheck (c : Core) (k : Nat) (g : Word) (core part : Nat) : Except Stop (PressReq × Core) := do
  blockCheck g 32
  let c ← c.readRanges k [(g.toNat, 32)]
  let b := c.sp.mem.readBytes g.toNat 32
  let q := readPrq b
  if !prqFieldOk b then .error (pressTrap 0x32)
  if !prqRangeOk q then .error (pressTrap 0x33)
  let hs ← prqSlot c q
  let row := c.sp.seenRow k
  let id := EngineId.press core ((freeTicket c).getD 0)
  match (granules q.src q.slen).find? (c.sp.dmaReadConflict id k row) with
  | some n => .error (.trap .mmx (BitVec.ofNat 64 (n * 64)))
  | none => match (prqOut q.op q.dst q.dlen).find? (c.sp.dmaWriteConflict id k row) with
    | some n => .error (.trap .mmx (BitVec.ofNat 64 (n * 64)))
    | none => .ok ({ op := q.op, kind := q.kind, src := q.src, slen := q.slen, dst := q.dst, dlen := q.dlen, hslot := hs,
                     slot := k, row := row, part := part, launch := c.run.map (·.launch) }, c)

/-- What a request yields: the bytes it writes, ACTUAL and its status (R238, R240). -/
def pressResult (r : PressReq) (src : List Byte) : List Byte × Nat × Nat :=
  match r.op with
  | 0 => ([], r.slen, 0)
  | 1 =>
    let e := encodeKind r.kind src
    (e.take r.dlen, e.length, if r.dlen < e.length then 0x31 else 0)
  | 2 =>
    let x := decodeKind r.kind src
    (x.1.take r.dlen, x.1.length, if x.1.length = r.dlen ∧ x.2 then 0 else 0x30)
  | _ => (sha256 src, 32, 0)

/-- The granules that a request writes: those of min(ACTUAL, DLEN) bytes from DST (R238). -/
def prqWrites (c : Core) (r : PressReq) : List Nat :=
  prqOut r.op r.dst (pressResult r (c.sp.mem.readBytes r.src r.slen)).1.length

/-- What refusal leaves: the predicate false and G[D] 0 (R237). -/
def pressRefused (s : State) (p : BitVec 3) (d : Fld) : State :=
  ((pressCount s false).updMe fun x => (x.wg d.toNat 0#64).wp p.toNat false).advance 8

/-- A PRQ that names a handle takes the trap that a command left pending on it (R382). -/
def State.orPrqTrap (s : State) (g : Word) (t : State) : State :=
  match blockCheck g 32 with
  | .error _ => t
  | .ok _ => let q := readPrq (s.here.sp.mem.readBytes g.toNat 32)
             if q.he then s.orHandleTrap q.h t else t

/-- PRQ (R238). -/
def execPrq (p : BitVec 3) (d a : Fld) (s : State) : Out :=
  .next (s.orPrqTrap (s.me.rg a.toNat) <| match prqCheck s.here s.slot (s.me.rg a.toNat) s.cur (s.here.run.elim 0 (·.part)) with
  | .error e => s.stop e
  | .ok (r, c) => match if pressAccepts s c then freeTicket c else none with
    | none => pressRefused s p d
    | some t =>
      let id := EngineId.press s.cur t
      let c := c.updSp fun sp =>
        let sp := (prqWrites c r).foldl (fun u q => u.dmaStamp id q) sp
        { sp with srcs := sp.srcs ++ [⟨id, [(r.src, r.slen)]⟩] }
      let c := c.updEn fun e => { e with press := e.press.set t r }
      ((pressCount (s.setCore s.cur c) true).updMe fun x => (x.wg d.toNat (BitVec.ofNat 64 t)).wp p.toNat true).advance 8)

/-- PRGET (R239). -/
def execPrget (d a : Fld) (s : State) : Out :=
  let t := (s.me.rg a.toNat).toNat
  .next (s.finish 8 (
    if t < 1 ∨ 4 < t then .error (pressTrap 0x34)
    else match s.here.en.press.get? t with
      | none => .error (pressTrap 0x34)
      | some r => match r.result with
        | none => .ok (s.here.wg s.slot d.toNat 0#64)
        | some v =>
          let c := s.here.updEn fun e => { e with press := e.press.erase t }
          .ok ((c.acquire s.slot (Row.obs r.obs)).wg s.slot d.toNat v)))

/-- What a request has read of its source, or reads of it now, and whether it is poisoned. -/
def pressSource (c : Core) (r : PressReq) : List Byte × Bool :=
  r.data.getD (c.sp.mem.readBytes r.src r.slen, (c.sp.poisonIn r.src r.slen).isSome)

/-- The part of bytes at `dst` that lies in block `w` of `n` bytes: its address, and the bytes. -/
def blockPart (n dst : Nat) (out : List Byte) (w : Nat) : Nat × List Byte :=
  let lo := Nat.max (n * w) dst
  (lo, (out.drop (lo - dst)).take (n * w + n - lo))

/-- A word of the scratchpad takes its part of an output, with the poison of its source (R130, R174). -/
def Spad.putWord (sp : Spad) (dst : Nat) (out : List Byte) (bad : Bool) (w : Nat) : Spad :=
  let sp := sp.store (blockPart 8 dst out w).1 (blockPart 8 dst out w).2
  if bad && !sp.poison.contains w then { sp with poison := sp.poison ++ [w] } else sp

/-- The words that `n` bytes at a place lie in. -/
def wordsOf (dst n : Nat) : List Nat := (List.range ((n + dst % 8 + 7) / 8)).map (· + dst / 8)

/-- An output lands at its completion: all of it, or the words of it that have not landed before. -/
def Spad.putRest (sp : Spad) (dst : Nat) (out : List Byte) (bad : Bool) (landed : List Nat) : Spad :=
  if landed.isEmpty then
    let sp := sp.store dst out
    if bad then { sp with poison := sp.poison ++ wordsOf dst out.length } else sp
  else ((wordsOf dst out.length).filter fun w => !landed.contains w).foldl (fun sp w => sp.putWord dst out bad w) sp

/-- The SRAM takes the table that LOADTAB loads at its completion, but for the entries that have landed before. -/
def Mem.putRest (sram : Mem) (dst : Nat) (src : List Byte) (landed : List Nat) : Mem :=
  if landed.isEmpty then sram.writeBytes dst src
  else (((List.range ((src.length + dst % 16 + 15) / 16)).map (· + dst / 16)).filter fun w => !landed.contains w).foldl
    (fun b w => b.writeBytes (blockPart 16 dst src w).1 (blockPart 16 dst src w).2) sram

/-- A block of a request's output lands before its completion: a word of the scratchpad, or 16 bytes of the SRAM, which are written indivisibly
(R174, R237, R380; log 5). -/
def landPress (s : State) (core ticket w : Nat) : State :=
  match (s.core core).en.press.get? ticket with
  | none => s
  | some r =>
    let x := pressSource (s.core core) r
    let out := (pressResult r x.1).1
    let part := blockPart (if r.op = 0 then 16 else 8) r.dst (if r.op = 0 then x.1 else out) w
    if r.result.isSome || r.landed.contains w || part.2.isEmpty then s
    else
      let t := s.updCore core fun c => (if r.op = 0 then c else c.updSp (·.putWord r.dst out x.2 w)).updEn fun e =>
        { e with press := e.press.set ticket { r with data := some x, landed := w :: r.landed } }
      if r.op = 0 then t.updCluster (coreCluster core) fun q => { q with sram := q.sram.writeBytes part.1 part.2 } else t

/-- PRESS_REQUEST_COMPLETE: the request's output lands, through the DMA port, and arrives on its slot (R224, R238). -/
def execPressRequestComplete (core ticket : Nat) (s : State) : Out :=
  .next (match (s.core core).en.press.get? ticket with
  | none => s
  | some r =>
    if r.result.isSome then s
    else
      let c := s.core core
      let (src, bad) := pressSource c r
      let (out, actual, st) := pressResult r src
      let c := c.updSp fun sp => (if r.op = 0 then sp else sp.putRest r.dst out bad r.landed).complete (.press core ticket)
      let n := c.sp.compl
      let c := match r.hslot with
        | some (h, j) => (c.arrive h j out.length (Row.obs n) none).getD c
        | none => c
      let word := BitVec.ofNat 64 (2 ^ 32 * actual + 2 ^ 16 + st)
      let c := c.updEn fun e => { e with press := e.press.set ticket { r with result := some word, obs := n } }
      let t := s.setCore core c
      if r.op = 0 then t.updCluster (coreCluster core) fun q => { q with sram := q.sram.putRest r.dst src r.landed } else t)

/-! ### The vocabulary (R242 to R244) -/

/-- The header of the vocabulary (R242). -/
structure Vocab where
  vbase : Nat
  log2b : Nat
  dbase : Nat
  ntok : Nat
  deriving DecidableEq, Repr

/-- Read the header; none where it is malformed, a VBASE or DBASE past the SRAM included (R242; log 47). -/
def readVocab (m : Mem) : Option Vocab :=
  let b := m.readBytes 0 32
  let v : Vocab := ⟨field b 0 4, field b 4 1, field b 8 4, field b 12 4⟩
  if v.vbase % 128 = 0 ∧ v.log2b ≤ 14 ∧ v.dbase % 8 = 0 ∧ v.vbase < sramSize ∧ v.dbase < sramSize ∧ zeroBytes b 5 8 ∧ zeroBytes b 16 32 then some v else none

/-- What examining an entry comes to. -/
inductive Probe where
  | hit (v : Nat)
  | miss
  | on
  | bad
  deriving DecidableEq, Repr

/-- Examine the entry at an SRAM offset; `pair` and `str` say what an entry of their kind matches (R242, R243). -/
def examine (m : Mem) (pair : Nat → Nat → Nat → Nat → Option Nat) (str : Nat → Nat → Nat → Nat → Option Nat) (a : Nat) : Probe :=
  let w0 := m.readLE a 4
  let w1 := m.readLE (a + 4) 4
  let w2 := m.readLE (a + 8) 4
  let w3 := m.readLE (a + 12) 4
  let fate : Option Nat → Probe := fun r => r.elim .on .hit
  if sramSize < a + 16 then .bad
  else match w3 / 2 ^ 30 with
    | 0 => if w0 = 0 ∧ w1 = 0 ∧ w2 = 0 ∧ w3 = 0 then .miss else .bad
    | 1 => fate (pair w0 w1 w2 (w3 % 2 ^ 30))
    | 2 =>
      let n := w3 % 32 + 1
      if w3 / 32 % 2 ^ 25 ≠ 0 ∨ sramSize < w0 + n then .bad else fate (str w0 w1 w2 n)
    | _ => .bad

/-- The entries that a lookup examines, in order (R243). -/
def probeOrder (v : Vocab) (h : Nat) : List Nat :=
  let b0 := if v.log2b = 0 then 0 else h / 2 ^ (64 - v.log2b)
  (List.range 8).flatMap fun i => (List.range 8).map fun j => v.vbase + 128 * ((b0 + i) % 2 ^ v.log2b) + 16 * j

/-- The first entry that decides a lookup. -/
def lookup (f : Nat → Probe) : List Nat → Probe
  | [] => .miss
  | a :: rest => match f a with
    | .on => lookup f rest
    | r => r

/-- A lookup's result word: the value of a hit, or the miss value; none where the table is malformed (R244). -/
def lookupWord (m : Mem) (h : Nat) (pair str : Nat → Nat → Nat → Nat → Option Nat) : Option Nat :=
  (readVocab m).bind fun v => match lookup (examine m pair str) (probeOrder v h) with
    | .hit x => some x
    | .bad => none
    | _ => some 0xFFFFFFFF

/-- The hash of a pair (R243). -/
def pairHash (a b : Nat) : Nat := (mix (BitVec.ofNat 64 (a * 2 ^ 32 + b))).toNat

/-- The hash of a string's 8-byte chunks (R243). -/
def chunkHash : Nat → BitVec 64 → List Byte → BitVec 64
  | 0, k, _ => k
  | n + 1, k, bs => chunkHash n (mix (k ^^^ BitVec.ofNat 64 (leNat (bs.take 8)))) (bs.drop 8)

/-- The hash of a string (R243). -/
def stringHash (bs : List Byte) : Nat := (chunkHash ((bs.length + 7) / 8) (BitVec.ofNat 64 bs.length) bs).toNat

/-- No entry of this kind matches. -/
def noMatch : Nat → Nat → Nat → Nat → Option Nat := fun _ _ _ _ => none

/-- A token instruction (R237): its operand checks, then acceptance, then its work, which may trap TOKEN or TABLE. -/
def tokenOp (s : State) (p : BitVec 3) (d : Fld) (check : Except Stop Core) (f : Core → Except Stop (Nat × Core)) : State :=
  match check with
  | .error e => s.stop e
  | .ok c =>
    if !pressAccepts s c then pressRefused s p d
    else match f c with
      | .error e => (pressCount s true).stop e
      | .ok (v, c) => ((pressCount (s.setCore s.cur c) true).updMe fun x => (x.wg d.toNat (BitVec.ofNat 64 v)).wp p.toNat true).advance 8

/-- The press SRAM of a core's cluster. -/
def sramOf (s : State) : Mem := (s.cluster (coreCluster s.cur)).sram

/-- A lookup for a token instruction: TABLE where the table is malformed (R241). -/
def tableWord (r : Option Nat) (c : Core) : Except Stop (Nat × Core) :=
  match r with
  | some v => .ok (v, c)
  | none => .error (pressTrap 0x37)

/-- TKPAIR (R244). -/
def execTkpair (p : BitVec 3) (d a b : Fld) (s : State) : Out :=
  let x := (s.me.rg a.toNat).toNat % 2 ^ 32
  let y := (s.me.rg b.toNat).toNat % 2 ^ 32
  .next (tokenOp s p d (.ok s.here) fun c =>
    tableWord (lookupWord (sramOf s) (pairHash x y)
      (fun l r t rank => if l = x ∧ r = y then some (t + rank * 2 ^ 32) else none) noMatch) c)

/-- The check that `n` bytes from an address lie in the scratchpad, none for no byte: BOUNDS, EVAL the address. -/
def spanCheck (a : Word) (n : Nat) : Except Stop Unit := trapIf (n != 0 && spadSize < a.toNat + n) .bounds a

/-- TKHASH (R244): the string's race and length are checked at issue; an accepted one reads it (R237). -/
def execTkhash (p : BitVec 3) (d a b : Fld) (s : State) : Out :=
  let at_ := s.me.rg a.toNat
  let n := (s.me.rg b.toNat).toNat
  .next (tokenOp s p d
    (do
      spanCheck at_ n
      s.here.raceCheck s.slot [(at_.toNat, n)]
      if n < 1 ∨ 32 < n then .error (pressTrap 0x32) else .ok s.here)
    fun c => do
      let c ← c.readRanges s.slot [(at_.toNat, n)]
      let bs := c.sp.mem.readBytes at_.toNat n
      let h := stringHash bs
      tableWord (lookupWord (sramOf s) h noMatch
        (fun o f t len => if f = h % 2 ^ 32 ∧ len = n ∧ (sramOf s).readBytes o n = bs then some t else none)) c)

/-! ### The stop matcher (R245, R246) -/

/-- Clear the matcher as a SYSW of 0 does (R245). -/
def Matcher.clear (m : Matcher) : Matcher := { m with hold := [], hit := false, index := 0 }

/-- STOPLD (R245): a check that fails traps before the string is read. -/
def execStopld (i : BitVec 4) (a b : Fld) (s : State) : Out :=
  let at_ := s.me.rg a.toNat
  let n := (s.me.rg b.toNat).toNat
  .next (s.finish 8 do
    spanCheck at_ n
    s.here.raceCheck s.slot [(at_.toNat, n)]
    if 32 < n then .error (pressTrap 0x35)
    else
      let c ← s.here.readRanges s.slot [(at_.toNat, n)]
      let bs := c.sp.mem.readBytes at_.toNat n
      .ok (c.updEn fun e => { e with matcher :=
        { e.matcher.clear with strs := if n = 0 then e.matcher.strs.erase i.toNat else e.matcher.strs.set i.toNat bs } }))

/-- The stop string that a hold buffer ends with: the longest, the lowest index among equals (R246 lines 06 and 07). -/
def stopAt (m : Matcher) (h : List Byte) : Option (Nat × List Byte) :=
  (m.strs.entries.filter fun e => e.2.isSuffixOf h).foldl
    (fun (best : Option (Nat × List Byte)) e => match best with
      | none => some e
      | some b => if b.2.length < e.2.length then some e else some b) none

/-- The bytes that stay held: the longest suffix that begins a stop string (R246 line 11). -/
def heldLength (m : Matcher) (h : List Byte) : Nat :=
  (List.range (h.length + 1)).foldl
    (fun k n => if m.strs.entries.any (fun e => n < e.2.length && (h.drop (h.length - n)) == e.2.take n) then n else k) 0

/-- One byte of a token (R246 lines 05 to 12): the matcher and the output so far. -/
def emitByte (r : Matcher × List Byte) (b : Byte) : Matcher × List Byte :=
  let (m, out) := r
  if m.hit then r
  else
    let h := m.hold ++ [b]
    match stopAt m h with
    | some (i, t) => ({ m with hold := [], hit := true, index := i }, out ++ h.take (h.length - t.length))
    | none =>
      let k := heldLength m h
      ({ m with hold := h.drop (h.length - k) }, out ++ h.take (h.length - k))

/-- A token's bytes, from its detokenisation entry (R242): TABLE where malformed, TOKEN beyond the vocabulary. -/
def tokenBytes (m : Mem) (t : Nat) : Except Stop (List Byte) :=
  match readVocab m with
  | none => .error (pressTrap 0x37)
  | some v =>
    if v.ntok ≤ t then .error (pressTrap 0x36)
    else
      let a := v.dbase + 8 * t
      let o := m.readLE a 4
      let n := m.readLE (a + 4) 1
      if sramSize < a + 8 ∨ m.readLE (a + 5) 3 ≠ 0 ∨ 32 < n ∨ sramSize < o + n then .error (pressTrap 0x37)
      else .ok (m.readBytes o n)

/-- TKEMIT's result word (R246 line 14). -/
def emitWord (m : Matcher) (out : Nat) : Nat :=
  out + (if m.hit then 2 ^ 8 else 0) + m.index * 2 ^ 9 + m.hold.length * 2 ^ 16

/-- The matcher and the output that TKEMIT comes to, none for no token in the flush form (R246 lines 02 to 12). -/
def emission (m : Matcher) : Option (Except Stop (List Byte)) → Except Stop (Matcher × List Byte)
  | none => .ok ({ m with hold := [] }, m.hold)
  | some t => t.map fun bs => bs.foldl emitByte (m, [])

/-- The operand checks of TKEMIT: the output range, and the race check of what it would write, whether or not the press accepts; where
HIT is set, or the token is none, it writes nothing (R237, R246). -/
def emitCheck (c : Core) (k : Nat) (at_ : Word) (r : Except Stop (Matcher × List Byte)) : Except Stop Core := do
  spanCheck at_ 64
  match r with
  | .ok (_, out) =>
    if c.en.matcher.hit then .ok c
    else
      let _ ← c.writeRanges k [(at_.toNat, out.length)]
      .ok c
  | .error _ => .ok c

/-- The work of TKEMIT and TKEMIT.flush (R246): `bytes` gives the token's bytes, none in the flush form. -/
def emit (s : State) (p : BitVec 3) (d b : Fld) (bytes : Option (Except Stop (List Byte))) : State :=
  let at_ := s.me.rg b.toNat
  let out := emission s.here.en.matcher bytes
  tokenOp s p d (emitCheck s.here s.slot at_ out)
    fun c => do
      let m := c.en.matcher
      if m.hit then .ok (0x100 + m.index * 2 ^ 9, c)
      else
        let r ← out
        let c ← c.writeRanges s.slot [(at_.toNat, r.2.length)]
        let c := c.updSp (·.store at_.toNat r.2)
        .ok (emitWord r.1 r.2.length, c.updEn fun e => { e with matcher := r.1 })

/-- TKEMIT (R246). -/
def execTkemit (p : BitVec 3) (d a b : Fld) (s : State) : Out :=
  .next (emit s p d b (some (tokenBytes (sramOf s) ((s.me.rg a.toNat).toNat % 2 ^ 32))))
/-- TKEMIT.flush (R246). -/
def execTkemitFlush (p : BitVec 3) (d b : Fld) (s : State) : Out := .next (emit s p d b none)

/-! ### VMASKL (R247) -/

/-- VMASKL: −∞ where the token's bitmap bit is 0 (R247). -/
def execVmaskl (d a b c : Fld) (m : VMod) (s : State) : Out :=
  let e := venv s.me m
  let base := s.me.rg b.toNat
  let tok : Nat → Nat := fun j => (s.me.rg c.toNat).toNat + j
  let byteAt : Nat → Word := fun j => base + BitVec.ofNat 64 (tok j / 8)
  let js := (List.range (1024 / e.w)).filter (enabled e.w e.k)
  .next (s.finish 8 do
    let (va, h) ← readA s.here s.slot m a
    match js.find? fun j => 0xBFFFF < (byteAt j).toNat with
    | some j => .error (.trap .bounds (byteAt j))
    | none =>
      let h ← h.readRanges s.slot (js.map fun j => ((byteAt j).toNat, 1))
      let r := maskedResult e.w e.k e.z (h.rv s.slot d.toNat) fun j =>
        if (h.sp.mem.read (byteAt j).toNat).getLsbD (tok j % 8) then (elem e.w va j, ({} : Flags))
        else (if e.ty = 0 then 0xFF800000 else 0xFF80, {})
      .ok (writePart h s.slot d e.lanes r))

end Sys2Proof.Machine
end

