-- ==== Sys2Proof/Machine/Outside.lean ====
section
/-!
DEFINITION. What reaches the machine from outside without a row of the opcode table: soft errors (R130), blocks of the code image read again
(R85), damaged tags, bit errors and sectors that do not answer (R287, R288), the SCC's quotas and messages (R296, R335), exports and addresses (R365, R367), a peer's BOOTS (R368), cleared
quarantine records (R310), reads of BAR 0 (R336), pages of the tables (R359), parts of what a copy, a press request, an edit or a collective writes that land before its end (R380).
-/
namespace Sys2Proof.Machine
open State

/-- Whether an outside turn names what the machine has. -/
def outsideOk : Outside → Bool
  | .softError c p => c < numCores && (match p with
      | .spad w => w < spadSize / 8
      | .vector e => e < 144 * 32
      | .acc k => k < 8 * 2048)
  | .refetch c _ => c < numCores
  | .tamper q => q < 2 ^ 35
  | .setQuota n _ => n < 16
  | .toService q _ | .fromService q _ => q < 512
  | .exportPage n page _ => n < 16 && page < 2 ^ 25
  | .moduleAddress a => a.toNat < 768 * 1024
  | .peerBoots p b => p < 2 ^ 20 && b < 2 ^ 32
  | .clearQuar c => c < numCores
  | .barRead fn off => fn ≤ 16 && off % 8 == 0
  | .landUnits c .. | .landPress c .. | .landEdit c _ | .landColl c .. => c < numCores
  | .bitError q j => q < 2 ^ 35 && j < 40
  | .noAnswer q => q < 2 ^ 35
  | .mapPage n pa k | .unmapPage n pa k => n < 16 && pa % 65536 == 0 && physOk pa k && (k == 2 ^ 16 || k == 2 ^ 21 || k == 2 ^ 29)

/-- An uncorrectable error poisons a word of the scratchpad or an element of the vector file or of an accumulator (R130). -/
def softError (s : State) (core : CoreId) (at_ : SoftPlace) : State :=
  let add : List Nat → Nat → List Nat := fun l x => if l.contains x then l else l ++ [x]
  s.updCore core fun c => match at_ with
    | .spad w => c.updSp fun sp => { sp with poison := add sp.poison w }
    | .vector e => c.updUn fun u => { u with poisonV := add u.poisonV e }
    | .acc k => c.updUn fun u => { u with poisonA := add u.poisonA k }

/-- The instruction cache of a core evicts a block of its node's code image, and the next read of it finds the bytes of memory: the block is
read again at once, where its page translates and no byte of it is poisoned (R85; log 71). DESIGN CHOICE: where the fill meets anything else, a
tag mismatch or a locked key domain among it, the core keeps the old block, and nothing is reported or locked (R85, R288; log 71). -/
def refetch (s : State) (core : CoreId) (block : Nat) : State :=
  match (s.core core).run with
  | none => s
  | some r =>
    let d := (s.node (coreDie core) r.launch r.node).d
    if (s.core core).codeLen ≤ 32 * block then s
    else match dieRead s core r.part (d.code + 32 * block) 32 with
      | .ok (b, t) => t.updCore core fun c => { c with code := c.code.writeBytes (32 * block) b }
      | .error _ => s

/-- What the outside does in a turn. Soft errors, evictions and what lands of an engine's work come in RUN; damaged tags, errors in a sector's 40 symbols of 16
bits and unanswered reads while memory has power (R85, R130, R287, R288). -/
def outsideAct (s : State) : Outside → State
  | .softError c p => if inRun s then softError s c p else s
  | .refetch c b => if inRun s then refetch s c b else s
  | .tamper q => if s.mod.power = .off ∨ s.mod.mem.badTag.contains q then s else s.updMem fun m => { m with badTag := m.badTag ++ [q] }
  | .setQuota n pages => s.updMem fun m => { m with quota := m.quota.set n pages }
  | .toService q b => s.updCluster q fun c => { c with fromScc := c.fromScc ++ [b] }
  | .fromService q b => s.updMod fun m => { m with fromService := m.fromService ++ [(q, b)] }
  | .exportPage n page on => exportPage s n page on
  | .moduleAddress a => s.updMod fun m => { m with addr := a }
  | .peerBoots p b => peerBoots s p b
  | .clearQuar c => clearQuar s c
  | .barRead fn off => barRead s fn off
  | .mapPage n pa k => s.notePage n pa k
  | .unmapPage n pa k => s.dropPage n pa k
  | .landUnits c t ks x => if inRun s then landUnits s c t ks x else s
  | .landPress c t w => if inRun s then landPress s c t w else s
  | .landEdit c w => if inRun s then landEdit s c w else s
  | .landColl c t e r => if inRun s then landColl s c t e r else s
  | .bitError q j => if s.mod.power = .off ∨ s.mod.mem.flips.contains (q, j) then s else s.updMem fun m => { m with flips := m.flips ++ [(q, j)] }
  | .noAnswer q => if s.mod.power = .off ∨ s.mod.mem.mute.contains q then s else s.updMem fun m => { m with mute := m.mute ++ [q] }

/-- A turn that the agenda gives to the outside. -/
def State.outsideTurn (s : State) (x : Outside) : Out := if outsideOk x then .next (outsideAct s x) else .fault .noSuchEvent

end Sys2Proof.Machine
end

