-- ==== Sys2Proof/Machine/Dispatch.lean ====
section
/-!
DEFINITION. The dispatch of every instruction and event to its meaning, one arm each.
-/
namespace Sys2Proof.Machine
open Sys2Proof

/-- The meaning of an instruction or event. -/
def exec (i : Instr) (s : State) : Host.Outcome State Fault Refusal :=
  match i with
  | .pad => Sys2Proof.Machine.execPad s
  | .pool n => Sys2Proof.Machine.execPool n s
  | .nop => Sys2Proof.Machine.execNop s
  | .trap imm => Sys2Proof.Machine.execTrap imm s
  | .bkpt imm => Sys2Proof.Machine.execBkpt imm s
  | .eret a => Sys2Proof.Machine.execEret a s
  | .sysr d num => Sys2Proof.Machine.execSysr d num s
  | .sysw num a => Sys2Proof.Machine.execSysw num a s
  | .stopstClear a => Sys2Proof.Machine.execStopstClear a s
  | .evpop d c => Sys2Proof.Machine.execEvpop d c s
  | .evwait => Sys2Proof.Machine.execEvwait s
  | .add d a b => Sys2Proof.Machine.execAdd d a b s
  | .sub d a b => Sys2Proof.Machine.execSub d a b s
  | .and d a b => Sys2Proof.Machine.execAnd d a b s
  | .or d a b => Sys2Proof.Machine.execOr d a b s
  | .xor d a b => Sys2Proof.Machine.execXor d a b s
  | .andn d a b => Sys2Proof.Machine.execAndn d a b s
  | .shl d a b => Sys2Proof.Machine.execShl d a b s
  | .shr d a b => Sys2Proof.Machine.execShr d a b s
  | .sar d a b => Sys2Proof.Machine.execSar d a b s
  | .rol d a b => Sys2Proof.Machine.execRol d a b s
  | .ror d a b => Sys2Proof.Machine.execRor d a b s
  | .min d a b => Sys2Proof.Machine.execMin d a b s
  | .max d a b => Sys2Proof.Machine.execMax d a b s
  | .minu d a b => Sys2Proof.Machine.execMinu d a b s
  | .maxu d a b => Sys2Proof.Machine.execMaxu d a b s
  | .sel d a b c => Sys2Proof.Machine.execSel d a b c s
  | .abs d a => Sys2Proof.Machine.execAbs d a s
  | .addi d a imm => Sys2Proof.Machine.execAddi d a imm s
  | .andi d a imm => Sys2Proof.Machine.execAndi d a imm s
  | .ori d a imm => Sys2Proof.Machine.execOri d a imm s
  | .xori d a imm => Sys2Proof.Machine.execXori d a imm s
  | .shli d a sh => Sys2Proof.Machine.execShli d a sh s
  | .shri d a sh => Sys2Proof.Machine.execShri d a sh s
  | .sari d a sh => Sys2Proof.Machine.execSari d a sh s
  | .mul d a b => Sys2Proof.Machine.execMul d a b s
  | .mulh d a b => Sys2Proof.Machine.execMulh d a b s
  | .mulhu d a b => Sys2Proof.Machine.execMulhu d a b s
  | .div d a b => Sys2Proof.Machine.execDiv d a b s
  | .divu d a b => Sys2Proof.Machine.execDivu d a b s
  | .rem d a b => Sys2Proof.Machine.execRem d a b s
  | .remu d a b => Sys2Proof.Machine.execRemu d a b s
  | .cmp cc d a b => Sys2Proof.Machine.execCmp cc d a b s
  | .cmpi cc d a imm => Sys2Proof.Machine.execCmpi cc d a imm s
  | .pand d a b => Sys2Proof.Machine.execPand d a b s
  | .por d a b => Sys2Proof.Machine.execPor d a b s
  | .pxor d a b => Sys2Proof.Machine.execPxor d a b s
  | .pandn d a b => Sys2Proof.Machine.execPandn d a b s
  | .pnot d a => Sys2Proof.Machine.execPnot d a s
  | .pset a => Sys2Proof.Machine.execPset a s
  | .pget d => Sys2Proof.Machine.execPget d s
  | .clz d a => Sys2Proof.Machine.execClz d a s
  | .ctz d a => Sys2Proof.Machine.execCtz d a s
  | .popc d a => Sys2Proof.Machine.execPopc d a s
  | .bswap d a => Sys2Proof.Machine.execBswap d a s
  | .bfx d a pos wm1 => Sys2Proof.Machine.execBfx d a pos wm1 s
  | .bfxu d a pos wm1 => Sys2Proof.Machine.execBfxu d a pos wm1 s
  | .bfi d a pos wm1 => Sys2Proof.Machine.execBfi d a pos wm1 s
  | .movi d imm => Sys2Proof.Machine.execMovi d imm s
  | .movhi d imm => Sys2Proof.Machine.execMovhi d imm s
  | .ldl d imm => Sys2Proof.Machine.execLdl d imm s
  | .addpc d imm => Sys2Proof.Machine.execAddpc d imm s
  | .vldl d ty imm => Sys2Proof.Machine.execVldl d ty imm s
  | .ld d a f off => Sys2Proof.Machine.execLd d a f off s
  | .ldx d a ix f => Sys2Proof.Machine.execLdx d a ix f s
  | .st b a f off => Sys2Proof.Machine.execSt b a f off s
  | .stx b a ix f => Sys2Proof.Machine.execStx b a ix f s
  | .amo aop d b a f off => Sys2Proof.Machine.execAmo aop d b a f off s
  | .cas d b a f off => Sys2Proof.Machine.execCas d b a f off s
  | .fence kind scope => Sys2Proof.Machine.execFence kind scope s
  | .br off => Sys2Proof.Machine.execBr off s
  | .call off => Sys2Proof.Machine.execCall off s
  | .loop d off => Sys2Proof.Machine.execLoop d off s
  | .jmpr a => Sys2Proof.Machine.execJmpr a s
  | .callr a => Sys2Proof.Machine.execCallr a s
  | .ret => Sys2Proof.Machine.execRet s
  | .yield => Sys2Proof.Machine.execYield s
  | .hstart pp d a sz off => Sys2Proof.Machine.execHstart pp d a sz off s
  | .hend => Sys2Proof.Machine.execHend s
  | .hwait a => Sys2Proof.Machine.execHwait a s
  | .hkill a => Sys2Proof.Machine.execHkill a s
  | .fork d a n off => Sys2Proof.Machine.execFork d a n off s
  | .join n => Sys2Proof.Machine.execJoin n s
  | .joinw n => Sys2Proof.Machine.execJoinw n s
  | .vadd d a b m => Sys2Proof.Machine.execVadd d a b m s
  | .vsub d a b m => Sys2Proof.Machine.execVsub d a b m s
  | .vmul d a b m => Sys2Proof.Machine.execVmul d a b m s
  | .vfma d a b c m => Sys2Proof.Machine.execVfma d a b c m s
  | .vfms d a b c m => Sys2Proof.Machine.execVfms d a b c m s
  | .vfnma d a b c m => Sys2Proof.Machine.execVfnma d a b c m s
  | .vmin d a b m => Sys2Proof.Machine.execVmin d a b m s
  | .vmax d a b m => Sys2Proof.Machine.execVmax d a b m s
  | .vabs d a m => Sys2Proof.Machine.execVabs d a m s
  | .vneg d a m => Sys2Proof.Machine.execVneg d a m s
  | .vand d a b m => Sys2Proof.Machine.execVand d a b m s
  | .vor d a b m => Sys2Proof.Machine.execVor d a b m s
  | .vxor d a b m => Sys2Proof.Machine.execVxor d a b m s
  | .vshl d a b m => Sys2Proof.Machine.execVshl d a b m s
  | .vshr d a b m => Sys2Proof.Machine.execVshr d a b m s
  | .vsar d a b m => Sys2Proof.Machine.execVsar d a b m s
  | .vcmp cc d a b m => Sys2Proof.Machine.execVcmp cc d a b m s
  | .vsel d a b c m => Sys2Proof.Machine.execVsel d a b c m s
  | .kand d a b => Sys2Proof.Machine.execKand d a b s
  | .kor d a b => Sys2Proof.Machine.execKor d a b s
  | .kxor d a b => Sys2Proof.Machine.execKxor d a b s
  | .knot d a => Sys2Proof.Machine.execKnot d a s
  | .kmovToMask d a => Sys2Proof.Machine.execKmovToMask d a s
  | .kmovFromMask d a => Sys2Proof.Machine.execKmovFromMask d a s
  | .vcvt src d a pd pa m => Sys2Proof.Machine.execVcvt src d a pd pa m s
  | .vrcp d a m => Sys2Proof.Machine.execVrcp d a m s
  | .vrsq d a m => Sys2Proof.Machine.execVrsq d a m s
  | .vexp2 d a m => Sys2Proof.Machine.execVexp2 d a m s
  | .vlog2 d a m => Sys2Proof.Machine.execVlog2 d a m s
  | .vtanh d a m => Sys2Proof.Machine.execVtanh d a m s
  | .vbcast d a m => Sys2Proof.Machine.execVbcast d a m s
  | .vext d a b m => Sys2Proof.Machine.execVext d a b m s
  | .vins d a b m => Sys2Proof.Machine.execVins d a b m s
  | .vperm d a b m => Sys2Proof.Machine.execVperm d a b m s
  | .vrot d a b m => Sys2Proof.Machine.execVrot d a b m s
  | .vredadd d a m => Sys2Proof.Machine.execVredadd d a m s
  | .vredmax d a m => Sys2Proof.Machine.execVredmax d a m s
  | .vredmin d a m => Sys2Proof.Machine.execVredmin d a m s
  | .vscan d a m => Sys2Proof.Machine.execVscan d a m s
  | .vld d a m => Sys2Proof.Machine.execVld d a m s
  | .vst b a m => Sys2Proof.Machine.execVst b a m s
  | .vlds d a b m => Sys2Proof.Machine.execVlds d a b m s
  | .vsts b a c m => Sys2Proof.Machine.execVsts b a c m s
  | .vgath d a b m => Sys2Proof.Machine.execVgath d a b m s
  | .vscat b a c m => Sys2Proof.Machine.execVscat b a c m s
  | .vsmax d a b m => Sys2Proof.Machine.execVsmax d a b m s
  | .vsexpP d a b m => Sys2Proof.Machine.execVsexpP d a b m s
  | .vsexpAcc d a m => Sys2Proof.Machine.execVsexpAcc d a m s
  | .vsexpNorm d a b m => Sys2Proof.Machine.execVsexpNorm d a b m s
  | .rotapp d a b band m => Sys2Proof.Machine.execRotapp d a b band m s
  | .rotcfg t a => Sys2Proof.Machine.execRotcfg t a s
  | .latch a grp m e => Sys2Proof.Machine.execLatch a grp m e s
  | .gath d a b grp m e => Sys2Proof.Machine.execGath d a b grp m e s
  | .mepi a m e => Sys2Proof.Machine.execMepi a m e s
  | .tmm a b m e => Sys2Proof.Machine.execTmm a b m e s
  | .mma d a b m => Sys2Proof.Machine.execMma d a b m s
  | .pmma d a b m => Sys2Proof.Machine.execPmma d a b m s
  | .mzero d => Sys2Proof.Machine.execMzero d s
  | .mrd d a b h => Sys2Proof.Machine.execMrd d a b h s
  | .mwr d a b h m => Sys2Proof.Machine.execMwr d a b h m s
  | .mcfg pa pb ga gb => Sys2Proof.Machine.execMcfg pa pb ga gb s
  | .hinit h a sz n => Sys2Proof.Machine.execHinit h a sz n s
  | .hwaitf h n => Sys2Proof.Machine.execHwaitf h n s
  | .hwaite h n => Sys2Proof.Machine.execHwaite h n s
  | .hadv h n => Sys2Proof.Machine.execHadv h n s
  | .hpub h n => Sys2Proof.Machine.execHpub h n s
  | .hexp h a sd => Sys2Proof.Machine.execHexp h a sd s
  | .hst d h sd => Sys2Proof.Machine.execHst d h sd s
  | .gset gd a => Sys2Proof.Machine.execGset gd a s
  | .gclr gd => Sys2Proof.Machine.execGclr gd s
  | .gst d gd => Sys2Proof.Machine.execGst d gd s
  | .lookup d a => Sys2Proof.Machine.execLookup d a s
  | .tagw a b => Sys2Proof.Machine.execTagw a b s
  | .taginvSlot a => Sys2Proof.Machine.execTaginvSlot a s
  | .taginvLine a => Sys2Proof.Machine.execTaginvLine a s
  | .rnew d a b c sl => Sys2Proof.Machine.execRnew d a b c sl s
  | .rcat d a b c => Sys2Proof.Machine.execRcat d a b c s
  | .rsplit d a b c => Sys2Proof.Machine.execRsplit d a b c s
  | .rsplice d a b c => Sys2Proof.Machine.execRsplice d a b c s
  | .rapp d a b c sl => Sys2Proof.Machine.execRapp d a b c sl s
  | .ridx d a b => Sys2Proof.Machine.execRidx d a b s
  | .rsum d a b sl => Sys2Proof.Machine.execRsum d a b sl s
  | .rlen d a => Sys2Proof.Machine.execRlen d a s
  | .rwalk d a b => Sys2Proof.Machine.execRwalk d a b s
  | .rvalidChk d a b sl => Sys2Proof.Machine.execRvalidChk d a b sl s
  | .rvalidFix d a b sl => Sys2Proof.Machine.execRvalidFix d a b sl s
  | .rtake d a => Sys2Proof.Machine.execRtake d a s
  | .rpub d a b => Sys2Proof.Machine.execRpub d a b s
  | .rpubCmp d a b c => Sys2Proof.Machine.execRpubCmp d a b c s
  | .rrel a => Sys2Proof.Machine.execRrel a s
  | .rdecl sl a => Sys2Proof.Machine.execRdecl sl a s
  | .amsend a b c => Sys2Proof.Machine.execAmsend a b c s
  | .amreply a => Sys2Proof.Machine.execAmreply a s
  | .amret => Sys2Proof.Machine.execAmret s
  | .rsst wc a b c => Sys2Proof.Machine.execRsst wc a b c s
  | .ramo aop sz a b c => Sys2Proof.Machine.execRamo aop sz a b c s
  | .role d => Sys2Proof.Machine.execRole d s
  | .recast a c => Sys2Proof.Machine.execRecast a c s
  | .cew ix a => Sys2Proof.Machine.execCew ix a s
  | .cer d ix => Sys2Proof.Machine.execCer d ix s
  | .celaunch d => Sys2Proof.Machine.execCelaunch d s
  | .cewait d a => Sys2Proof.Machine.execCewait d a s
  | .cepoll d a => Sys2Proof.Machine.execCepoll d a s
  | .prq p d a => Sys2Proof.Machine.execPrq p d a s
  | .prget d a => Sys2Proof.Machine.execPrget d a s
  | .tkpair p d a b => Sys2Proof.Machine.execTkpair p d a b s
  | .tkhash p d a b => Sys2Proof.Machine.execTkhash p d a b s
  | .tkemit p d a b => Sys2Proof.Machine.execTkemit p d a b s
  | .tkemitFlush p d b => Sys2Proof.Machine.execTkemitFlush p d b s
  | .stopld x a b => Sys2Proof.Machine.execStopld x a b s
  | .vmaskl d a b c m => Sys2Proof.Machine.execVmaskl d a b c m s
  | .nspawn d a => Sys2Proof.Machine.execNspawn d a s
  | .nend => Sys2Proof.Machine.execNend s
  | .ndepAdd d a => Sys2Proof.Machine.execNdepAdd d a s
  | .ndepSub d a => Sys2Proof.Machine.execNdepSub d a s
  | .nprio d a b => Sys2Proof.Machine.execNprio d a b s
  | .nqry d a sel => Sys2Proof.Machine.execNqry d a sel s
  | .cddef d a k => Sys2Proof.Machine.execCddef d a k s
  | .cdsweep d a => Sys2Proof.Machine.execCdsweep d a s
  | .cdnext d => Sys2Proof.Machine.execCdnext d s
  | .cdpost a b => Sys2Proof.Machine.execCdpost a b s
  | .cdread d a => Sys2Proof.Machine.execCdread d a s
  | .cdpin a b => Sys2Proof.Machine.execCdpin a b s
  | .sealCore a => Sys2Proof.Machine.execSealCore a s
  | .errsend a b => Sys2Proof.Machine.execErrsend a b s
  | .scanrun d a => Sys2Proof.Machine.execScanrun d a s
  | .quar a b => Sys2Proof.Machine.execQuar a b s
  | .suspr d a => Sys2Proof.Machine.execSuspr d a s
  | .susprW d a b => Sys2Proof.Machine.execSusprW d a b s
  | .tlbw a b => Sys2Proof.Machine.execTlbw a b s
  | .tlbinv d a b m => Sys2Proof.Machine.execTlbinv d a b m s
  | .harvest d c a => Sys2Proof.Machine.execHarvest d c a s
  | .tlbr d c a => Sys2Proof.Machine.execTlbr d c a s
  | .clred d a => Sys2Proof.Machine.execClred d a s
  | .clgat d a => Sys2Proof.Machine.execClgat d a s
  | .clbar d a => Sys2Proof.Machine.execClbar d a s
  | .clwait d a => Sys2Proof.Machine.execClwait d a s
  | .dhalt a => Sys2Proof.Machine.execDhalt a s
  | .drun a => Sys2Proof.Machine.execDrun a s
  | .drdr d a b => Sys2Proof.Machine.execDrdr d a b s
  | .dwrr a b c => Sys2Proof.Machine.execDwrr a b c s
  | .wdogExpiry core slot => Sys2Proof.Machine.execWdogExpiry core slot s
  | .contextWaitEnd core slot => Sys2Proof.Machine.execContextWaitEnd core slot s
  | .heldInstructionComplete core slot => Sys2Proof.Machine.execHeldInstructionComplete core slot s
  | .channelWordArrival core ch => Sys2Proof.Machine.execChannelWordArrival core ch s
  | .channelCreditReturn core ch => Sys2Proof.Machine.execChannelCreditReturn core ch s
  | .engineQueueHeadStart core q => Sys2Proof.Machine.execEngineQueueHeadStart core q s
  | .matrixStep core => Sys2Proof.Machine.execMatrixStep core s
  | .copyEnd core tid r => Sys2Proof.Machine.execCopyEnd core tid r s
  | .reductionApplyPhase core tid => Sys2Proof.Machine.execReductionApplyPhase core tid s
  | .eventRecordEnter core => Sys2Proof.Machine.execEventRecordEnter core s
  | .pressRequestComplete core ticket => Sys2Proof.Machine.execPressRequestComplete core ticket s
  | .ropeEditCommit core => Sys2Proof.Machine.execRopeEditCommit core s
  | .amArrival core => Sys2Proof.Machine.execAmArrival core s
  | .amHandlerStart core => Sys2Proof.Machine.execAmHandlerStart core s
  | .builtinStore core => Sys2Proof.Machine.execBuiltinStore core s
  | .builtinAtomic core => Sys2Proof.Machine.execBuiltinAtomic core s
  | .builtinLoad core => Sys2Proof.Machine.execBuiltinLoad core s
  | .amReplyArrival core => Sys2Proof.Machine.execAmReplyArrival core s
  | .tasteRetain core => Sys2Proof.Machine.execTasteRetain core s
  | .ropeEditStart core => Sys2Proof.Machine.execRopeEditStart core s
  | .dryNotice core ch => Sys2Proof.Machine.execDryNotice core ch s
  | .copyReplay core tid memErr => Sys2Proof.Machine.execCopyReplay core tid memErr s
  | .refcntUpdateArrival addr => Sys2Proof.Machine.execRefcntUpdateArrival addr s
  | .reclaimEngineStep die => Sys2Proof.Machine.execReclaimEngineStep die s
  | .ropeCacheDrop core => Sys2Proof.Machine.execRopeCacheDrop core s
  | .poolReturn die => Sys2Proof.Machine.execPoolReturn die s
  | .nodeRestart die launch node core => Sys2Proof.Machine.execNodeRestart die launch node core s
  | .twinCompare die launch node => Sys2Proof.Machine.execTwinCompare die launch node s
  | .twinSilenceTimeout die launch node => Sys2Proof.Machine.execTwinSilenceTimeout die launch node s
  | .launchHandout => Sys2Proof.Machine.execLaunchHandout s
  | .passDispatch die => Sys2Proof.Machine.execPassDispatch die s
  | .tileArrival die => Sys2Proof.Machine.execTileArrival die s
  | .dieReport die launch => Sys2Proof.Machine.execDieReport die launch s
  | .scoreDecay die => Sys2Proof.Machine.execScoreDecay die s
  | .scanAbort core => Sys2Proof.Machine.execScanAbort core s
  | .scanComplete core passed => Sys2Proof.Machine.execScanComplete core passed s
  | .sccServiceScan cluster passed => Sys2Proof.Machine.execSccServiceScan cluster passed s
  | .mapChangeInstall => Sys2Proof.Machine.execMapChangeInstall s
  | .mapDrainComplete => Sys2Proof.Machine.execMapDrainComplete s
  | .translationRequest r => Sys2Proof.Machine.execTranslationRequest r s
  | .translationAnswer r ans => Sys2Proof.Machine.execTranslationAnswer r ans s
  | .harvestTimerExpiry die => Sys2Proof.Machine.execHarvestTimerExpiry die s
  | .memoryRefresh sector o => Sys2Proof.Machine.execMemoryRefresh sector o s
  | .incarnationIncrease peer => Sys2Proof.Machine.execIncarnationIncrease peer s
  | .incarnationSweep die peer => Sys2Proof.Machine.execIncarnationSweep die peer s
  | .remoteAccess src part phys req => Sys2Proof.Machine.execRemoteAccess src part phys req s
  | .fabricLaunch src part record => Sys2Proof.Machine.execFabricLaunch src part record s
  | .collectiveComplete core tid r => Sys2Proof.Machine.execCollectiveComplete core tid r s
  | .collectiveTimeout core tid => Sys2Proof.Machine.execCollectiveTimeout core tid s
  | .linkPortFail port => Sys2Proof.Machine.execLinkPortFail port s
  | .hostSlotWrite fn slot msg => Sys2Proof.Machine.execHostSlotWrite fn slot msg s
  | .launch fn hseq packet => Sys2Proof.Machine.execLaunch fn hseq packet s
  | .sync fn msg => Sys2Proof.Machine.execSync fn msg s
  | .health fn => Sys2Proof.Machine.execHealth fn s
  | .wear fn first count => Sys2Proof.Machine.execWear fn first count s
  | .hackWrite fn v => Sys2Proof.Machine.execHackWrite fn v s
  | .moduleMessageSend fn => Sys2Proof.Machine.execModuleMessageSend fn s
  | .apertureWrite vf va bytes => Sys2Proof.Machine.execApertureWrite vf va bytes s
  | .apertureRead vf va n => Sys2Proof.Machine.execApertureRead vf va n s
  | .coldBoot b => Sys2Proof.Machine.execColdBoot b s
  | .moduleReset => Sys2Proof.Machine.execModuleReset s
  | .dieFail die => Sys2Proof.Machine.execDieFail die s
  | .thermalPause die => Sys2Proof.Machine.execThermalPause die s
  | .nvmeDriveFail drive => Sys2Proof.Machine.execNvmeDriveFail drive s
  | .powerLoss => Sys2Proof.Machine.execPowerLoss s
  | .scorePersist => Sys2Proof.Machine.execScorePersist s
  | .wearPersist => Sys2Proof.Machine.execWearPersist s
  | .wearCountTick record temp joules => Sys2Proof.Machine.execWearCountTick record temp joules s
  | .parkRequest => Sys2Proof.Machine.execParkRequest s
  | .parkEntry => Sys2Proof.Machine.execParkEntry s
  | .sleepRequest => Sys2Proof.Machine.execSleepRequest s
  | .sleepEntry => Sys2Proof.Machine.execSleepEntry s
  | .resume => Sys2Proof.Machine.execResume s
  | .getVersion fn req => Sys2Proof.Machine.execGetVersion fn req s
  | .getCapabilities fn req => Sys2Proof.Machine.execGetCapabilities fn req s
  | .negotiateAlgorithms fn req => Sys2Proof.Machine.execNegotiateAlgorithms fn req s
  | .getDigests fn req => Sys2Proof.Machine.execGetDigests fn req s
  | .getCertificate fn req => Sys2Proof.Machine.execGetCertificate fn req s
  | .challenge fn req => Sys2Proof.Machine.execChallenge fn req s
  | .getMeasurements fn req => Sys2Proof.Machine.execGetMeasurements fn req s
  | .keyExchange fn req => Sys2Proof.Machine.execKeyExchange fn req s
  | .finish fn req => Sys2Proof.Machine.execFinish fn req s
  | .endSession fn req => Sys2Proof.Machine.execEndSession fn req s
  | .dbgnonce fn => Sys2Proof.Machine.execDbgnonce fn s
  | .dbgauth fn t => Sys2Proof.Machine.execDbgauth fn t s
  | .dbgend fn => Sys2Proof.Machine.execDbgend fn s
  | .keycreate fn => Sys2Proof.Machine.execKeycreate fn s
  | .keydestroy fn => Sys2Proof.Machine.execKeydestroy fn s
  | .fwrecover fn img => Sys2Proof.Machine.execFwrecover fn img s
  | .advance fn t => Sys2Proof.Machine.execAdvance fn t s
  | .linkPortRetrain port => Sys2Proof.Machine.execLinkPortRetrain port s

end Sys2Proof.Machine
end

