-- ==== Sys2Proof/Machine/Turn.lean ====
section
/-!
DEFINITION. Whose turn it is (R69, R380, R381, log 1), the clocks of a turn (R71, R96, log 4), and fetching one instruction: the
watchdog (R71), the code image's bounds (R91), decoding (R43), vector windows (R67) and the predicate (R27).
-/
namespace Sys2Proof.Machine
open State

/-- The vector operands an instruction names, as the field number of REGWIN's EVAL and the register, in the order D, A, B, C
(R43 step 11, R73). -/
def vecFields : Instr → List (Nat × Fld)
  | .vldl d _ _ => [(0, d)]
  | .vadd d a b _ | .vsub d a b _ | .vmul d a b _ | .vmin d a b _ | .vmax d a b _ | .vand d a b _ | .vor d a b _
  | .vxor d a b _ | .vshl d a b _ | .vshr d a b _ | .vsar d a b _ | .vsel d a b _ _ | .vperm d a b _ | .vsmax d a b _
  | .vsexpP d a b _ | .vsexpNorm d a b _ => [(0, d), (1, a), (2, b)]
  | .vfma d a b c _ | .vfms d a b c _ | .vfnma d a b c _ => [(0, d), (1, a), (2, b), (3, c)]
  | .vabs d a _ | .vneg d a _ | .vcvt _ d a _ _ _ | .vrcp d a _ | .vrsq d a _ | .vexp2 d a _ | .vlog2 d a _ | .vtanh d a _
  | .vrot d a _ _ | .vredadd d a _ | .vredmax d a _ | .vredmin d a _ | .vscan d a _ | .vsexpAcc d a _ | .rotapp d a _ _ _
  | .vmaskl d a _ _ _ => [(0, d), (1, a)]
  | .vcmp _ _ a b _ => [(1, a), (2, b)]
  | .vbcast d _ _ | .vins d _ _ _ | .vld d _ _ | .vlds d _ _ _ | .mrd d _ _ _ | .cdread d _ => [(0, d)]
  | .vgath d _ b _ => [(0, d), (2, b)]
  | .vext _ a _ _ | .mwr _ a _ _ _ | .cdpost a _ => [(1, a)]
  | .vst b _ _ | .vsts b _ _ _ | .gath _ _ b _ _ _ => [(2, b)]
  | .vscat b _ c _ => [(2, b), (3, c)]
  | _ => []

/-- EVAL of the REGWIN trap of an instruction in a context, if it traps (R67, R73). -/
def regwin (x : Ctx) (i : Instr) : Option Word :=
  ((vecFields i).find? fun f => x.winRegs ≤ f.2.toNat).map fun f => BitVec.ofNat 64 (f.1 * 256 + f.2.toNat)

/-- Whether a context may issue: it exists, waits for nothing, no instruction holds it, and no debug halt stops it. -/
def Ctx.runnable (x : Ctx) : Bool := x.live && x.wait.isNone && x.held.isNone && !x.dbgHalt

/-- A turn of a core: CYCLE advances, and WDCNT of every context that exists and is not blocked (R71, R96; log 4). A context
that debug has halted counts nothing (R363). -/
def Barrel.tick (b : Barrel) : Barrel :=
  { b with cycle := b.cycle + 1#64
           ctxs := b.ctxs.mapVals fun _ x =>
             if x.live && x.wait.isNone && !x.dbgHalt then { x with wdcnt := x.wdcnt + 1#64 } else x }

/-- The dry count of an input advances in a cycle in which a context waits on the empty input (R211). -/
def Core.dryTick (c : Core) (ch : Nat) : Core :=
  if isDry c ch then c.updLi fun l => { l with dry := l.dry.set ch (l.dry.get ch 0 + 1) } else c

/-- The clocks of a turn of the core whose turn it is (R71, R96, R211). -/
def State.tick (s : State) : State :=
  { s.updHere fun c => ((c.updBar (·.tick)).dryTick 0).dryTick 1 with mod := { s.mod with clock := s.mod.clock + 1 } }

/-- The slot that the barrel issues from: the first runnable one in slot order after the last (R69). -/
def Core.nextSlot (c : Core) : Option Nat :=
  ((List.range 12).map fun j => (c.bar.last + 1 + j) % 12).find? fun k => (c.ctx k).runnable

/-- What a fetch comes to: a state in which nothing of the instruction remains to be done, or an instruction to run. -/
inductive Fetched where
  | done (s : State)
  | run (i : Instr) (s : State)
  deriving DecidableEq, Repr

/-- Fetch and check the instruction at the pc of the context whose turn it is, in the order of R43 (R91, R67, R27). -/
def State.fetch (s : State) : Fetched :=
  let pc := s.me.pc
  if s.here.codeLen ≤ pc.toNat then .done (s.takeTrap .bounds pc)
  else
    match decode (s.isService s.cur) (s.mod.dbg == .invasive) (s.here.blockBytes pc.toNat) with
    | .error e => .done (s.takeTrap (if e.isPriv then .priv else .illegal) s.bytesHere)
    | .ok p =>
      match regwin s.me p.op with
      | some v => .done (s.takeTrap .regwin v)
      | none => if s.me.holds p.pr then .run p.op s else .done (s.advance p.op.len)

/-- Whether the word at the pc of the context whose turn it is is a fetch-control word, well-formed or not: LEN is 0b11 (R39). -/
def State.atControl (s : State) : Bool :=
  s.me.pc.toNat < s.here.codeLen && (s.here.code.read s.me.pc.toNat).toNat % 4 == 3

/-- The issue of a slot of a core (R69, R71): the clocks, the watchdog before the issue, the fetch. -/
def State.issueSlot (s : State) (core slot : Nat) : Fetched :=
  let s := State.tick { s with cur := core, slot := slot }
  if !s.me.runnable then .done s
  else
    let s := s.updHere (·.updBar fun b => { b with last := slot })
    if s.here.bar.wdlim ≠ 0#64 ∧ s.here.bar.wdlim.toNat ≤ s.me.wdcnt.toNat then .run (.wdogExpiry core slot) s
    else s.fetch

/-- A turn of a slot of a core: a fetch-control word is consumed by the fetch stage, which takes its ILLEGAL trap too, and takes no barrel
slot (R40); else the slot issues. -/
def State.issue (s : State) (core slot : Nat) : Fetched :=
  let t := { s with cur := core, slot := slot }
  if t.me.runnable && t.atControl then t.fetch else s.issueSlot core slot

/-! ### What a core owes before it issues (R70, R71, R381) -/

/-- Whether an event is an act of a core or of one of its engines, which none takes outside RUN (R364). -/
def coreAct : Instr → Bool
  | .wdogExpiry .. | .contextWaitEnd .. | .heldInstructionComplete .. | .channelWordArrival .. | .channelCreditReturn ..
  | .dryNotice .. | .engineQueueHeadStart .. | .matrixStep .. | .copyEnd .. | .copyReplay .. | .reductionApplyPhase ..
  | .eventRecordEnter .. | .pressRequestComplete .. | .ropeEditStart .. | .ropeEditCommit .. | .refcntUpdateArrival ..
  | .reclaimEngineStep .. | .ropeCacheDrop .. | .poolReturn .. | .amArrival .. | .amHandlerStart .. | .builtinStore ..
  | .builtinAtomic .. | .builtinLoad .. | .amReplyArrival .. | .nodeRestart .. | .twinCompare .. | .twinSilenceTimeout ..
  | .launchHandout | .passDispatch .. | .tasteRetain .. | .tileArrival .. | .scanComplete .. | .sccServiceScan ..
  | .collectiveComplete .. | .collectiveTimeout .. => true
  | _ => false

/-- Whether cores and engines take steps: in RUN, and while an entry into PARK or SLEEP is under way (R364). -/
def State.powered (s : State) : Bool := inRun s

/-- The ends and starts that the copy queue of a core may owe. -/
def copyActs (c : Core) (i : Nat) : List Instr :=
  (c.en.flight.flatMap fun
    | .copy m => [.reductionApplyPhase i m.tid, .copyEnd i m.tid .local]
    | .coll _ => []) ++
  if c.en.copyQ.isEmpty then [] else [.engineQueueHeadStart i .copy]

/-- The acts that a core and its engines may owe, in the order of R381: completions and arrivals, then what starts or is let in by
them, then the ends of waits and of held instructions, and watchdogs. -/
def owedActs (c : Core) (i : Nat) : List Instr :=
  [.eventRecordEnter i] ++
  ([0, 1].flatMap fun ch => [.channelWordArrival i ch, .channelCreditReturn i ch]) ++
  (if c.li.replies.isEmpty then [] else [.amReplyArrival i]) ++
  (if c.li.amIn.isEmpty then [] else [.amArrival i]) ++
  (if c.li.mailbox.isEmpty then [] else [.builtinStore i, .builtinAtomic i, .builtinLoad i, .amHandlerStart i]) ++
  (c.en.press.entries.map fun e => .pressRequestComplete i e.1) ++
  (if c.en.seq.isSome then [.matrixStep i] else []) ++
  (if c.en.matQ.isEmpty then [] else [.engineQueueHeadStart i .matrix]) ++
  copyActs c i ++
  (if c.en.editRun.isSome then [.ropeEditCommit i] else []) ++
  (if c.en.editRun.isNone && c.en.ropeQ.isEmpty then [] else [.engineQueueHeadStart i .rope]) ++
  (if c.run.isSome then [.tasteRetain i] else []) ++
  (c.bar.ctxs.entries.flatMap fun e =>
    (if e.2.wait.isSome then [Instr.contextWaitEnd i e.1] else []) ++
    (if e.2.held.isSome then [Instr.heldInstructionComplete i e.1, Instr.wdogExpiry i e.1] else []))

/-- Whether an act changes anything. -/
def State.acts (s : State) (i : Instr) : Bool :=
  match exec i s with
  | .next t => t != s
  | _ => false

/-- The first act of the current core that changes anything: it is taken before any context issues (R381). -/
def State.owedEvent (s : State) : Option Instr := (owedActs s.here s.cur).find? s.acts

/-- A turn of the agenda: an event of the table, which as an act of a core has no effect outside RUN (R364). -/
def State.eventTurn (s : State) (i : Instr) : Out :=
  if i.isEvent && i.eventOk then (if coreAct i && !s.powered then .next s else exec i s) else .fault .noSuchEvent

/-- What a fetch came to is carried out. -/
def runFetched : Fetched → Out
  | .done s => .next s
  | .run i s => exec i s

/-- A turn that the agenda gives to one context. -/
def State.issueTurn (s : State) (core slot : Nat) : Out :=
  if core < numCores ∧ slot < 12 then (if s.powered then runFetched (s.issue core slot) else .next s)
  else .fault .noSuchContext

/-- A turn of the current core with an empty agenda: an act that it owes, else the issue of its next slot, else only its clocks
(R69, R381). -/
def State.coreTurn (s : State) : Out :=
  if s.cur < numCores ∧ s.slot < 12 then
    if !s.powered then .next s
    else match s.owedEvent with
      | some i => exec i s
      | none => match s.here.nextSlot with
        | some k => runFetched (s.issue s.cur k)
        | none => .next s.tick
  else .fault .noSuchContext

/-- The bytes of a table word in the code image. -/
def tableBytes (nbits w : Nat) : List Byte := leBytes (nbits / 8) w

/-- A core with a live control context at offset 0 of a code image that holds the bytes. -/
def Core.placed (c : Core) (bytes : List Byte) : Core :=
  { c.updCtx 0 (fun x => { x with live := true, pc := 0#64, winV := true, winSize := 3#2, winBase := 0, wdcnt := 0#64,
                                  wait := none, held := none, dbgHalt := false }) with
    code := Mem.writeBytes [] 0 bytes, codeLen := 32 }

/-- Whether level U without debug may execute the bytes. -/
def userBytes (bytes : List Byte) : Bool :=
  match decode false false (bytes ++ List.replicate (32 - bytes.length) 0#8) with
  | .ok _ => true
  | .error _ => false

end Sys2Proof.Machine
end

