-- ==== Sys2Proof/Machine/Step.lean ====
section
/-!
DEFINITION. One step of the machine: the next turn of the agenda, or of the core whose turn it is, and what runs in it.
-/
namespace Sys2Proof.Machine

/-- One step: the first turn of the agenda; else a turn of the current core (R69, R381). -/
def step (s : State) : Host.Outcome State Fault Refusal :=
  match s.agenda with
  | .event i :: rest => State.eventTurn { s with agenda := rest } i
  | .issue core slot :: rest => State.issueTurn { s with agenda := rest } core slot
  | .outside x :: rest => State.outsideTurn { s with agenda := rest } x
  | [] => s.coreTurn

/-- The state with an instruction where the next step fetches: the module in RUN and READY, a live control context at offset 0
of a code image that holds the word, and the next turn its own. Level S and invasive debug are set only for a word that level U
may not execute (log 2). -/
def State.withFetchWord (s : State) (nbits w : Nat) : State :=
  let bytes := tableBytes nbits w
  let i := if s.cur < numCores then s.cur else 0
  let s := (s.updCore i (·.placed bytes)).updMod fun m => { m with power := .run, phase := .ready }
  let s := if userBytes bytes then s
    else (s.updCluster (coreCluster i) fun q => { q with service := some (corePhys i) }).updMod fun m => { m with dbg := .invasive }
  { s with cur := i, slot := 0, agenda := [.issue i 0] }

end Sys2Proof.Machine
end

