-- ==== Sys2Proof/Safety.lean ====
section
/-!
DEFINITION. The terms of the statements: what stays of a state, a context or the bytes of a scratchpad, and where a context that
takes a trap goes.
-/
namespace Sys2Proof.Machine

/-- The rational number that a value stands for; 0 for NaN and the infinities, of which the statements speak apart (R47). -/
def Val.toRat : Val → ℚ
  | .num n m e => (if n then -1 else 1) * (m : ℚ) * (2 : ℚ) ^ e
  | _ => 0

/-- A value is a number, that of `r` (R47). -/
def Val.IsNum (v : Val) (r : ℚ) : Prop := (∃ n m e, v = .num n m e) ∧ v.toRat = r

/-- The integer that a mode rounds `x` to (R54). -/
def Rnd.Rounds (rnd : Rnd) (x : ℚ) (i : Int) : Prop :=
  match rnd with
  | .rne => |x - i| ≤ 1 / 2 ∧ (|x - i| = 1 / 2 → i % 2 = 0)
  | .rtz => |(i : ℚ)| ≤ |x| ∧ |x| < |(i : ℚ)| + 1 ∧ 0 ≤ i * x
  | .rdn => i ≤ x ∧ x < i + 1
  | .rup => x ≤ i ∧ i - 1 < x
  | .rto => x = i ∨ i % 2 = 1 ∧ |x - i| < 1

/-- A value on the extended real line, −0 and +0 as one; what it gives a NaN no statement uses (R47, R138). -/
noncomputable def Val.toEReal : Val → EReal
  | .inf true => ⊥
  | .inf false => ⊤
  | v => ((v.toRat : ℝ) : EReal)

/-- A code with its flags is a real number rounded once as a mode has it (R54, R55): two numbers around it round so, and it alone where it
is a number of the model's values. -/
def Fmt.RoundsOnce (F : Fmt) (rnd : Rnd) (sat ftz : Bool) (x : ℝ) (r : Nat × Flags) : Prop :=
  ∃ (v w : Val) (a b : ℚ), v.IsNum a ∧ w.IsNum b ∧ a ≤ x ∧ x ≤ b ∧ ((∃ (u : Val) (q : ℚ), u.IsNum q ∧ q = x) → a = x ∧ b = x) ∧
    F.pack rnd sat ftz v = r ∧ F.pack rnd sat ftz w = r

/-- The matrix unit's accumulation (R62, R58): code `v` is the sum of code `u` and `r`, rounded to nearest f32 and flushed. -/
def Accumulates (r : ℚ) (u v : Nat) : Prop :=
  ∃ x : Val, x.IsNum ((f32.unpack true u).toRat + r) ∧ v = f32.flush (f32.pack .rne false false x).1

/-- The elements' bytes of a rope under construction, where `f` gives those of the rope at each address (R181, R188). -/
def RT.seq (f : Nat → List Byte) : RT → List Byte
  | .old va _ => f va
  | .leaf _ data => data
  | .node _ l t => l.seq f ++ t.seq f

/-- The nodes of a rope under construction carry a schema and the LEN of the elements below them (R181, R182). -/
def RT.Sized (f : Nat → List Byte) (sch : Nat) : RT → Prop
  | .old va r => r.schema = sch ∧ (f va).length = r.len * schemaEsz sch
  | .leaf r data => r.schema = sch ∧ r.leaf = true ∧ data.length = r.len * schemaEsz sch
  | .node r l t => r.schema = sch ∧ r.leaf = false ∧ r.len = l.len + t.len ∧ l.Sized f sch ∧ t.Sized f sch

/-- In every state that `I` allows, memory holds the ropes that `f` names, under one schema: what an access reads of a record or a piece
agrees with `f`, and leaves a state that `I` allows. -/
structure RopeReads (a : Access) (I : State → Prop) (f : Nat → List Byte) (sch : Nat) : Prop where
  root : ∀ va s t u, I s → rootOf a va s = .ok (some t, u) → I u ∧ t.Sized f sch
  kids : ∀ va r s l y u, I s → RT.kids a (.old va r) s = .ok ((l, y), u) →
    I u ∧ l.Sized f sch ∧ y.Sized f sch ∧ f va = l.seq f ++ y.seq f ∧ r.len = l.len + y.len
  elems : ∀ va r o m s b u, I s → RT.elems a (.old va r) o m s = .ok (b, u) →
    I u ∧ b = ((f va).drop (o * schemaEsz sch)).take (m * schemaEsz sch)
  mem : ∀ va n s b u, I s → readMem a va n s = .ok (b, u) → I u

/-- Scalar fields that name g registers, not channels (R28). -/
def Plain (fs : List Fld) : Prop := ∀ f ∈ fs, f.toNat < 32

/-- Of a context, everything an instruction may leave alone stays, but the registers listed by number: scalars, predicates, lane
masks; FMODE is said apart, and the pc and the context's waits are not said. -/
def Ctx.Kept (x y : Ctx) (gs ps ks : List Nat) : Prop :=
  (∀ r, r ∉ gs → y.rg r = x.rg r) ∧ (∀ r, r ∉ ps → y.rp r = x.rp r) ∧ (∀ r, r ∉ ks → y.rk r = x.rk r)
  ∧ y.live = x.live ∧ y.winV = x.winV ∧ y.winSize = x.winSize ∧ y.winBase = x.winBase ∧ y.tvec = x.tvec ∧ y.epc = x.epc
  ∧ y.ecause = x.ecause ∧ y.eval = x.eval ∧ y.wdcnt = x.wdcnt ∧ y.rotSel = x.rotSel ∧ y.cdSel = x.cdSel
  ∧ y.dbgHalt = x.dbgHalt

namespace State

/-- Every memory has its canonical form: HBM, each core's scratchpad and code image, each cluster's press SRAM, and the part of each
host's memory that the module has written. -/
def MemoriesWf (s : State) : Prop :=
  s.mod.mem.hbm.wf = true ∧ (∀ c ∈ s.cores.entries, c.2.sp.mem.wf = true ∧ c.2.code.wf = true)
  ∧ (∀ q ∈ s.clusters.entries, q.2.sram.wf = true) ∧ ∀ f ∈ s.mod.chans.entries, f.2.hostMem.wf = true

/-- Everything outside the core whose turn it is stays: every other core, the clusters, the dies, the module, the turn fields. -/
def SameOutside (s t : State) : Prop :=
  (∀ j, j ≠ s.cur → t.core j = s.core j) ∧ t.clusters = s.clusters ∧ t.dies = s.dies ∧ t.mod = s.mod
  ∧ t.cur = s.cur ∧ t.slot = s.slot ∧ t.agenda = s.agenda ∧ t.free = s.free

/-- Everything outside the context whose turn it is stays: of its core every other context, the barrel's fields, the vector and
matrix side, the scratchpad side, the engines, the links, the run and the code image. -/
def SameOutsideCtx (s t : State) : Prop :=
  s.SameOutside t ∧ (∀ k, k ≠ s.slot → t.here.ctx k = s.here.ctx k)
  ∧ t.here = { s.here with bar := { s.here.bar with ctxs := t.here.bar.ctxs } }

/-- The state with its turn given to a slot of a core. -/
def turnOf (s : State) (rest : List Turn) (core slot : Nat) : State := { s with agenda := rest, cur := core, slot := slot }

/-- The state in which a barrel slot issues: the clocks of the turn have advanced and the slot is the last that issued. -/
def issuing (s : State) : State := (State.tick s).updHere fun c => c.updBar fun b => { b with last := s.slot }

/-- The watchdog of the context whose turn it is has not expired once this turn is counted (R71). -/
def WdogQuiet (s : State) : Prop := s.here.bar.wdlim = 0#64 ∨ (s.me.wdcnt + 1#64).toNat < s.here.bar.wdlim.toNat

/-- What a word at the pc of the context whose turn it is decodes to (R43). -/
def decoded (s : State) : Except DecodeError Packet :=
  decode (s.isService s.cur) (s.mod.dbg == .invasive) (s.here.blockBytes s.me.pc.toNat)

/-- Two scalar sources read in the field order A, B: their values, and the state in which their channel words are gone (R75). -/
def readTwo (s : State) (a b : Fld) : Word × Word × State :=
  ((s.getScalar a).1, ((s.getScalar a).2.getScalar b).1, ((s.getScalar a).2.getScalar b).2)

/-- The context whose turn it is keeps everything outside it and everything of its own but the pc, its waits and the registers
listed; FMODE stays. -/
def KeepsAll (s t : State) (gs ps ks : List Nat) : Prop :=
  s.SameOutsideCtx t ∧ s.me.Kept t.me gs ps ks ∧ t.me.fmode = s.me.fmode

/-- What a vector instruction that writes at most the vector register D keeps: everything outside the core, every other context,
every register of its own, the scratchpad, engines and links, every other physical vector register, the matrix side, the tables;
FMODE and the operand latches are said apart. -/
def VecKeeps (s t : State) (d : Fld) : Prop :=
  s.SameOutside t ∧ s.me.Kept t.me [] [] [] ∧ t.me.pc = s.me.pc + 8#64 ∧ (∀ k, k ≠ s.slot → t.here.ctx k = s.here.ctx k)
  ∧ t.here.sp = s.here.sp ∧ t.here.en = s.here.en ∧ t.here.li = s.here.li ∧ t.here.run = s.here.run
  ∧ t.here.code = s.here.code
  ∧ (∀ n, n ≠ s.me.phys d.toNat → t.here.un.vfile.get n 0#1024 = s.here.un.vfile.get n 0#1024)
  ∧ t.here.un.accs = s.here.un.accs ∧ t.here.un.mla = s.here.un.mla ∧ t.here.un.mcfg = s.here.un.mcfg
  ∧ t.here.un.bands = s.here.un.bands

/-- A vector instruction has written D element by element under its mask (R133): the enabled elements take the results, the others 0
under zeroing and their old value under merging; the flags of the enabled elements alone gather in FMODE (R59, R60). -/
def VecDone (s t : State) (d : Fld) (e : VEnv) (f : Nat → Nat × Flags) : Prop :=
  (∀ j < 1024 / e.w, elem e.w (t.here.rv s.slot d.toNat) j =
    if e.k.getLsbD (j * e.w / 32) then (f j).1 % 2 ^ e.w else if e.z then 0 else elem e.w (s.here.rv s.slot d.toNat) j)
  ∧ t.me.fmode = (List.range (1024 / e.w)).foldl
      (fun m j => if e.k.getLsbD (j * e.w / 32) then m ||| (f j).2.bits else m) s.me.fmode
  ∧ s.VecKeeps t d

/-- What a direct matrix instruction that changes accumulators keeps: everything outside the core, the context's registers, the
scratchpad, engines and links, the vector file, the matrix latches and configuration. -/
def AccKeeps (s t : State) : Prop :=
  s.SameOutside t ∧ s.me.Kept t.me [] [] [] ∧ t.me.fmode = s.me.fmode ∧ t.me.pc = s.me.pc + 8#64
  ∧ (∀ k, k ≠ s.slot → t.here.ctx k = s.here.ctx k) ∧ t.here.sp = s.here.sp ∧ t.here.en = s.here.en ∧ t.here.li = s.here.li
  ∧ t.here.un.vfile = s.here.un.vfile ∧ t.here.un.mla = s.here.un.mla ∧ t.here.un.mcfg = s.here.un.mcfg

/-- The context whose turn it is owes no deferred trap (R382). -/
def NoDefer (s : State) : Prop := ∀ q ∈ s.here.en.defers, q.owner ≠ s.slot

/-- The command that a tile instruction of the context whose turn it is enters in the matrix queue: its operands and the snapshots
of FMODE, the configuration and the SEEN row (R61, R155, R158). -/
def tileCmd (s : State) (i : Instr) (ga gb gd : Word) (idx : VReg) (hslot : Option Nat) : MatCmd :=
  { instr := i, owner := s.slot, bits := s.here.code.readLE s.me.pc.toNat 16, slot := s.slot, ga := ga, gb := gb, gd := gd,
    idx := idx, fmode := s.me.fmode, cfg := s.here.un.mcfg, row := s.here.sp.seenRow s.slot, hslot := hslot }

end State

/-- Each operand latch that is valid holds the current value of the register it records (R111). -/
def Core.Coherent (c : Core) : Prop := ∀ p l, c.un.latch p = some l → l.val = c.un.vfile.get l.reg 0#1024

/-- No element of the vector registers that the fields name in a context is poisoned (R130). -/
def Core.Clean (c : Core) (k : Nat) (fs : List Fld) : Prop := ∀ f ∈ fs, ∀ e ∈ c.un.poisonV, e / 32 ≠ (c.ctx k).phys f.toNat

end Sys2Proof.Machine
end

