-- ==== Sys2Proof/Certificates/Slice0/Obligations.lean ====
section
/-!
DEFINITION. The statements for the provers, each named for what it states.
-/
open Sys2Proof Sys2Proof.Machine

/-! ### Turns, fetch and decode -/

/-- A turn that the agenda gives to a runnable context whose watchdog has not expired runs the instruction decoded at its pc: where
its predicate holds, the step is `exec` of it at the state in which the turn's clocks have advanced, and otherwise only the pc
moves past its bytes (R27, R43 steps 12 and 13, R69, R71). -/
def Obligations.StepRunsDecoded : Prop :=
  ∀ (s : State) (core slot : Nat) (rest : List Turn) (p : Packet),
    s.agenda = .issue core slot :: rest → core < numCores → slot < 12 → inRun s = true →
    let t := s.turnOf rest core slot
    t.me.runnable = true → t.WdogQuiet → t.me.pc.toNat < t.here.codeLen → t.decoded = .ok p →
    p.op ≠ .pad → (∀ n, p.op ≠ .pool n) → regwin t.me p.op = none →
    step s = if t.me.holds p.pr then exec p.op t.issuing else .next (t.issuing.advance p.op.len)

/-- PAD and POOL are consumed by the fetch: their step takes no barrel slot, and the slot that issued last stays; that no clock moves in
that step is the model's choice (log 21);
PAD sends fetch to the start of the next 32-byte block and POOL N to the start of the block N + 1 blocks on (R40).
A word with LEN 0b11 that does not decode takes its trap in the same way, without a slot, so before the watchdog counts (R39, R40).
What the fetch of a barrel slot traps on, in the order of R43: an address outside the code image traps BOUNDS with that
address (R91); a word that does not decode traps PRIV where the level or debug forbids it and ILLEGAL otherwise, with the
instruction's bytes in EVAL; a vector register outside the window traps REGWIN (R67); the watchdog comes before all of them (R71). -/
def Obligations.FetchControlAndTraps : Prop :=
  (∀ (s : State) (core slot : Nat) (rest : List Turn) (i : Instr),
    s.agenda = .issue core slot :: rest → core < numCores → slot < 12 → inRun s = true →
    let t := s.turnOf rest core slot
    t.me.runnable = true → t.me.pc.toNat < t.here.codeLen → t.decoded = .ok ⟨0#4, i⟩ →
    (i = .pad → step s = exec .pad t ∧ exec .pad t = .next (t.jump (BitVec.ofNat 64 (32 * (t.me.pc.toNat / 32 + 1))))) ∧
    (∀ n, i = .pool n →
      step s = exec (.pool n) t ∧
      exec (.pool n) t = .next (t.jump (BitVec.ofNat 64 (32 * (t.me.pc.toNat / 32 + n.toNat + 1)))))) ∧
  (∀ (s : State) (core slot : Nat) (rest : List Turn),
    s.agenda = .issue core slot :: rest → core < numCores → slot < 12 → inRun s = true →
    let t := s.turnOf rest core slot
    t.me.runnable = true →
    (t.WdogQuiet → t.here.codeLen ≤ t.me.pc.toNat → step s = .next (t.issuing.takeTrap .bounds t.me.pc)) ∧
    (∀ e, t.WdogQuiet → t.me.pc.toNat < t.here.codeLen → t.decoded = .error e →
      (t.here.code.read t.me.pc.toNat).toNat % 4 ≠ 3 →
      step s = .next (t.issuing.takeTrap (if e.isPriv then .priv else .illegal) t.bytesHere)) ∧
    (∀ e, t.me.pc.toNat < t.here.codeLen → t.decoded = .error e → (t.here.code.read t.me.pc.toNat).toNat % 4 = 3 →
      step s = .next (t.takeTrap (if e.isPriv then .priv else .illegal) t.bytesHere)) ∧
    (∀ p v, t.WdogQuiet → t.me.pc.toNat < t.here.codeLen → t.decoded = .ok p → p.op ≠ .pad → (∀ n, p.op ≠ .pool n) →
      regwin t.me p.op = some v → step s = .next (t.issuing.takeTrap .regwin v)) ∧
    (¬ t.WdogQuiet → (t.here.codeLen ≤ t.me.pc.toNat ∨ (t.here.code.read t.me.pc.toNat).toNat % 4 ≠ 3) →
      step s = exec (.wdogExpiry core slot) t.issuing))

/-- An event of the agenda whose operands lie within the machine is carried out; one that is an act of a core or of its engines
has no effect outside RUN (R364); an act of the outside that has no row of the table is carried out where it names what the machine has:
an uncorrectable error poisons what it hits (R130), the SCC sets a quota (R296, R335), a page is exported or taken back (R367), the module
learns its address (R365), a host reads BAR 0, where CHSTATE holds BOOTS, MSYNC and PHASE and every other offset reads 0 (R336), all ones
in PARK and SLEEP (R364); any other turn of the agenda stops with a fault, which is the model's form of what no agent does (log 8).
That one step is one turn, and that the agenda gives it, is the model's choice (log 1); so is that the message slots and HACK, which are for
writes, read 0 as the reserved offsets do (log 48).
A turn or a current core that names no core below 5,120 or no slot below 12 stops with a fault: the machine has no such context
(R1, R65). -/
def Obligations.StepRunsEvent : Prop :=
  (∀ (s : State) (i : Instr) (rest : List Turn), s.agenda = .event i :: rest →
    (i.isEvent = true → i.eventOk = true → (coreAct i = false ∨ inRun s = true) → step s = exec i { s with agenda := rest }) ∧
    (i.isEvent = true → i.eventOk = true → coreAct i = true → inRun s = false → step s = .next { s with agenda := rest }) ∧
    (i.isEvent = false ∨ i.eventOk = false → step s = .fault .noSuchEvent)) ∧
  (∀ (s : State) (x : Outside) (rest : List Turn), s.agenda = .outside x :: rest →
    let u := { s with agenda := rest }
    (outsideOk x = false → step s = .fault .noSuchEvent) ∧
    (outsideOk x = true → step s = .next (outsideAct u x)) ∧
    (∀ c w, x = .softError c (.spad w) → outsideOk x = true → inRun s = true →
      ∃ t, step s = .next t ∧ w ∈ (t.core c).sp.poison ∧ (∀ y, y ≠ w → (y ∈ (t.core c).sp.poison ↔ y ∈ (s.core c).sp.poison)) ∧
        (t.core c).sp.mem = (s.core c).sp.mem ∧ ∀ j, j ≠ c → t.core j = s.core j) ∧
    (∀ n pages, x = .setQuota n pages → n < 16 → ∃ t, step s = .next t ∧ t.mod.mem.quota.get n State.quotaReset = pages ∧
      (∀ k, k ≠ n → t.mod.mem.quota.get k State.quotaReset = s.mod.mem.quota.get k State.quotaReset) ∧ t.cores = s.cores) ∧
    (∀ n page on, x = .exportPage n page on → n < 16 → page < 2 ^ 25 → s.mod.exported.Nodup → ∃ t, step s = .next t ∧
      ((n, page) ∈ t.mod.exported ↔ on = true) ∧ (∀ e, e ≠ (n, page) → (e ∈ t.mod.exported ↔ e ∈ s.mod.exported)) ∧ t.cores = s.cores) ∧
    (∀ a, x = .moduleAddress a → a.toNat < 768 * 1024 → step s = .next (u.updMod fun m => { m with addr := a })) ∧
    (∀ fn off, x = .barRead fn off → fn ≤ 16 → off % 8 = 0 → s.mod.power ≠ .off →
      ∃ v t, step s = .next t ∧ t.mod.barOut = s.mod.barOut ++ [(fn, off, v)] ∧ t.cores = s.cores ∧
        (s.mod.power = .park ∨ s.mod.power = .sleep → v = BitVec.allOnes 64) ∧
        (inRun s = true → off = 0x1208 → v.toNat / 2 ^ 32 = s.mod.boots % 2 ^ 32 ∧ v.getLsbD 7 = (s.chan fn).msync ∧
          v.toNat % 4 = (match s.mod.phase with
            | .boot => 0 | .ready => 1 | .romOnly => 2) ∧ v.toNat / 4 % 32 = 0 ∧ v.toNat / 256 % 2 ^ 24 = 0) ∧
        (inRun s = true → off ≠ 0x1208 → v = 0#64))) ∧
  (∀ (s : State) (core slot : Nat) (rest : List Turn), numCores ≤ core ∨ 12 ≤ slot →
    (s.agenda = .issue core slot :: rest → step s = .fault .noSuchContext) ∧
    (s.agenda = [] → s.cur = core → s.slot = slot → step s = .fault .noSuchContext))

/-- With an empty agenda the current core takes the first act that it owes and that changes something (R381); where it owes none,
the barrel gives the turn to the first runnable context in slot order after the slot that issued last, from 11 to 0 (R69); and
where none is runnable only the clocks advance. -/
def Obligations.CoreTurn : Prop :=
  ∀ (s : State), s.agenda = [] → s.cur < numCores → s.slot < 12 → inRun s = true →
    (∀ i, s.owedEvent = some i → ∃ t, exec i s = .next t ∧ t ≠ s ∧ step s = .next t) ∧
    (∀ k, s.owedEvent = none → k < 12 → (s.here.ctx ((s.here.bar.last + 1 + k) % 12)).runnable = true →
      (∀ j < k, (s.here.ctx ((s.here.bar.last + 1 + j) % 12)).runnable = false) →
      step s = runFetched (s.issue s.cur ((s.here.bar.last + 1 + k) % 12))) ∧
    (s.owedEvent = none → (∀ k < 12, (s.here.ctx k).runnable = false) → step s = .next s.tick)

/-- Words written out from the encoding tables decode to the instruction they stand for: `TRAP 0x42` of R92, `CALL` of R99,
`SYSR g4, EVAL` of R94 and `HSTART p1, g5, g6, worker, 12` of R102. -/
def Obligations.WordsOfTheSpec : Prop :=
  decode false false (leBytes 8 0x0000210040000000) = .ok ⟨0#4, .trap 0x42#25⟩ ∧
  decode false false (leBytes 8 0x000010004000002C) = .ok ⟨0#4, .call 32#25⟩ ∧
  decode false false (leBytes 8 0x0000098100004000) = .ok ⟨0#4, .sysr 4#6 0x013#12⟩ ∧
  decode false false (leBytes 8 0x0001C08041185034) = .ok ⟨0#4, .hstart 1#3 5#6 6#6 1#6 112#22⟩

/-- Decoding inverts encoding: for every well-formed instruction that is no event, with every operand at every value its encoding
admits and every predicate field but the reserved 0b1000, the bytes of the instruction, whatever follows them, decode to it at
level S under invasive debug; PAD and POOL carry no predicate (R25 to R41). -/
def Obligations.DecodeInvertsEncode : Prop :=
  ∀ (i : Instr) (pr : BitVec 4) (rest : List Byte), i.wf = true → i.isEvent = false → pr ≠ 8#4 →
    ∃ q, decode true true (encodeBytes pr i ++ rest) = .ok ⟨q, i⟩ ∧ (i ≠ .pad → (∀ n, i ≠ .pool n) → q = pr)

/-! ### Reset, traps, the system group -/

/-- After reset: PHASE is BOOT; WDLIM is 2^24, CYCLE, AMTAB and the join counters are 0 and no context
exists (R71, R95, R97); logical core l of a cluster is physical core l,
physical core 8 the reserve and 9 the service core, and every role entry is ROLE 2 with its outputs unwired (R208, R209); no launch
exists. That all dies are live, the live mask 0xFF, is the model's choice (log 63), that the power state is OFF its reading (log 18), and that a context that has never started reads 0 in
its registers, true in p0 and all lanes in k0 is the model's choice (log 63): R66 gives those values for a context's start.
After reset every memory lists nothing and so has its canonical form: HBM, every scratchpad, code image and press SRAM; each
reads as 0 everywhere, which for the press SRAM is the model's choice (log 3). -/
def Obligations.ResetLeaves : Prop :=
  (State.reset.mod.phase = .boot ∧ State.reset.mod.power = .off ∧ State.reset.mod.live = 0xFF#8 ∧
  (∀ l, State.reset.mod.launches.get? l = none) ∧
  (∀ i, (State.reset.core i).bar.wdlim = BitVec.ofNat 64 (2 ^ 24) ∧ (State.reset.core i).bar.cycle = 0#64 ∧
    (State.reset.core i).bar.amtab = 0#64 ∧ (State.reset.core i).bar.forks = [] ∧ (State.reset.core i).run = none ∧
    (State.reset.core i).en.events = [] ∧ (∀ n, (State.reset.core i).bar.jcnt.get n 0 = 0) ∧
    ∀ k, ((State.reset.core i).ctx k).live = false ∧ ((State.reset.core i).ctx k).fmode = 0#64 ∧
      ((State.reset.core i).ctx k).tvec = 0#64 ∧ ((State.reset.core i).ctx k).epc = 0#64 ∧
      ((State.reset.core i).ctx k).ecause = 0#64 ∧ ((State.reset.core i).ctx k).eval = 0#64 ∧
      (∀ r, ((State.reset.core i).ctx k).rg r = 0#64) ∧ ((State.reset.core i).ctx k).rp 0 = true ∧
      (∀ r, 0 < r → ((State.reset.core i).ctx k).rp r = false) ∧ ((State.reset.core i).ctx k).rk 0 = 0xFFFFFFFF#32 ∧
      ∀ r, 0 < r → ((State.reset.core i).ctx k).rk r = 0#32) ∧
  (∀ q, (∀ l < 8, State.reset.logicalCore q l = some (10 * q + l)) ∧ State.reset.logicalCore q 8 = none ∧
    (State.reset.cluster q).reserve = some 8 ∧ (∀ j < 10, State.reset.isService (10 * q + j) = (j == 9)) ∧
    ∀ l, (State.reset.roleEntry q l).toNat / 2 ^ 30 = 2 ∧ (State.reset.roleEntry q l).toNat / 2 ^ 18 % 16 = 15 ∧
      (State.reset.roleEntry q l).toNat / 2 ^ 13 % 16 = 15)) ∧
  (State.reset.MemoriesWf ∧ State.reset.mod.mem.hbm.wf = true ∧
  (∀ i, (State.reset.core i).sp.mem.wf = true ∧ (State.reset.core i).code.wf = true) ∧
  (∀ q, (State.reset.cluster q).sram.wf = true) ∧
  ∀ a, State.reset.mod.mem.hbm.read a = 0#8 ∧ (∀ i, (State.reset.core i).sp.mem.read a = 0#8) ∧
    ∀ q, (State.reset.cluster q).sram.read a = 0#8)

/-- A vectored trap outside the service slot is one step (R72): EPC holds the address of the instruction, ECAUSE the code of R73,
EVAL the cause's value, TVEC becomes 0 and fetch goes to the old TVEC; nothing outside the context changes, and none of its
registers. TRAP takes it with cause TRAPI, BKPT with cause BKPT where invasive debug is not authorised (R92). -/
def Obligations.TrapVectors : Prop :=
  ∀ (s : State) (imm : BitVec 25), s.slot ≠ 11 → s.me.tvec ≠ 0#64 →
    (∀ cause v, let t := s.takeTrap cause v
      s.SameOutsideCtx t ∧ t.me = { s.me with epc := s.me.pc, ecause := BitVec.ofNat 64 (causeCode cause), eval := v, tvec := 0#64,
                                              pc := s.me.tvec, wait := none, held := none, heldOn := none, declared := none }) ∧
    exec (.trap imm) s = .next (s.takeTrap .trapi (imm.setWidth 64)) ∧
    (s.mod.dbg ≠ .invasive → exec (.bkpt imm) s = .next (s.takeTrap .bkpt (imm.setWidth 64))) ∧
    [Cause.illegal, .priv, .align, .bounds, .regwin, .mmx, .wdog, .handle, .guard, .rope, .graph, .cadence, .press, .copy, .trapi,
      .bkpt, .channel, .mapstale, .quota].map causeCode = (List.range 19).map (· + 1)

/-- With TVEC 0 the context halts (R72): the service core of the cluster is told the core, slot, EPC, ECAUSE and EVAL; the halt ends
the node, so every context on the core has stopped, with its registers as they were, its queued commands are gone, and the run's node is
FAILED with the cause recorded, the state that R258 gives a node that ends in failure and R226 one that is not restarted; R72 does not name
it, and that every such halt comes to it is the model's reading (log 34).
The service slot never vectors (R72): a trap there abandons the handler, its reply is TRAPPED with the cause and EVAL and brings the handler's release (R215, R216), the
slot is free and the service core is told. -/
def Obligations.TrapHalts : Prop :=
  (∀ (s : State) (cause : Cause) (v : Word) (r : Run), s.slot ≠ 11 → s.me.tvec = 0#64 → s.here.run = some r →
    r.kind = .original → r.twin = false → cause ≠ .channel → s.here.li.handling = none →
    let t := s.takeTrap cause v
    (t.cluster (coreCluster s.cur)).notices =
      (s.cluster (coreCluster s.cur)).notices ++ [.halt s.cur s.slot s.me.pc (BitVec.ofNat 64 (causeCode cause)) v (s.secretRun s.cur)] ∧
    (∀ k < 12, (t.here.ctx k).live = false ∧ (t.here.ctx k).g = (s.here.ctx k).g ∧ (t.here.ctx k).p = (s.here.ctx k).p ∧
      (t.here.ctx k).k = (s.here.ctx k).k) ∧ t.here.run = none ∧ t.here.en.matQ = [] ∧ t.here.en.copyQ = [] ∧ t.here.en.ropeQ = [] ∧
    (t.node (coreDie s.cur) r.launch r.node).st = .failed ∧
    (t.node (coreDie s.cur) r.launch r.node).cause = causeCode cause) ∧
  (∀ (s : State) (cause : Cause) (v : Word) (m : Msg), s.slot = 11 → s.here.li.handling = some m → m.th = none →
    m.also = none → m.src ≠ s.cur →
    let t := s.takeTrap cause v
    (t.cluster (coreCluster s.cur)).notices =
      (s.cluster (coreCluster s.cur)).notices ++ [.halt s.cur 11 s.me.pc (BitVec.ofNat 64 (causeCode cause)) v (s.secretRun s.cur)] ∧
    t.here.li.handling = none ∧ t.here.ctx 11 = {} ∧ (∀ k, k ≠ 11 → (t.here.ctx k).live = (s.here.ctx k).live) ∧
    let rel := (s.here.release 11).sp.relRow 11
    (t.core m.src).li.replies = (s.core m.src).li.replies ++
      [⟨m.reply, State.replyBytes 2 (causeCode cause) v, m.gen, if m.src = m.tgt then rel else rel.export m.tgt, m.launch⟩])

/-- ERET (R93): at level S, with t the value of A, bits [1:0] of t trap ILLEGAL with EVAL t; otherwise TVEC takes t and fetch goes
to EPC, in one step. At level U it traps PRIV with the instruction's bytes. -/
def Obligations.EretReturns : Prop :=
  ∀ (s : State) (a : Fld),
    (Instr.eret a).fields = some (mkFields 0x00#6 3#9 0#6 a 0#6 0#25, 0#64) ∧
    (s.isService s.cur = true → (s.me.rg a.toNat).toNat % 4 ≠ 0 → exec (.eret a) s = .next (s.takeTrap .illegal (s.me.rg a.toNat))) ∧
    (s.isService s.cur = true → (s.me.rg a.toNat).toNat % 4 = 0 →
      ∃ t, exec (.eret a) s = .next t ∧ s.SameOutsideCtx t ∧
        t.me = { s.me with tvec := s.me.rg a.toNat, pc := s.me.epc, wait := none, held := none, heldOn := none, declared := none }) ∧
    (s.isService s.cur = false → exec (.eret a) s = .next (s.takeTrap .priv s.bytesHere))

/-- SYSR writes D with the register the number names (R94, R95), SYSW and STOPST's clear write it where the access rules allow,
and nothing else of the context changes: the numbers of R95, each with its own place in the state, COORD, VWIN, ROTTAB and STOPST field by
field (R67, R68, R151, R245).
What SYSW refuses, in the order of R94: at level U a register that only level S writes traps PRIV with the instruction's bytes; a
read-only register traps ILLEGAL with the bytes; a value with a reserved bit or a forbidden code traps ILLEGAL with the value. -/
def Obligations.SystemRegisters : Prop :=
  (∀ (s : State) (d a : Fld), 
    (∀ num, ∃ t, exec (.sysr d num) s = .next t ∧ s.KeepsAll t [d.toNat] [] [] ∧ t.me.pc = s.me.pc + 8#64 ∧
      (d ≠ 0#6 → t.me.rg d.toNat = sysRead s s.cur s.slot num.toNat)) ∧
    sysRead s s.cur s.slot 0x001 = BitVec.ofNat 64 ((s.here.run.elim 0 fun r => r.wire.toNat / 2 ^ 22 % 256) * 2 ^ 20 + s.slot * 2 ^ 16
      + (if s.isService s.cur then 15 else (s.logicalNo s.cur).getD 15) * 2 ^ 12 + s.cur / 640 * 2 ^ 9 + s.cur / 10 % 64) ∧
    sysRead s s.cur s.slot 0x002 =
      BitVec.ofNat 64 ((if s.me.winV then 256 else 0) + s.me.winSize.toNat * 64 + s.me.winBase) ∧
    sysRead s s.cur s.slot 0x050 = BitVec.ofNat 64 (s.me.rotSel.toNat * 2 ^ 16 + s.here.un.bandVer.get s.me.rotSel.toNat 0) ∧
    sysRead s s.cur s.slot 0x060 = BitVec.ofNat 64
      (((List.range 16).map fun i => if s.here.en.matcher.strs.has i then 2 ^ (16 + i) else 0).sum + s.here.en.matcher.index * 2 ^ 9
        + (if s.here.en.matcher.hit then 256 else 0) + s.here.en.matcher.hold.length) ∧
    sysRead s s.cur s.slot 0x000 = s.me.fmode ∧ sysRead s s.cur s.slot 0x010 = s.me.tvec ∧
    sysRead s s.cur s.slot 0x011 = s.me.epc ∧ sysRead s s.cur s.slot 0x012 = s.me.ecause ∧
    sysRead s s.cur s.slot 0x013 = s.me.eval ∧ sysRead s s.cur s.slot 0x020 = s.here.bar.wdlim ∧
    sysRead s s.cur s.slot 0x021 = s.me.wdcnt ∧ sysRead s s.cur s.slot 0x022 = s.here.bar.cycle ∧
    sysRead s s.cur s.slot 0x030 = BitVec.ofNat 64 s.here.en.events.length ∧
    sysRead s s.cur s.slot 0x031 = BitVec.ofNat 64 s.here.bar.forks.length ∧
    (∀ n < 8, sysRead s s.cur s.slot (0x038 + n) = BitVec.ofNat 64 (s.here.bar.jcnt.get n 0)) ∧
    sysRead s s.cur s.slot 0x040 = s.here.bar.amtab ∧ sysRead s s.cur s.slot 0x070 = s.me.cdSel.setWidth 64 ∧
    (let v := s.me.rg a.toNat;
      (v.toNat < 0x1000 → v.toNat / 32 % 8 = 0 → v.toNat % 8 < 5 →
        exec (.sysw 0x000#12 a) s = .next ((s.updMe fun x => { x with fmode := v }).advance 8)) ∧
      (v.toNat % 4 = 0 → exec (.sysw 0x010#12 a) s = .next ((s.updMe fun x => { x with tvec := v }).advance 8)) ∧
      (v.toNat % 4 = 0 → exec (.sysw 0x011#12 a) s = .next ((s.updMe fun x => { x with epc := v }).advance 8)) ∧
      (1 ≤ v.toNat → v.toNat ≤ 0x13 → exec (.sysw 0x012#12 a) s = .next ((s.updMe fun x => { x with ecause := v }).advance 8)) ∧
      exec (.sysw 0x013#12 a) s = .next ((s.updMe fun x => { x with eval := v }).advance 8) ∧
      (s.isService s.cur = true → v.toNat < 2 ^ 32 →
        exec (.sysw 0x020#12 a) s = .next ((s.updHere (·.updBar fun b => { b with wdlim := v })).advance 8) ∧
        exec (.sysw 0x040#12 a) s = .next ((s.updHere (·.updBar fun b => { b with amtab := v })).advance 8)) ∧
      (v.toNat < 2 ^ 19 → exec (.sysw 0x050#12 a) s = .next ((s.updMe fun x => { x with rotSel := (v >>> 16).setWidth 3 }).advance 8)) ∧
      (v.toNat < 8 → exec (.sysw 0x070#12 a) s = .next ((s.updMe fun x => { x with cdSel := v.setWidth 3 }).advance 8)) ∧
      (v = 0#64 → exec (.stopstClear a) s =
        .next ((s.updHere (·.updEn fun e => { e with matcher := { e.matcher with hold := [], hit := false, index := 0 } })).advance 8)))) ∧
  (∀ (s : State) (a : Fld), let v := s.me.rg a.toNat
    (∀ num, num = 0x020#12 ∨ num = 0x040#12 → s.isService s.cur = false →
      exec (.sysw num a) s = .next (s.takeTrap .priv s.bytesHere)) ∧
    (∀ num, num = 0x001#12 ∨ num = 0x002#12 ∨ num = 0x021#12 ∨ num = 0x022#12 ∨ num = 0x030#12 ∨ num = 0x031#12 ∨
        (0x038 ≤ num.toNat ∧ num.toNat < 0x040) → exec (.sysw num a) s = .next (s.takeTrap .illegal s.bytesHere)) ∧
    (0x1000 ≤ v.toNat ∨ v.toNat / 32 % 8 ≠ 0 ∨ 5 ≤ v.toNat % 8 → exec (.sysw 0x000#12 a) s = .next (s.takeTrap .illegal v)) ∧
    (v.toNat % 4 ≠ 0 → exec (.sysw 0x010#12 a) s = .next (s.takeTrap .illegal v) ∧
      exec (.sysw 0x011#12 a) s = .next (s.takeTrap .illegal v)) ∧
    (v.toNat = 0 ∨ 0x13 < v.toNat → exec (.sysw 0x012#12 a) s = .next (s.takeTrap .illegal v)) ∧
    (s.isService s.cur = true → 2 ^ 32 ≤ v.toNat → exec (.sysw 0x020#12 a) s = .next (s.takeTrap .illegal v) ∧
      exec (.sysw 0x040#12 a) s = .next (s.takeTrap .illegal v)) ∧
    (2 ^ 19 ≤ v.toNat → exec (.sysw 0x050#12 a) s = .next (s.takeTrap .illegal v)) ∧
    (8 ≤ v.toNat → exec (.sysw 0x070#12 a) s = .next (s.takeTrap .illegal v)) ∧
    (v ≠ 0#64 → exec (.stopstClear a) s = .next (s.takeTrap .illegal v)))

/-- EVPOP pops the oldest record: D its first word, C its second, and cancels the record's deferred trap (R98, R382); on an empty
queue it writes 0 to both. EVWAIT goes on where the queue holds a record and pops nothing, and otherwise waits (R98, R70). NOP
only moves the pc, and so does FENCE: R175 lets it hold until earlier accesses are performed, and that each is performed as it issues, so that
it holds for nothing, is the model's choice (log 4). YIELD clears WDCNT, and where the pass does not pre-empt that is all (R92, R101). -/
def Obligations.EventsAndNops : Prop :=
  ∀ (s : State) (d c : Fld), (d ≠ c ∨ d = 0#6) →
    (s.here.en.events = [] → exec (.evpop d c) s = .next ((s.updMe fun x => (x.wg d.toNat 0#64).wg c.toNat 0#64).advance 8)) ∧
    (∀ r rest, s.here.en.events = r :: rest → ∃ t, exec (.evpop d c) s = .next t ∧
      t.me.rg d.toNat = (if d = 0#6 then 0#64 else r.w0) ∧ t.me.rg c.toNat = (if c = 0#6 then 0#64 else r.w1) ∧
      t.here.en.events = rest ∧ (∀ q ∈ t.here.en.defers, r.key ≠ some q.key) ∧ t.here.sp.mem = s.here.sp.mem ∧
      t.me.pc = s.me.pc + 8#64 ∧ s.SameOutside t) ∧
    (s.here.en.events ≠ [] → exec .evwait s = .next (s.advance 8)) ∧
    (s.here.en.events = [] → exec .evwait s = .next (s.updMe fun x => { x with wait := some .event, wdcnt := 0#64 })) ∧
    exec .nop s = .next (s.advance 8) ∧
    (∀ kind scope, exec (.fence kind scope) s = .next (s.advance 8)) ∧
    ((∀ r, s.here.run = some r → yields s r = false) → exec .yield s = .next ((s.updMe fun x => { x with wdcnt := 0#64 }).advance 8))

/-! ### Scalar instructions -/

/-- The ALU group (R77): with x and y read from A and B in that order and r the entry's result, D takes r, as a register or as a
word of an output channel; the instruction issues where the channel words it reads are there and its output has room. -/
def Obligations.AluResults : Prop :=
  ∀ (s : State) (d a b c : Fld), s.chanCheck [a, b] [d] = none →
    let x := (s.readTwo a b).1
    let y := (s.readTwo a b).2.1
    let u := (s.readTwo a b).2.2
    (∀ p ∈ [(0, Instr.add d a b), (1, .sub d a b), (2, .and d a b), (3, .or d a b), (4, .xor d a b), (5, .andn d a b), (6,
      .shl d a b), (7, .shr d a b), (8, .sar d a b), (9, .rol d a b), (10, .ror d a b), (11, .min d a b), (12, .max
      d a b), (13, .minu d a b), (14, .maxu d a b)],
      p.2.fields = some (mkFields 0x01#6 (BitVec.ofNat 9 p.1) d a b 0#25, 0#64)) ∧
    (Instr.sel d a b c).fields = some (mkFields 0x01#6 15#9 d a b (xC c), 0#64) ∧
    (Instr.abs d a).fields = some (mkFields 0x01#6 16#9 d a 0#6 0#25, 0#64) ∧
    encodeBytes 0#4 (.sub 3#6 4#6 5#6) = [0x04#8, 0x30#8, 0x10#8, 0x45#8, 0x00#8, 0x00#8, 0x00#8, 0x00#8] ∧
    exec (.add d a b) s = .next ((u.putScalar d (x + y)).advance 8) ∧
    exec (.sub d a b) s = .next ((u.putScalar d (x - y)).advance 8) ∧
    exec (.and d a b) s = .next ((u.putScalar d (x &&& y)).advance 8) ∧
    exec (.or d a b) s = .next ((u.putScalar d (x ||| y)).advance 8) ∧
    exec (.xor d a b) s = .next ((u.putScalar d (x ^^^ y)).advance 8) ∧
    exec (.andn d a b) s = .next ((u.putScalar d (x &&& ~~~y)).advance 8) ∧
    exec (.shl d a b) s = .next ((u.putScalar d (x <<< y)).advance 8) ∧
    exec (.shr d a b) s = .next ((u.putScalar d (x >>> y)).advance 8) ∧
    exec (.sar d a b) s = .next ((u.putScalar d (x.sshiftRight (min y.toNat 63))).advance 8) ∧
    exec (.rol d a b) s = .next ((u.putScalar d (x.rotateLeft (y.toNat % 64))).advance 8) ∧
    exec (.ror d a b) s = .next ((u.putScalar d (x.rotateRight (y.toNat % 64))).advance 8) ∧
    exec (.min d a b) s = .next ((u.putScalar d (BitVec.ofInt 64 (min x.toInt y.toInt))).advance 8) ∧
    exec (.max d a b) s = .next ((u.putScalar d (BitVec.ofInt 64 (max x.toInt y.toInt))).advance 8) ∧
    exec (.minu d a b) s = .next ((u.putScalar d (BitVec.ofNat 64 (min x.toNat y.toNat))).advance 8) ∧
    exec (.maxu d a b) s = .next ((u.putScalar d (BitVec.ofNat 64 (max x.toNat y.toNat))).advance 8) ∧
    exec (.sel d a b c) s = .next ((u.putScalar d (if s.me.rp c.toNat then x else y)).advance 8) ∧
    (s.chanCheck [a] [d] = none →
      exec (.abs d a) s = .next (((s.getScalar a).2.putScalar d (BitVec.ofNat 64 x.toInt.natAbs)).advance 8))

/-- The MULDIV group (R79): the high halves are those of the 128-bit products, division truncates toward zero with a zero divisor and
the overflow as the table gives them, and a remainder takes its dividend's sign; none traps on its data. -/
def Obligations.MulDivResults : Prop :=
  ∀ (s : State) (d a b : Fld), s.chanCheck [a, b] [d] = none →
    let x := (s.readTwo a b).1
    let y := (s.readTwo a b).2.1
    let u := (s.readTwo a b).2.2
    (∀ p ∈ [(0, Instr.mul d a b), (1, .mulh d a b), (2, .mulhu d a b), (3, .div d a b), (4, .divu d a b), (5, .rem d a b),
      (6, .remu d a b)],
      p.2.fields = some (mkFields 0x03#6 (BitVec.ofNat 9 p.1) d a b 0#25, 0#64)) ∧
    exec (.mul d a b) s = .next ((u.putScalar d (x * y)).advance 8) ∧
    exec (.mulh d a b) s = .next ((u.putScalar d ((x.signExtend 128 * y.signExtend 128).extractLsb' 64 64)).advance 8) ∧
    exec (.mulhu d a b) s = .next ((u.putScalar d ((x.setWidth 128 * y.setWidth 128).extractLsb' 64 64)).advance 8) ∧
    exec (.div d a b) s = .next ((u.putScalar d (if y = 0#64 then -1#64 else x.sdiv y)).advance 8) ∧
    exec (.divu d a b) s = .next ((u.putScalar d (if y = 0#64 then -1#64 else x / y)).advance 8) ∧
    exec (.rem d a b) s = .next ((u.putScalar d (if y = 0#64 then x else x.srem y)).advance 8) ∧
    exec (.remu d a b) s = .next ((u.putScalar d (if y = 0#64 then x else x % y)).advance 8)

/-- The ALUI group (R78) with its sign-extended immediate, and the constants of CONST (R84): MOVI, MOVHI and ADDPC from IMM32, LDL the
8 bytes of the code image at PC + IMM32 where that address is aligned and inside (R85). That a literal's address both misaligned and
outside the image traps ALIGN, before BOUNDS, is the model's choice (log 71). -/
def Obligations.ImmediateResults : Prop :=
  ∀ (s : State) (d a sh : Fld) (i : BitVec 25) (imm : BitVec 32),
    (s.chanCheck [a] [d] = none →
      let x := (s.getScalar a).1
      let u := (s.getScalar a).2
      exec (.addi d a i) s = .next ((u.putScalar d (x + i.signExtend 64)).advance 8) ∧
      exec (.andi d a i) s = .next ((u.putScalar d (x &&& i.signExtend 64)).advance 8) ∧
      exec (.ori d a i) s = .next ((u.putScalar d (x ||| i.signExtend 64)).advance 8) ∧
      exec (.xori d a i) s = .next ((u.putScalar d (x ^^^ i.signExtend 64)).advance 8) ∧
      exec (.shli d a sh) s = .next ((u.putScalar d (x <<< sh.toNat)).advance 8) ∧
      exec (.shri d a sh) s = .next ((u.putScalar d (x >>> sh.toNat)).advance 8) ∧
      exec (.sari d a sh) s = .next ((u.putScalar d (x.sshiftRight sh.toNat)).advance 8)) ∧
    (s.chanCheck [] [d] = none →
      exec (.movi d imm) s = .next ((s.putScalar d (imm.signExtend 64)).advance 12) ∧
      exec (.movhi d imm) s = .next ((s.putScalar d (imm ++ (s.me.rg d.toNat).extractLsb' 0 32)).advance 12) ∧
      exec (.addpc d imm) s = .next ((s.putScalar d (s.me.pc + imm.signExtend 64)).advance 12) ∧
      (let p := s.me.pc + imm.signExtend 64;
        (p.toNat % 8 = 0 → p.toNat + 8 ≤ s.here.codeLen →
          exec (.ldl d imm) s = .next ((s.putScalar d (BitVec.ofNat 64 (leNat (s.here.code.readBytes p.toNat 8)))).advance 12)) ∧
        (p.toNat % 8 ≠ 0 → exec (.ldl d imm) s = .next (s.takeTrap .align p)) ∧
        (p.toNat % 8 = 0 → s.here.codeLen < p.toNat + 8 → exec (.ldl d imm) s = .next (s.takeTrap .bounds p))))

/-- CMP and CMPI write P[D] with the condition of their code (R80, R81), the ten conditions in the order of their codes.
The predicate instructions of R81: PAND, POR, PXOR, PANDN and PNOT write P[D], PSET takes p1 to p7 from bits 1 to 7 of A, PGET
writes the eight predicates as a byte. -/
def Obligations.PredicateResults : Prop :=
  (∀ (s : State) (d a b : Fld) (n : Nat) (imm : BitVec 21), n < 10 →
    let conds : Word → Word → List Bool := fun x y =>
      [x == y, x != y, x.slt y, y.sle x, x.ult y, y.ule x, y.slt x, x.sle y, y.ult x, x.ule y]
    (s.chanCheck [a, b] [] = none →
      exec (.cmp (BitVec.ofNat 6 n) d a b) s = .next
        (((s.readTwo a b).2.2.updMe fun x => x.wp d.toNat ((conds (s.readTwo a b).1 (s.readTwo a b).2.1).getD n false)).advance 8)) ∧
    (s.chanCheck [a] [] = none →
      exec (.cmpi (BitVec.ofNat 4 n) d a imm) s = .next
        (((s.getScalar a).2.updMe fun x => x.wp d.toNat ((conds (s.getScalar a).1 (imm.signExtend 64)).getD n false)).advance 8))) ∧
  (∀ (s : State) (d a b : Fld),
    exec (.pand d a b) s = .next ((s.updMe (·.wp d.toNat (s.me.rp a.toNat && s.me.rp b.toNat))).advance 8) ∧
    exec (.por d a b) s = .next ((s.updMe (·.wp d.toNat (s.me.rp a.toNat || s.me.rp b.toNat))).advance 8) ∧
    exec (.pxor d a b) s = .next ((s.updMe (·.wp d.toNat (s.me.rp a.toNat ^^ s.me.rp b.toNat))).advance 8) ∧
    exec (.pandn d a b) s = .next ((s.updMe (·.wp d.toNat (s.me.rp a.toNat && !s.me.rp b.toNat))).advance 8) ∧
    exec (.pnot d a) s = .next ((s.updMe (·.wp d.toNat (!s.me.rp a.toNat))).advance 8) ∧
    (s.chanCheck [a] [] = none → ∃ t, exec (.pset a) s = .next t ∧ t.me.pc = (s.getScalar a).2.me.pc + 8#64 ∧
      (∀ r, t.me.rg r = (s.getScalar a).2.me.rg r) ∧
      ∀ i < 8, t.me.rp i = (i == 0 || (s.getScalar a).1.getLsbD i)) ∧
    (s.chanCheck [] [d] = none → ∃ v : Word, exec (.pget d) s = .next ((s.putScalar d v).advance 8) ∧
      ∀ i < 64, v.getLsbD i = (decide (i < 8) && s.me.rp i)))

/-- The BIT group (R82): counts of leading and trailing zeros and of set bits, reversed bytes, and the bit fields, for every field that
POS + W ≤ 64 allows. -/
def Obligations.BitResults : Prop :=
  ∀ (s : State) (d a pos wm1 : Fld), s.chanCheck [a] [d] = none → pos.toNat + wm1.toNat < 64 →
    let x := (s.getScalar a).1
    let u := (s.getScalar a).2
    (∃ n ≤ 64, exec (.clz d a) s = .next ((u.putScalar d (BitVec.ofNat 64 n)).advance 8) ∧
      (∀ i < n, x.getLsbD (63 - i) = false) ∧ (n < 64 → x.getLsbD (63 - n) = true)) ∧
    (∃ n ≤ 64, exec (.ctz d a) s = .next ((u.putScalar d (BitVec.ofNat 64 n)).advance 8) ∧
      (∀ i < n, x.getLsbD i = false) ∧ (n < 64 → x.getLsbD n = true)) ∧
    exec (.popc d a) s =
      .next ((u.putScalar d (BitVec.ofNat 64 ((List.range 64).map fun i => (x.getLsbD i).toNat).sum)).advance 8) ∧
    (∃ v : Word, exec (.bswap d a) s = .next ((u.putScalar d v).advance 8) ∧
      ∀ i < 8, v.extractLsb' (8 * i) 8 = x.extractLsb' (8 * (7 - i)) 8) ∧
    exec (.bfx d a pos wm1) s = .next ((u.putScalar d ((x.extractLsb' pos.toNat (wm1.toNat + 1)).signExtend 64)).advance 8) ∧
    exec (.bfxu d a pos wm1) s = .next ((u.putScalar d ((x.extractLsb' pos.toNat (wm1.toNat + 1)).setWidth 64)).advance 8) ∧
    (∃ v : Word, exec (.bfi d a pos wm1) s = .next ((u.putScalar d v).advance 8) ∧
      ∀ j < 64, v.getLsbD j =
        if pos.toNat ≤ j ∧ j ≤ pos.toNat + wm1.toNat then x.getLsbD (j - pos.toNat) else (s.me.rg d.toNat).getLsbD j)

/-- The frame of the scalar groups on g registers: the instruction completes, D alone of the context's registers changes (a write of
g0 is discarded), the pc moves past the instruction's bytes, and everything outside the context stays, every byte of memory with it. -/
def Obligations.ScalarFrame : Prop :=
  ∀ (s : State) (d a b c : Fld) (i25 : BitVec 25) (i32 : BitVec 32) (i21 : BitVec 21) (cc4 : BitVec 4) (cc : Fld),
    Plain [d, a, b] →
    (∀ i ∈ [Instr.add d a b, .sub d a b, .and d a b, .or d a b, .xor d a b, .andn d a b, .shl d a b, .shr d a b, .sar d a b,
        .rol d a b, .ror d a b, .min d a b, .max d a b, .minu d a b, .maxu d a b, .sel d a b c, .abs d a, .addi d a i25,
        .andi d a i25, .ori d a i25, .xori d a i25, .shli d a c, .shri d a c, .sari d a c, .mul d a b, .mulh d a b, .mulhu d a b,
        .div d a b, .divu d a b, .rem d a b, .remu d a b, .clz d a, .ctz d a, .popc d a, .bswap d a, .bfx d a c b, .bfxu d a c b,
        .bfi d a c b, .pget d, .movi d i32, .movhi d i32, .addpc d i32],
      ∃ t, exec i s = .next t ∧ s.KeepsAll t [d.toNat] [] [] ∧ t.me.pc = s.me.pc + BitVec.ofNat 64 i.len) ∧
    (d.toNat < 8 → ∀ i ∈ [Instr.cmp cc d a b, .cmpi cc4 d a i21, .pand d a b, .por d a b, .pxor d a b, .pandn d a b, .pnot d a],
      ∃ t, exec i s = .next t ∧ s.KeepsAll t [] [d.toNat] [] ∧ t.me.pc = s.me.pc + 8#64)

/-- Channel operands (R28, R75, R210): a read of q0 or q1 takes the oldest word, and its credit starts back to the output that sent
it; a write of q2 or q3 spends a credit and puts the word on the way to the input its role entry names.
When an instruction with channel operands does not issue (R70, R75, R210, R226, R302), shown on ABS: outside a taste run an unwired
channel traps CHANNEL with its code; a wired input that lacks a word waits where no ERRMSG marker stands in it and its sender is
not sealed, and traps where one does; an output without credit waits, and one whose receiver is sealed traps; in a taste run the
run is abandoned. None of these takes or puts a word. -/
def Obligations.ChannelOperands : Prop :=
  (∀ (s : State),
    (∀ (f : Fld) (ch : Nat) (w : Word) (rest : List ChItem) (j out : Nat), ch < 2 → f.toNat = 32 + ch →
      s.here.li.inq.get ch [] = .word w :: rest → (s.here.li.fed.get ch []).head?.or (s.inputFrom s.cur ch) = some (j, out) →
      j ≠ s.cur →
      (s.getScalar f).1 = w ∧ (s.getScalar f).2.here.li.inq.get ch [] = rest ∧
      (s.getScalar f).2.here.li.inq.get (1 - ch) [] = s.here.li.inq.get (1 - ch) [] ∧
      ((s.getScalar f).2.core j).li.creditBack.get out 0 = (s.core j).li.creditBack.get out 0 + 1 ∧
      (s.getScalar f).2.me = s.me ∧ (s.getScalar f).2.here.sp = s.here.sp ∧
      ∀ i, i ≠ s.cur → i ≠ j → (s.getScalar f).2.core i = s.core i) ∧
    (∀ (f : Fld) (out j ch : Nat) (v : Word), out < 2 → f.toNat = 34 + out → s.here.run.any (·.twin) = false →
      s.outDest s.cur out = some (j, ch) → j ≠ s.cur →
      (s.putScalar f v).here.li.credit.get out 0 = s.here.li.credit.get out 0 - 1 ∧
      ((s.putScalar f v).core j).li.wire.get ch [] = (s.core j).li.wire.get ch [] ++ [v] ∧
      (s.putScalar f v).me = s.me ∧ (s.putScalar f v).here.sp = s.here.sp ∧
      ∀ i, i ≠ s.cur → i ≠ j → (s.putScalar f v).core i = s.core i) ∧
    (∀ (f : Fld) (v : Word), f.toNat < 32 → (s.getScalar f) = (s.me.rg f.toNat, s) ∧ s.putScalar f v = s.updMe (·.wg f.toNat v))) ∧
  (∀ (s : State) (g q : Fld) (n : Nat), g.toNat < 32 → n < 2 →
    (s.inTaste = true → q.toNat = 32 + n → exec (.abs g q) s = .next s.voidRun) ∧
    (s.inTaste = false → q.toNat = 32 + n → s.inputFrom s.cur n = none →
      exec (.abs g q) s = .next (s.takeTrap .channel (BitVec.ofNat 64 (32 + n)))) ∧
    (s.inTaste = false → q.toNat = 32 + n → (s.inputFrom s.cur n).isSome = true → s.inWords n = [] →
      (s.inDead n = false → exec (.abs g q) s = .next (s.stop (.wait (.chanRead n 1)))) ∧
      (s.inDead n = true → exec (.abs g q) s = .next (s.takeTrap .channel (BitVec.ofNat 64 (32 + n))))) ∧
    (s.inTaste = false → q.toNat = 34 + n → s.outDest s.cur n = none →
      exec (.abs q g) s = .next (s.takeTrap .channel (BitVec.ofNat 64 (34 + n)))) ∧
    (∀ j ch, s.inTaste = false → q.toNat = 34 + n → s.outDest s.cur n = some (j, ch) →
      ((s.core j).li.isSealed = true → exec (.abs q g) s = .next (s.takeTrap .channel (BitVec.ofNat 64 (34 + n)))) ∧
      ((s.core j).li.isSealed = false → (s.core j).li.killed = false → s.here.li.credit.get n 0 = 0 →
        exec (.abs q g) s = .next (s.stop (.wait (.chanWrite n))))))

/-! ### Scratchpad accesses and atomics -/

/-- LD and LDX (R87, R88): with the address inside and aligned, no race and no poison, D takes the little-endian bytes there, sign- or
zero-extended from their size; ord=acq first acquires the granule's release (R89, R124); the context is stamped as a reader, and
every byte of memory stays.
ST and STX of a g register (R87, R88): with the address inside and aligned and no race, the 2^SIZE low bytes of B stand at the
effective address, lowest first; every byte of memory outside them reads as before, and no register of the context changes but the
pc. The address is base plus sign-extended offset, or base plus index. -/
def Obligations.LoadAndStoreResults : Prop :=
  (∀ (s : State) (d a ix : Fld) (f : MemForm) (off : BitVec 16), s.chanCheck [] [d] = none →
    let run : Word → Instr → Prop := fun addr i =>
      let n := 2 ^ f.size.toNat
      let p := addr.toNat
      let sp := if f.ord = 1#2 then s.here.sp.acquireTag s.slot (p / 64) else s.here.sp
      p ≤ 0xBFFFF → p % n = 0 → sp.readRace s.slot [(p, n)] = none → sp.poisonIn p n = none →
      let v := s.here.sp.mem.readLE p n
      let r : Word := if f.sgn = 1#1 then (BitVec.ofNat (8 * n) v).signExtend 64 else BitVec.ofNat 64 v
      let u := s.setCore s.cur (s.here.updSp fun _ => sp.stampReads s.slot [(p, n)])
      exec i s = .next ((u.putScalar d r).advance 8) ∧ u.here.sp.mem = s.here.sp.mem
    run (s.me.rg a.toNat + off.signExtend 64) (.ld d a f off) ∧ run (s.me.rg a.toNat + s.me.rg ix.toNat) (.ldx d a ix f)) ∧
  (∀ (s : State) (b a ix : Fld) (f : MemForm) (off : BitVec 16), b.toNat < 32 →
    let run : Word → Instr → Prop := fun addr i =>
      let n := 2 ^ f.size.toNat
      let p := addr.toNat
      p ≤ 0xBFFFF → p % n = 0 → s.here.sp.writeRace s.slot [(p, n)] = none →
      ∃ t, exec i s = .next t ∧ t.here.sp.mem.readBytes p n = leBytes n (s.me.rg b.toNat).toNat ∧
        (∀ x, x < p ∨ p + n ≤ x → t.here.sp.mem.read x = s.here.sp.mem.read x) ∧
        s.SameOutside t ∧ s.me.Kept t.me [] [] [] ∧ t.me.fmode = s.me.fmode ∧ t.me.pc = s.me.pc + 8#64 ∧
        t.here.un = s.here.un ∧ t.here.en = s.here.en ∧ t.here.li = s.here.li ∧
        (∀ k, k ≠ s.slot → t.here.ctx k = s.here.ctx k) ∧ t.here.sp.handles = s.here.sp.handles ∧
        t.here.sp.guards = s.here.sp.guards ∧ t.here.sp.tags = s.here.sp.tags
    run (effAddr s a off) (.st b a f off) ∧ run (effIndex s a ix) (.stx b a ix f))

/-- What a scalar load or store of g registers traps on, with an offset or an index and of every ord, in order (R88, R124): BOUNDS above
0xB_FFFF, then ALIGN, both with the address in EVAL; then a race, MMX with the offset of the granule, which a load with ord=acq checks once
it has acquired the granule's tag and a store with ord=rel before its release. No register is written, no byte stored, nothing acquired or
released.
A store whose data come from q0 or q1 takes the word only where it stores (R75, R90): the stored bytes are the word's, and where
the address traps the word stays. -/
def Obligations.AccessTraps : Prop :=
  (∀ (s : State) (r a ix : Fld) (f : MemForm) (off : BitVec 16), r.toNat < 32 →
    let n := 2 ^ f.size.toNat
    let run : Word → Instr → Instr → Prop := fun addr load store =>
      let p := addr.toNat
      let sp := if f.ord = 1#2 then s.here.sp.acquireTag s.slot (p / 64) else s.here.sp
      (∀ i ∈ [load, store], (0xBFFFF < p → exec i s = .next (s.takeTrap .bounds addr)) ∧
        (p ≤ 0xBFFFF → p % n ≠ 0 → exec i s = .next (s.takeTrap .align addr))) ∧
      (∀ q, p ≤ 0xBFFFF → p % n = 0 → sp.readRace s.slot [(p, n)] = some q →
        exec load s = .next (s.takeTrap .mmx (BitVec.ofNat 64 q))) ∧
      (∀ q, p ≤ 0xBFFFF → p % n = 0 → s.here.sp.writeRace s.slot [(p, n)] = some q →
        exec store s = .next (s.takeTrap .mmx (BitVec.ofNat 64 q)))
    run (s.me.rg a.toNat + off.signExtend 64) (.ld r a f off) (.st r a f off) ∧
    run (s.me.rg a.toNat + s.me.rg ix.toNat) (.ldx r a ix f) (.stx r a ix f)) ∧
  (∀ (s : State) (b a ix : Fld) (f : MemForm) (off : BitVec 16), 32 ≤ b.toNat → b.toNat < 34 → s.chanCheck [b] [] = none →
    let n := 2 ^ f.size.toNat
    let run : Word → Instr → Prop := fun addr i =>
      let p := addr.toNat
      (0xBFFFF < p → exec i s = .next (s.takeTrap .bounds addr)) ∧
      (p ≤ 0xBFFFF → p % n ≠ 0 → exec i s = .next (s.takeTrap .align addr)) ∧
      (p ≤ 0xBFFFF → p % n = 0 → s.here.sp.writeRace s.slot [(p, n)] = none →
        ∃ t, exec i s = .next t ∧ t.here.sp.mem.readBytes p n = leBytes n (s.getScalar b).1.toNat ∧
          t.here.li = (s.getScalar b).2.here.li ∧
          ∀ x, x < p ∨ p + n ≤ x → t.here.sp.mem.read x = s.here.sp.mem.read x)
    run (s.me.rg a.toNat + off.signExtend 64) (.st b a f off) ∧ run (s.me.rg a.toNat + s.me.rg ix.toNat) (.stx b a ix f))

/-- AMO and CAS (R173, R174): D takes the old value, extended as SGN says; AMO stores its operation of the old value and B at the access
width, CAS stores B where the old value is D's; neither checks or stamps a race: no granule's writer or reader changes, but that ord=rel is
a release, which clears the context's reader bits and tags the granule, and ord=acq acquires the granule's tag (R124); every other byte of
memory stays. Above 0xB_FFFF they trap BOUNDS and else, misaligned, ALIGN, with the address in EVAL. -/
def Obligations.AtomicResults : Prop :=
  ∀ (s : State) (d b a : Fld) (f : MemForm) (off : BitVec 16) (aop : BitVec 4), 2 ≤ f.size.toNat →
    let n := 2 ^ f.size.toNat
    let w := 8 * n
    let p := (effAddr s a off).toNat
    (∀ i ∈ [Instr.amo aop d b a f off, .cas d b a f off],
      (0xBFFFF < p → exec i s = .next (s.takeTrap .bounds (effAddr s a off))) ∧
      (p ≤ 0xBFFFF → p % n ≠ 0 → exec i s = .next (s.takeTrap .align (effAddr s a off)))) ∧
    (p ≤ 0xBFFFF → p % n = 0 → s.here.sp.poisonIn p n = none →
    let order : State → Prop := fun t =>
      (f.ord ≠ 2#2 → t.here.sp.gran = s.here.sp.gran ∧ t.here.sp.region = s.here.sp.region) ∧
      (f.ord ≠ 1#2 → t.here.sp.seen = s.here.sp.seen) ∧
      (f.ord = 1#2 → t.here.sp.seen = (s.here.sp.acquireTag s.slot (p / 64)).seen) ∧
      (f.ord = 2#2 → t.here.sp.regionOf s.slot = s.here.sp.regionOf s.slot + 1 ∧
        (t.here.sp.granule (p / 64)).rt = some (s.slot, s.here.sp.regionOf s.slot + 1) ∧
        (∀ q, q ≠ p / 64 → (t.here.sp.granule q).rt = (s.here.sp.granule q).rt) ∧
        ∀ q, (t.here.sp.granule q).pend = (s.here.sp.granule q).pend ∧
          (t.here.sp.granule q).rm = (s.here.sp.granule q).rm &&& ~~~(1#12 <<< s.slot))
    let old : BitVec w := BitVec.ofNat w (s.here.sp.mem.readLE p n)
    let y : BitVec w := (s.me.rg b.toNat).setWidth w
    let r : Word := if f.sgn = 1#1 then old.signExtend 64 else old.setWidth 64
    let ops : List (BitVec w) := [y, old + y, old &&& y, old ||| y, old ^^^ y, if old.sle y then old else y,
      if y.sle old then old else y, if old.ule y then old else y, if y.ule old then old else y]
    let good : State → BitVec w → Prop := fun t v =>
      t.me.rg d.toNat = (if d = 0#6 then 0#64 else r) ∧ t.here.sp.mem.readBytes p n = leBytes n v.toNat ∧
      (∀ x, x < p ∨ p + n ≤ x → t.here.sp.mem.read x = s.here.sp.mem.read x) ∧ s.SameOutside t ∧
      s.me.Kept t.me [d.toNat] [] [] ∧ t.me.pc = s.me.pc + 8#64 ∧ t.here.un = s.here.un ∧ t.here.en = s.here.en ∧ order t
    (∀ k < 9, ∃ t, exec (.amo (BitVec.ofNat 4 k) d b a f off) s = .next t ∧ good t (ops.getD k 0)) ∧
    (∃ t, exec (.cas d b a f off) s = .next t ∧ good t (if old = (s.me.rg d.toNat).setWidth w then y else old)))

/-- The operations on memories: a write of bytes is read back, leaves every other byte, and keeps the canonical form; so do the
zeroing of a range and the scratchpad's store, which besides clears the poison of the words that it writes whole (R130).
What the race checker does (R124): after a store by context X no other context reads or writes the granule without a trap until it
has acquired a release that X made since, and X itself may; a read by X makes a store by another context trap until X releases. -/
def Obligations.MemoryAndRaceRules : Prop :=
  (∀ (m : Mem) (a : Nat) (bs : List Byte), 
    (m.writeBytes a bs).readBytes a bs.length = bs ∧
    (∀ b, b < a ∨ a + bs.length ≤ b → (m.writeBytes a bs).read b = m.read b) ∧
    (∀ n b, (m.zeroRange a n).read b = if a ≤ b ∧ b < a + n then 0#8 else m.read b) ∧
    (m.wf = true → (m.writeBytes a bs).wf = true ∧ ∀ n, (m.zeroRange a n).wf = true) ∧
    (∀ m' : Mem, m.wf = true → m'.wf = true → (∀ b, m.read b = m'.read b) → m = m')) ∧
  (∀ (sp : Spad) (a : Nat) (bs : List Byte), 
    (sp.store a bs).mem.readBytes a bs.length = bs ∧
    (∀ b, b < a ∨ a + bs.length ≤ b → (sp.store a bs).mem.read b = sp.mem.read b) ∧
    (sp.mem.wf = true → (sp.store a bs).mem.wf = true) ∧
    ∀ p, p ∈ (sp.store a bs).poison ↔ p ∈ sp.poison ∧ ¬(a ≤ 8 * p ∧ 8 * p + 8 ≤ a + bs.length)) ∧
  (∀ (sp : Spad) (x y q : Nat), x < 12 → y < 12 → x ≠ y → sp.srcs = [] → sp.dsts = [] → (sp.granule q).pend = none →
    let w := sp.stampWrite x q
    let r := sp.stampRead x q
    w.readConflict x q = false ∧ w.writeConflict x q = false ∧
    ((sp.seenRow y).get x 0 ≤ sp.regionOf x → w.readConflict y q = true ∧ w.writeConflict y q = true) ∧
    ((w.release x).acquire y ((w.release x).relRow x)).readConflict y q = false ∧
    ((w.release x).acquire y ((w.release x).relRow x)).writeConflict y q = false ∧
    r.writeConflict y q = true ∧ ((r.release x).granule q).rm.getLsbD x = false)

/-! ### Contexts, helpers, forks -/

/-- HSTART in the control context with a free slot and a window (R102): the lowest free slot of 1 to 10 holds a helper in the state of
R66, at PC + 4 × offset, with g1 the argument, the window, FMODE with its flags cleared and TVEC copied; D takes the slot, the
predicate true. Without a slot or a window D takes 0 and the predicate false, and nothing else changes. Elsewhere it traps ILLEGAL.
The window of a helper (R67): HSTART's window lies in rows 8 to 23, at the lowest aligned base whose rows no live helper's window
covers. -/
def Obligations.HelperStart : Prop :=
  (∀ (s : State) (pp : BitVec 3) (d a sz : Fld) (off : BitVec 22),
    (∀ k b, s.slot = 0 → s.here.freeSlot? = some k → s.here.windowBase? sz.toNat = some b → sz.toNat < 4 →
      1 ≤ k ∧ k ≤ 10 ∧ (s.here.ctx k).live = false ∧ (∀ j, 1 ≤ j → j < k → (s.here.ctx j).live = true) ∧
      ∃ t, exec (.hstart pp d a sz off) s = .next t ∧
        (t.here.ctx k).live = true ∧ (t.here.ctx k).pc = s.me.pc + off.signExtend 64 * 4#64 ∧
        (t.here.ctx k).rg 1 = s.me.rg a.toNat ∧ (∀ r, r ≠ 1 → (t.here.ctx k).rg r = 0#64) ∧
        (∀ r, 0 < r → (t.here.ctx k).rp r = false ∧ (t.here.ctx k).rk r = 0#32) ∧ (t.here.ctx k).winRegs = 6 * 2 ^ sz.toNat ∧
        (t.here.ctx k).winBase = b ∧ (t.here.ctx k).fmode = s.me.fmode &&& 0xFFFFFFFFFFFFF0FF#64 ∧
        (t.here.ctx k).tvec = s.me.tvec ∧ (t.here.ctx k).epc = 0#64 ∧ (t.here.ctx k).ecause = 0#64 ∧
        (t.here.ctx k).eval = 0#64 ∧ (t.here.ctx k).wdcnt = 0#64 ∧
        t.me.rg d.toNat = (if d = 0#6 then 0#64 else BitVec.ofNat 64 k) ∧ t.me.rp pp.toNat = true ∧
        t.me.pc = s.me.pc + 8#64 ∧ (∀ j, j ≠ 0 → j ≠ k → t.here.ctx j = s.here.ctx j) ∧ t.here.sp.mem = s.here.sp.mem ∧
        (∀ j, j ≠ s.cur → t.core j = s.core j) ∧
        s.here.sp.regionOf 0 < (t.here.sp.seenRow k).get 0 0) ∧
    (s.slot = 0 → s.here.freeSlot? = none ∨ s.here.windowBase? sz.toNat = none →
      exec (.hstart pp d a sz off) s = .next ((s.updMe fun x => (x.wg d.toNat 0#64).wp pp.toNat false).advance 8)) ∧
    (s.slot ≠ 0 → exec (.hstart pp d a sz off) s = .next (s.takeTrap .illegal s.bytesHere))) ∧
  (∀ (c : Core) (size b : Nat), size < 4 → c.windowBase? size = some b →
    8 ≤ b ∧ b + 2 ^ size ≤ 24 ∧ (b - 8) % 2 ^ size = 0 ∧ (∀ j < 2 ^ size, c.rowUsed (b + j) = false) ∧
    ∀ e, 8 ≤ e → e < b → (e - 8) % 2 ^ size = 0 → ∃ j < 2 ^ size, c.rowUsed (e + j) = true)

/-- HEND in a helper is first a release: its region is counted and its bit of RM cleared in every granule; on an empty fork deque its slot and
window are free, and its scalars stay as they are; otherwise it takes the oldest entry in the same slot
and window, with g1 its argument and the other state of R103, and acquires the FORK's release; that TVEC, EPC, ECAUSE, EVAL, ROTTAB.SEL and
CDSEL stay is the model's choice (log 28). In slots 0 and 11 it traps ILLEGAL.
HWAIT and HKILL in the order of checks of R104, with n the value of A. HKILL frees the helper's slot and acquires its release, and an
instruction that holds the helper and has an effect in memory or an engine goes on to its completion (R104), in the model under the number
16 + n with the helper's region (log 28). -/
def Obligations.HelperEndWaitKill : Prop :=
  (∀ (s : State),
    (s.slot ≠ 0 → s.slot ≠ 11 → s.here.bar.forks = [] → ∃ t, exec .hend s = .next t ∧ (t.here.ctx s.slot).live = false ∧
      t.me.winRegs = 0 ∧ t.me.g = s.me.g ∧
      (∀ j, j ≠ s.slot → (t.here.ctx j).live = (s.here.ctx j).live ∧ (t.here.ctx j).pc = (s.here.ctx j).pc) ∧
      (∀ j, j ≠ s.slot → (s.here.ctx j).wait = some (.slotFree s.slot) → ∃ r : Row, (t.here.ctx j).wait = some (.met r) ∧
        s.here.sp.regionOf s.slot < r.get s.slot 0) ∧
      t.here.sp.mem = s.here.sp.mem ∧ t.here.sp.regionOf s.slot = s.here.sp.regionOf s.slot + 1) ∧
    (∀ f rest, s.slot ≠ 0 → s.slot ≠ 11 → s.here.bar.forks = f :: rest → ∃ t, exec .hend s = .next t ∧
      t.here.bar.forks = rest ∧ t.me.pc = f.pc ∧ t.me.rg 1 = f.arg ∧ (∀ r, r ≠ 1 → t.me.rg r = 0#64) ∧
      (∀ r, 0 < r → t.me.rp r = false ∧ t.me.rk r = 0#32) ∧ t.me.wdcnt = 0#64 ∧
      t.me.fmode = s.me.fmode &&& 0xFFFFFFFFFFFFF0FF#64 ∧ t.me.winRegs = s.me.winRegs ∧ t.me.winBase = s.me.winBase ∧
      t.me.tvec = s.me.tvec ∧ t.me.epc = s.me.epc ∧ t.me.ecause = s.me.ecause ∧ t.me.eval = s.me.eval ∧
      t.me.rotSel = s.me.rotSel ∧ t.me.cdSel = s.me.cdSel ∧
      t.here.sp.regionOf s.slot = s.here.sp.regionOf s.slot + 1 ∧
      (∀ q, (t.here.sp.granule q).rm = (s.here.sp.granule q).rm &&& ~~~(1#12 <<< s.slot)) ∧
      (∀ x, (s.here.sp.seenRow s.slot).get x 0 ≤ (t.here.sp.seenRow s.slot).get x 0 ∧
        f.rel.get x 0 ≤ (t.here.sp.seenRow s.slot).get x 0) ∧
      t.here.un = s.here.un ∧ t.here.sp.mem = s.here.sp.mem ∧ ∀ j, j ≠ s.slot → t.here.ctx j = s.here.ctx j) ∧
    (s.slot = 0 ∨ s.slot = 11 → exec .hend s = .next (s.takeTrap .illegal s.bytesHere))) ∧
  (∀ (s : State) (a : Fld), let n := (s.me.rg a.toNat).toNat
    (n < 1 ∨ 10 < n → exec (.hwait a) s = .next (s.advance 8)) ∧
    (1 ≤ n → n ≤ 10 → n = s.slot → exec (.hwait a) s = .next (s.takeTrap .illegal s.bytesHere)) ∧
    (1 ≤ n → n ≤ 10 → n ≠ s.slot → (s.here.ctx n).live = false → exec (.hwait a) s = .next (s.advance 8)) ∧
    (1 ≤ n → n ≤ 10 → n ≠ s.slot → (s.here.ctx n).live = true →
      exec (.hwait a) s = .next (s.updMe fun x => { x with wait := some (.slotFree n), wdcnt := 0#64 })) ∧
    (s.slot ≠ 0 → exec (.hkill a) s = .next (s.takeTrap .illegal s.bytesHere)) ∧
    (s.slot = 0 → n < 1 ∨ 10 < n ∨ (s.here.ctx n).live = false → exec (.hkill a) s = .next (s.advance 8)) ∧
    (s.slot = 0 → 1 ≤ n → n ≤ 10 → (s.here.ctx n).live = true → ∃ t, exec (.hkill a) s = .next t ∧ (t.here.ctx n).live = false ∧ (t.here.ctx n).winRegs = 0 ∧
      t.me.pc = s.me.pc + 8#64 ∧ s.here.sp.regionOf n < (t.here.sp.seenRow 0).get n 0 ∧ t.here.sp.mem = s.here.sp.mem ∧
      t.here.bar.jcnt = s.here.bar.jcnt ∧ t.here.bar.forks = s.here.bar.forks ∧
      (∀ j < 12, j ≠ 0 → j ≠ n → (t.here.ctx j).live = (s.here.ctx j).live) ∧
      ((s.here.ctx n).held.any outlives = true → s.here.bar.ctxs.keys.all (· < 12) = true →
        (t.here.ctx (16 + n)).live = (s.here.ctx n).live ∧ (t.here.ctx (16 + n)).held = (s.here.ctx n).held ∧
        t.here.sp.regionOf (16 + n) = s.here.sp.regionOf n)))

/-- FORK, JOIN and JOINW (R105, R106): FORK is a release; it appends the target, the argument and the counter at the tail of a deque with
room and raises the counter, or writes false; JOIN traps GRAPH on a zero counter and else lowers it; JOINW goes on at zero, traps GRAPH in a control
context that no helper can serve, and waits otherwise. -/
def Obligations.ForkJoin : Prop :=
  ∀ (s : State) (d a n : Fld) (off : BitVec 25), n.toNat < 8 → d.toNat < 8 →
    let j := s.here.bar.jcnt.get n.toNat 0
    (s.slot = 11 → exec (.fork d a n off) s = .next (s.takeTrap .illegal s.bytesHere)) ∧
    (s.slot ≠ 11 → s.here.bar.forks.length < 16 → j < 0xFFFF → ∃ t rel, exec (.fork d a n off) s = .next t ∧
      t.here.bar.forks = s.here.bar.forks ++ [⟨s.me.pc + off.signExtend 64 * 4#64, s.me.rg a.toNat, n.toNat, rel⟩] ∧
      s.here.sp.regionOf s.slot < rel.get s.slot 0 ∧ t.here.bar.jcnt.get n.toNat 0 = j + 1 ∧
      (∀ m, m ≠ n.toNat → t.here.bar.jcnt.get m 0 = s.here.bar.jcnt.get m 0) ∧ t.me.rp d.toNat = true ∧
      t.me.pc = s.me.pc + 8#64 ∧ t.here.sp.mem = s.here.sp.mem ∧ (∀ r, t.me.rg r = s.me.rg r)) ∧
    (s.slot ≠ 11 → ¬ (s.here.bar.forks.length < 16 ∧ j < 0xFFFF) →
      exec (.fork d a n off) s = .next (((s.updHere (·.release s.slot)).updMe (·.wp d.toNat false)).advance 8)) ∧
    (j = 0 → exec (.join n) s = .next (s.takeTrap .graph (BitVec.ofNat 64 (0x10000 + n.toNat)))) ∧
    (0 < j → ∃ t, exec (.join n) s = .next t ∧ t.here.bar.jcnt.get n.toNat 0 = j - 1 ∧ t.me.pc = s.me.pc + 8#64 ∧
      s.here.sp.regionOf s.slot < (t.here.bar.jrel.get n.toNat {}).get s.slot 0 ∧ t.here.sp.mem = s.here.sp.mem ∧
      t.here.bar.forks = s.here.bar.forks ∧ ∀ r, t.me.rg r = s.me.rg r) ∧
    (j = 0 → exec (.joinw n) s = .next ((s.updHere (·.acquire s.slot (s.here.bar.jrel.get n.toNat {}))).advance 8)) ∧
    (0 < j → s.slot = 0 → s.here.helperMask = 0 →
      exec (.joinw n) s = .next (s.takeTrap .graph (BitVec.ofNat 64 (0x20000 + n.toNat)))) ∧
    (0 < j → s.slot ≠ 0 ∨ s.here.helperMask ≠ 0 → exec (.joinw n) s = .next (s.stop (.wait (.joinZero n.toNat))))

/-- Branches (R33, R99): B goes to PC + 4 × offset, CALL links the next instruction's address in g31, LOOP lowers D and branches unless
it is 0; JMPR, CALLR and RET (R100) go to the register's value, CALLR linking, and trap ALIGN where bits [1:0] are set. -/
def Obligations.Branches : Prop :=
  ∀ (s : State) (d a : Fld) (off : BitVec 25),
    let tgt := s.me.pc + off.signExtend 64 * 4#64
    (Instr.jmpr a).fields = some (mkFields 0x0C#6 0#9 0#6 a 0#6 0#25, 0#64) ∧
    (Instr.callr a).fields = some (mkFields 0x0C#6 1#9 0#6 a 0#6 0#25, 0#64) ∧
    Instr.ret.fields = some (mkFields 0x0C#6 2#9 0#6 0#6 0#6 0#25, 0#64) ∧
    exec (.br off) s = .next (s.jump tgt) ∧
    exec (.call off) s = .next ((s.updMe (·.wg 31 (s.me.pc + 8#64))).jump tgt) ∧
    (d ≠ 0#6 → s.me.rg d.toNat ≠ 1#64 →
      exec (.loop d off) s = .next ((s.updMe (·.wg d.toNat (s.me.rg d.toNat - 1#64))).jump tgt)) ∧
    (d ≠ 0#6 → s.me.rg d.toNat = 1#64 → exec (.loop d off) s = .next ((s.updMe (·.wg d.toNat 0#64)).advance 8)) ∧
    (∀ i ∈ [(Instr.jmpr a, s.me.rg a.toNat), (.callr a, s.me.rg a.toNat), (.ret, s.me.rg 31)], i.2.toNat % 4 ≠ 0 →
      exec i.1 s = .next (s.takeTrap .align i.2)) ∧
    ((s.me.rg a.toNat).toNat % 4 = 0 → exec (.jmpr a) s = .next (s.jump (s.me.rg a.toNat)) ∧
      exec (.callr a) s = .next ((s.updMe (·.wg 31 (s.me.pc + 8#64))).jump (s.me.rg a.toNat))) ∧
    ((s.me.rg 31).toNat % 4 = 0 → exec .ret s = .next (s.jump (s.me.rg 31)))

/-- Waits, held instructions and the watchdog: a wait whose condition holds ends (R70). One whose condition has held is over, whatever holds by
now: its instruction returns, past it, with the release that it waited for (R23, R104, R106, R119); a channel access issues again at the same pc;
a JOIN to zero and a record that enters an empty queue bring that about for JOINW and EVWAIT (R98, R106). A context that debug has halted
stays (R363); an instruction that holds a context is carried on as it would
issue (R197); a watchdog that is due traps WDOG with WDCNT in EVAL (R71). Only that context's core may change its registers.
A hold never changes a result (R111): where each valid latch holds its register's current value, a read of a vector operand
through any position, held or not, gives the register's value, changes nothing but the latches, and leaves them coherent; and a write
of any vector register keeps the latches coherent. -/
def Obligations.WaitsAndHolds : Prop :=
  (∀ (s : State) (core slot : Nat) (d a b : Fld) (sel : BitVec 4) (m : BitVec 2),
    let x := (s.core core).ctx slot
    let u := { s with cur := core, slot := slot }
    slot < 12 →
    (∀ w, x.wait = some w → waitOver u w = true → x.dbgHalt = false → (∀ r, w ≠ .met r) → ∃ t, exec (.contextWaitEnd core slot) s = .next t ∧
      (t.core core).ctx slot = { x with wait := none } ∧ t.cur = s.cur ∧ t.slot = s.slot ∧
      (∀ k, k ≠ slot → (t.core core).ctx k = (s.core core).ctx k) ∧ ∀ j, j ≠ core → t.core j = s.core j) ∧
    (∀ r, x.wait = some (.met r) → x.dbgHalt = false → ∃ t, exec (.contextWaitEnd core slot) s = .next t ∧
      ((t.core core).ctx slot).wait = none ∧ (∀ n, ((t.core core).ctx slot).rg n = x.rg n) ∧
      ((t.core core).ctx slot).pc = x.pc + 8#64 ∧ (t.core core).sp = (s.core core).sp.acquire slot r) ∧
    (x.dbgHalt = true → exec (.contextWaitEnd core slot) s = .next s) ∧
    (∀ n : Fld, ∀ k, u.me.live = true → u.here.bar.jcnt.get n.toNat 0 = 1 → k < 12 → k ≠ slot →
      (u.here.ctx k).wait = some (.joinZero n.toNat) → ∃ t r, exec (.join n) u = .next t ∧ (t.here.ctx k).wait = some (.met r) ∧
        u.here.sp.regionOf slot < r.get slot 0) ∧
    ((s.core core).en.events = [] → ((s.core core).ctx slot).wait = some .event → ∀ r : EvRec,
      ((s.core core).en.evHeld = [] → ((s.core core).post r).en.events = [r] ∧
        (((s.core core).post r).ctx slot).wait = some (.met {})) ∧
      ∀ rest, (s.core core).en.evHeld = r :: rest → ∃ t, exec (.eventRecordEnter core) s = .next t ∧
        (t.core core).en.events = [r] ∧ ((t.core core).ctx slot).wait = some (.met {})) ∧
    (x.live = true → x.heldOn = none → x.dbgHalt = false → 
      ∀ i ∈ [Instr.cewait d a, .clwait d a, .nspawn d a, .ndepAdd d a, .ndepSub d a, .nprio d a b, .nqry d a sel, .cdsweep d a, .tlbinv d a b m],
        x.held = some i →
        exec (.heldInstructionComplete core slot) s = .next (s.onSlot core slot fun t => nextOf (exec i t) t)) ∧
    (wdogDue (s.core core) slot = true → slot ≠ 11 → x.tvec ≠ 0#64 → ∃ t, exec (.wdogExpiry core slot) s = .next t ∧
      ((t.core core).ctx slot).epc = x.pc ∧ ((t.core core).ctx slot).ecause = 7#64 ∧ ((t.core core).ctx slot).eval = x.wdcnt ∧
      ((t.core core).ctx slot).pc = x.tvec ∧ ((t.core core).ctx slot).tvec = 0#64 ∧ (t.core core).sp = (s.core core).sp ∧
      ∀ j, j ≠ core → t.core j = s.core j)) ∧
  (∀ (c : Core) (k : Nat) (p : Pos) (held : Bool) (f : Fld), c.Coherent →
    (c.Clean k [f] → ∃ c', c.readVec k p held f = .ok (c.rv k f.toNat, c') ∧ c'.Coherent ∧
      c'.un.vfile = c.un.vfile ∧ c'.un.poisonV = c.un.poisonV ∧ c'.sp = c.sp ∧ c'.bar = c.bar ∧ c'.en = c.en ∧ c'.li = c.li ∧
      c' = { c with un := { c.un with latchA := c'.un.latchA, latchB := c'.un.latchB, latchC := c'.un.latchC } }) ∧
    ∀ n v, (c.wphys n v).Coherent)

/-! ### Vector instructions -/

/-- The element-wise instructions of VFP, VBIT, VSFU and VPERM (R136, R137, R141, R143) under the mask, with x, y and z the elements of
A, B and C as they stood before the instruction: a floating-point result is the exact value rounded once, an integer result wraps or
clamps (R46), bitwise results are those of the elements' bits, and a permutation takes its element from A. -/
def Obligations.ElementwiseResults : Prop :=
  ∀ (s : State) (d a b c : Fld) (m : VMod), s.here.Coherent → m.ty ≠ 7#3 →
    let e := venv s.me m
    let n := 1024 / e.w
    let x := elem e.w (s.here.rv s.slot a.toNat)
    let y := elem e.w (s.here.rv s.slot b.toNat)
    let z := elem e.w (s.here.rv s.slot c.toNat)
    let done : List Fld → List (Instr × (Nat → Nat × Flags)) → Prop := fun fs ps =>
      s.here.Clean s.slot fs → ∀ p ∈ ps, ∃ t, exec p.1 s = .next t ∧ s.VecDone t d e p.2
    done [a, b] [(.vadd d a b m, fun j => num2 Val.add (· + ·) e (x j) (y j)),
      (.vsub d a b m, fun j => num2 (fun r u v => Val.add r u v.neg) (· - ·) e (x j) (y j)),
      (.vmul d a b m, fun j => num2 (fun _ => Val.mul) (· * ·) e (x j) (y j)),
      (.vmin d a b m, fun j => num2 (fun _ u v => (u.minV v, false)) min e (x j) (y j)),
      (.vmax d a b m, fun j => num2 (fun _ u v => (u.maxV v, false)) max e (x j) (y j))] ∧
    done [a, b, c] [(.vfma d a b c m, fun j => num3 false false e (x j) (y j) (z j)),
      (.vfms d a b c m, fun j => num3 false true e (x j) (y j) (z j)),
      (.vfnma d a b c m, fun j => num3 true false e (x j) (y j) (z j))] ∧
    done [a] [(.vabs d a m, fun j => num1 Val.abs (fun i => (i.natAbs : Int)) e (x j)),
      (.vneg d a m, fun j => num1 Val.neg (fun i => -i) e (x j))] ∧
    done [a, b] [(.vand d a b m, fun j => (x j &&& y j, {})), (.vor d a b m, fun j => (x j ||| y j, {})),
      (.vxor d a b m, fun j => (x j ^^^ y j, {})), (.vshl d a b m, fun j => (if e.w ≤ y j then 0 else x j <<< y j, {})),
      (.vshr d a b m, fun j => (if e.w ≤ y j then 0 else x j >>> y j, {})),
      (.vsar d a b m, fun j => (((BitVec.ofNat e.w (x j)).sshiftRight (min (y j) (e.w - 1))).toNat, {}))] ∧
    done [a] [(.vrcp d a m, fun j => sfuElem .rcp e (x j)), (.vrsq d a m, fun j => sfuElem .rsq e (x j)),
      (.vexp2 d a m, fun j => sfuElem .exp2 e (x j)), (.vlog2 d a m, fun j => sfuElem .log2 e (x j)),
      (.vtanh d a m, fun j => sfuElem .tanh e (x j))] ∧
    done [] [(.vbcast d a m, fun _ => ((s.me.rg a.toNat).toNat, {}))] ∧
    done [a, b] [(.vperm d a b m, fun j => (x (y j % n), {}))] ∧
    done [a] [(.vrot d a b m, fun j => (x ((j + (s.me.rg b.toNat).toNat) % n), {}))]

/-- The VSFU functions, in f32 and bf16, in every rounding mode, with and without saturation: at the special inputs of R142 what its table has,
and at the others f(a) rounded once with NV, OF and UF but never NX (R141, R60): of VRCP 1/a and of VRSQ 1/√a for every number, of VEXP2 the
power for every integer, and of VLOG2 the exponent for every power of two.
At other numbers VEXP2, VLOG2 and VTANH are stated at points worked out apart from the model, in f32 and bf16 and each mode, the corners of
overflow, underflow and FTZ among them; and VTANH below 2^−31, where the nearest code is the input's, and from 64 on, where it is 1 and the code toward zero
the one before. -/
def Obligations.SpecialFunctionInputs : Prop :=
  (∀ q ∈ [(Sfu.exp2, Rnd.rne, 0x3F000000, 0x3FB504F3), (.exp2, .rup, 0x3F000000, 0x3FB504F4), (.exp2, .rne, 0x3DCCCCCD, 0x3F892FDF),
      (.exp2, .rup, 0x3DCCCCCD, 0x3F892FE0), (.exp2, .rto, 0xBFE00000, 0x3E9837F1), (.exp2, .rne, 0x42C8999A, 0x719D963A),
      (.exp2, .rtz, 0x42C8999A, 0x719D9639), (.log2, .rne, 0x40400000, 0x3FCAE00D), (.log2, .rne, 0x41200000, 0x40549A78),
      (.log2, .rto, 0x41200000, 0x40549A79), (.log2, .rne, 0x3F333333, 0xBF03BB12), (.log2, .rup, 0x3F333333, 0xBF03BB11),
      (.log2, .rne, 0x3F800001, 0x3438AA3A), (.log2, .rne, 0x7F7FFFFF, 0x43000000), (.log2, .rtz, 0x7F7FFFFF, 0x42FFFFFF),
      (.tanh, .rne, 0x3F000000, 0x3EEC9A9F), (.tanh, .rdn, 0x3F000000, 0x3EEC9A9E), (.tanh, .rne, 0x3F800000, 0x3F42F7D6),
      (.tanh, .rdn, 0xBF800000, 0xBF42F7D6), (.tanh, .rup, 0xBF800000, 0xBF42F7D5), (.tanh, .rne, 0x40000000, 0x3F76CA83),
      (.tanh, .rne, 0x3C23D70A, 0x3C23D5A4), (.tanh, .rto, 0xC1000000, 0xBF7FFFFD), (.tanh, .rne, 0x41180000, 0x3F800000)],
    ∀ sat ftz, q.1.apply f32 q.2.1 sat ftz (f32.unpack ftz q.2.2.1) = (q.2.2.2, {})) ∧
  (∀ q ∈ [(Sfu.exp2, Rnd.rne, 0x3F00, 0x3FB5), (.exp2, .rup, 0xBFE0, 0x3E99), (.log2, .rne, 0x4040, 0x3FCB), (.log2, .rne, 0x3F33, 0xBF04),
      (.tanh, .rne, 0x3F80, 0x3F43), (.tanh, .rup, 0xBF80, 0xBF42), (.tanh, .rup, 0xC100, 0xBF7F)],
    ∀ sat ftz, q.1.apply bf16 q.2.1 sat ftz (bf16.unpack ftz q.2.2.1) = (q.2.2.2, {})) ∧
  (∀ q ∈ [(Sfu.exp2, false, false, 0xC30C8000, 0x16A, ({ uf := true } : Flags)),
      (.exp2, false, true, 0xC30C8000, 0, { uf := true }), (.exp2, false, false, 0x43008000, 0x7F800000, { of := true }),
      (.exp2, true, false, 0x43008000, 0x7F7FFFFF, { of := true }), (.log2, false, false, 3, 0xC3136A40, {})],
    q.1.apply f32 .rne q.2.1 q.2.2.1 (f32.unpack q.2.2.1 q.2.2.2.1) = (q.2.2.2.2.1, q.2.2.2.2.2)) ∧
  ∀ (F : Fmt) (rnd : Rnd) (sat ftz neg : Bool), F = f32 ∨ F = bf16 →
    let zero : Bool → Nat := fun n => if n then 2 ^ (F.w - 1) else 0
    let inf : Bool → Nat := fun n => (if sat then F.top else F.inf) + zero n
    let one : Bool → Nat := fun n => F.bias * 2 ^ F.fb + zero n
    let nv : Flags := { nv := true }
    (∀ f : Sfu, f.apply F rnd sat ftz .nan = (F.nan, {})) ∧
    Sfu.rcp.apply F rnd sat ftz (.num neg 0 0) = (inf neg, {}) ∧ Sfu.rcp.apply F rnd sat ftz (.inf neg) = (zero neg, {}) ∧
    Sfu.rsq.apply F rnd sat ftz (.num neg 0 0) = (inf neg, {}) ∧ Sfu.rsq.apply F rnd sat ftz (.inf false) = (0, {}) ∧
    Sfu.rsq.apply F rnd sat ftz (.inf true) = (F.nan, nv) ∧
    (∀ m e, 0 < m → Sfu.rsq.apply F rnd sat ftz (.num true m e) = (F.nan, nv)) ∧
    Sfu.exp2.apply F rnd sat ftz (.num neg 0 0) = (one false, {}) ∧
    Sfu.exp2.apply F rnd sat ftz (.inf false) = (inf false, {}) ∧ Sfu.exp2.apply F rnd sat ftz (.inf true) = (0, {}) ∧
    Sfu.log2.apply F rnd sat ftz (.num neg 0 0) = (inf true, {}) ∧
    Sfu.log2.apply F rnd sat ftz (.inf false) = (inf false, {}) ∧
    Sfu.log2.apply F rnd sat ftz (.inf true) = (F.nan, nv) ∧
    (∀ m e, 0 < m → Sfu.log2.apply F rnd sat ftz (.num true m e) = (F.nan, nv)) ∧
    Sfu.tanh.apply F rnd sat ftz (.num neg 0 0) = (zero neg, {}) ∧ Sfu.tanh.apply F rnd sat ftz (.inf neg) = (one neg, {}) ∧
    ∀ (c : Nat) (n : Bool) (m : Nat) (e : Int), c < 2 ^ F.w → F.unpack ftz c = .num n m e → 0 < m →
      let v := Val.num n m e
      let x : ℚ := v.toRat
      let once : Sfu → ℝ → Prop := fun f y => ∃ r, F.RoundsOnce rnd sat ftz y r ∧ f.apply F rnd sat ftz v = (r.1, { r.2 with nx := false })
      once .rcp (1 / (x : ℝ)) ∧ (n = false → once .rsq (1 / √(x : ℝ))) ∧ (∀ k : Int, x = k → once .exp2 ((2 : ℝ) ^ k)) ∧
      (∀ k : Int, x = (2 : ℚ) ^ k → once .log2 (k : ℝ) ∧ (k = 0 → Sfu.log2.apply F rnd sat ftz v = (0, {}))) ∧
      (|x| < (2 : ℚ) ^ (-31 : Int) → ftz = false ∨ (2 : ℚ) ^ (-126 : Int) < |x| → (Sfu.tanh.apply F .rne sat ftz v).1 = c) ∧
      (64 ≤ |x| → (Sfu.tanh.apply F .rne sat ftz v).1 = one n ∧ (Sfu.tanh.apply F .rtz sat ftz v).1 = one n - 1) ∧
      ∀ f : Sfu, (f.apply F rnd sat ftz v).2.nx = false

/-- Rounding a value that a format holds gives its own code and raises nothing (R47, R54): for every code of every format that is no NaN,
in every mode.
Rounding any other number (R54, R55, R58), in each of the four formats: in each mode the code stands for the neighbour that the mode names, and
past the largest finite value for what its row of R54 names, or under saturation for the largest finite value; NX, UF and OF are raised as
R59 has them; where the unit flushes, a subnormal result is zero. A code stands for the number that R47 gives it, zero for a subnormal where
the unit flushes.
A conversion rounds its source once (R56): between formats, from an integer, and to an integer of each width, with the most negative value or
the clamped one where it does not fit; NaN and the infinities convert as the table has them.
The two- and three-operand results of VFP (R136, R46): in floating point the exact sum, difference, product or a·b + c rounded once, an exact
zero with the sign of IEEE 754; canonical NaN where an operand is NaN, with NV where the operation is invalid; the smaller and larger with −0
below +0; an integer result wraps or clamps. -/
def Obligations.RoundingRules : Prop :=
  (∀ F ∈ [f32, bf16, e5m2, e4m3], ∀ (c : Nat) (rnd : Rnd), c < 2 ^ F.w → F.unpack false c ≠ .nan →
    F.pack rnd false false (F.unpack false c) = (c, {})) ∧
  (∀ F ∈ [f32, bf16, e5m2, e4m3],
    let sg : Bool → Nat := fun n => if n then 2 ^ (F.w - 1) else 0
    let fin : Nat → Prop := fun c => c < 2 ^ F.w ∧ c % 2 ^ (F.w - 1) ≤ F.top
    let q : Nat → ℚ := fun c => (F.unpack false c).toRat
    let max := q F.top
    let least : ℚ := (2 : ℚ) ^ (1 - (F.bias : Int))
    (∀ c, fin c → q c = (if c / 2 ^ (F.w - 1) = 1 then -1 else 1) *
      (if c / 2 ^ F.fb % 2 ^ F.eb = 0 then ((c % 2 ^ F.fb : Nat) : ℚ) * (2 : ℚ) ^ (1 - (F.bias : Int) - F.fb)
       else ((2 ^ F.fb + c % 2 ^ F.fb : Nat) : ℚ) * (2 : ℚ) ^ (((c / 2 ^ F.fb % 2 ^ F.eb : Nat) : Int) - F.bias - F.fb))) ∧
    (∀ c, fin c → (F.unpack true c).toRat = if |q c| < least then 0 else q c) ∧
    (∀ rnd sat ftz, F.pack rnd sat ftz .nan = (F.nan, {}) ∧
      ∀ n, F.pack rnd sat ftz (.inf n) = (sg n + (if sat then F.top else F.inf), {})) ∧
    ∀ (n : Bool) (m : Nat) (e : Int), 0 < m →
      let v := Val.num n m e
      let x := v.toRat
      let c : Rnd → Nat := fun rnd => (F.pack rnd false false v).1
      (∀ rnd, |x| ≤ max → fin (c rnd) ∧ c rnd / 2 ^ (F.w - 1) = (if n then 1 else 0) ∧
        ((F.pack rnd false false v).2.nx = true ↔ q (c rnd) ≠ x) ∧
        ((F.pack rnd false false v).2.uf = true ↔ q (c rnd) ≠ x ∧ |x| < least) ∧
        (F.pack rnd false false v).2.of = false ∧ (F.pack rnd false false v).2.nv = false) ∧
      (|x| ≤ max → (∀ c', fin c' → |x - q (c .rne)| ≤ |x - q c'| ∧
        (|x - q (c .rne)| = |x - q c'| → q c' ≠ q (c .rne) → c .rne % 2 = 0))) ∧
      (max + (max - q (F.top - 1)) / 2 < |x| → c .rne = sg n + F.inf ∧ (F.pack .rne false false v).2.of = true) ∧
      (|q (c .rtz)| ≤ |x| ∧ ∀ c', fin c' → |q c'| ≤ |x| → |q c'| ≤ |q (c .rtz)|) ∧
      (-max ≤ x → q (c .rdn) ≤ x ∧ ∀ c', fin c' → q c' ≤ x → q c' ≤ q (c .rdn)) ∧ (x < -max → c .rdn = sg n + F.inf) ∧
      (x ≤ max → x ≤ q (c .rup) ∧ ∀ c', fin c' → x ≤ q c' → q (c .rup) ≤ q c') ∧ (max < x → c .rup = sg n + F.inf) ∧
      (|x| ≤ max → c .rto = if q (c .rtz) = x then c .rtz else c .rtz ||| 1) ∧ (max < |x| → c .rto = sg n + F.top) ∧
      (∀ rnd, (F.pack rnd true false v).1 = if max < |x| then sg n + F.top else c rnd) ∧
      (∀ rnd sat, F.pack rnd sat true v = if |x| < least then (sg n, { uf := true, nx := true }) else F.pack rnd sat false v)) ∧
  (∀ (rnd : Rnd) (sat ftz : Bool) (c : Nat),
    (∀ a ∈ [(0, f32), (1, bf16), (5, e4m3), (6, e5m2)],
      (∀ b ∈ [(0, f32), (1, bf16), (5, e4m3), (6, e5m2)],
        convertElem a.1 b.1 rnd sat ftz c = b.2.pack rnd sat ftz (a.2.unpack ftz c)) ∧
      ∀ b ∈ [(2, 32), (3, 16), (4, 8)],
        convertElem a.1 b.1 rnd sat ftz c = packInt b.2 rnd sat (a.2.unpack ftz c) ∧
        ∃ v : Val, v.IsNum ((BitVec.ofNat b.2 c).toInt : ℚ) ∧ convertElem b.1 a.1 rnd sat ftz c = a.2.pack rnd sat ftz v) ∧
    ∀ w ∈ [8, 16, 32],
      let lo : Int := -(2 ^ (w - 1))
      let hi : Int := 2 ^ (w - 1) - 1
      let int : Nat → Int := fun c => (BitVec.ofNat w c).toInt
      packInt w rnd sat .nan = (0, { nv := true }) ∧
      (∀ n, (packInt w rnd sat (.inf n)).2 = { nv := true } ∧
        int (packInt w rnd sat (.inf n)).1 = if sat = true ∧ n = false then hi else lo) ∧
      ∀ (n : Bool) (m : Nat) (e i : Int), 0 < m →
        let x := (Val.num n m e).toRat
        let r := packInt w rnd sat (.num n m e)
        rnd.Rounds x i →
          (lo ≤ i → i ≤ hi → int r.1 = i ∧ r.2.nv = false ∧ (r.2.nx = true ↔ x ≠ i)) ∧
          (i < lo ∨ hi < i → r.2 = { nv := true } ∧ int r.1 = if sat = true ∧ hi < i then hi else lo)) ∧
  (∀ (e : VEnv) (x y z : Nat),
    (∀ F, fmtOf e.ty = some F →
      let X := F.unpack e.ftz x
      let Y := F.unpack e.ftz y
      let Z := F.unpack e.ftz z
      let one : Val → Nat × Flags := F.pack e.rnd e.sat e.ftz
      let bad : Nat × Flags := (F.nan, { nv := true })
      let zero : Bool → Bool → Bool := fun a b => if a = b then a else e.rnd == .rdn
      let sub : Rnd → Val → Val → Val × Bool := fun r u v => Val.add r u v.neg
      let mul : Rnd → Val → Val → Val × Bool := fun _ => Val.mul
      let less : Rnd → Val → Val → Val × Bool := fun _ u v => (u.minV v, false)
      let more : Rnd → Val → Val → Val × Bool := fun _ u v => (u.maxV v, false)
      (∀ a m g b n h, X = .num a m g → Y = .num b n h →
        (∃ v : Val, v.IsNum (X.toRat + Y.toRat) ∧ (v.toRat = 0 → v.sign = zero a b) ∧ num2 Val.add (· + ·) e x y = one v) ∧
        (∃ v : Val, v.IsNum (X.toRat - Y.toRat) ∧ (v.toRat = 0 → v.sign = zero a !b) ∧ num2 sub (· - ·) e x y = one v) ∧
        (∃ v : Val, v.IsNum (X.toRat * Y.toRat) ∧ v.sign = (a != b) ∧ num2 mul (· * ·) e x y = one v) ∧
        (∃ v : Val, v.IsNum (min X.toRat Y.toRat) ∧ (X.toRat = Y.toRat → v.sign = (a || b)) ∧ num2 less min e x y = one v) ∧
        (∃ v : Val, v.IsNum (max X.toRat Y.toRat) ∧ (X.toRat = Y.toRat → v.sign = (a && b)) ∧ num2 more max e x y = one v) ∧
        ∀ np nc d k j, Z = .num d k j → ∃ v : Val,
          v.IsNum ((if np then -1 else 1) * (X.toRat * Y.toRat) + (if nc then -1 else 1) * Z.toRat) ∧
          (v.toRat = 0 → v.sign = zero ((a != b) != np) (d != nc)) ∧ num3 np nc e x y z = one v) ∧
      (X = .nan ∨ Y = .nan → ∀ f ∈ [Val.add, sub, mul, less, more], ∀ g, num2 f g e x y = (F.nan, {})) ∧
      (∀ a, X = .inf a → Y = .inf (!a) → num2 Val.add (· + ·) e x y = bad) ∧
      (∀ a, X = .inf a → Y = .inf a → num2 sub (· - ·) e x y = bad) ∧
      (∀ a b h, (X = .inf a ∧ Y = .num b 0 h) ∨ (X = .num b 0 h ∧ Y = .inf a) →
        num2 mul (· * ·) e x y = bad ∧ ∀ np nc, num3 np nc e x y z = bad) ∧
      (Z = .nan ∧ X.toRat ≠ 0 ∧ Y.toRat ≠ 0 → ∀ np nc, num3 np nc e x y z = (F.nan, {}))) ∧
    (fmtOf e.ty = none → ∀ ff, ∀ f ∈ [((· + ·) : Int → Int → Int), (· - ·), (· * ·), min, max],
      let lo : Int := -(2 ^ (e.w - 1))
      let hi : Int := 2 ^ (e.w - 1) - 1
      let int : Nat → Int := fun c => (BitVec.ofNat e.w c).toInt
      let i := f (int x) (int y)
      let r := num2 ff f e x y
      0 < e.w → r.2 = {} ∧ r.1 < 2 ^ e.w ∧ (e.sat = true → int r.1 = max lo (min hi i)) ∧
        (e.sat = false → (r.1 : Int) = i % 2 ^ e.w)))

/-- The mask instructions (R138, R139): VCMP writes bit l of K[D] with the condition on lane l where the mask enables it, clears it under
zeroing and keeps it under merging. On f32, −0 equals +0, a subnormal is zero under FTZ, and with a NaN only .ne and .un hold; on i32 the conditions of R80
are signed or unsigned as their suffix says. VSEL takes each lane from A or B; KAND, KOR, KXOR, KNOT and both KMOV are bitwise.
VCVT converts group PA of A into group PD of D under the mask, with every element outside the group kept (R140); VEXT extracts an
element, sign-extended for the integer types; VINS replaces one element (R143). -/
def Obligations.MaskAndMoveResults : Prop :=
  (∀ (s : State) (d a b c cc : Fld) (m : VMod),
    (s.here.Coherent → s.here.Clean s.slot [a, b] → d.toNat ≠ 0 →
      let e := venv s.me m
      let x := elem 32 (s.here.rv s.slot a.toNat)
      let y := elem 32 (s.here.rv s.slot b.toNat)
      (∃ t, exec (.vcmp cc d a b m) s = .next t ∧
        (∀ l < 32, (t.me.rk d.toNat).getLsbD l = if e.k.getLsbD l then vcond cc.toNat e (x l) (y l)
          else !e.z && (s.me.rk d.toNat).getLsbD l) ∧
        s.SameOutside t ∧ s.me.Kept t.me [] [] [d.toNat] ∧ t.me.fmode = s.me.fmode ∧ t.me.pc = s.me.pc + 8#64 ∧
        t.here.sp = s.here.sp ∧ t.here.un.vfile = s.here.un.vfile)) ∧
    (s.here.Coherent → s.here.Clean s.slot [a, b] → ∃ t, exec (.vsel d a b c m) s = .next t ∧
      (∀ l < 32, elem 32 (t.here.rv s.slot d.toNat) l =
        elem 32 (s.here.rv s.slot (if (s.me.rk c.toNat).getLsbD l then a.toNat else b.toNat)) l) ∧
      s.VecKeeps t d ∧ t.me.fmode = s.me.fmode) ∧
    exec (.kand d a b) s = .next ((s.updMe (·.wk d.toNat (s.me.rk a.toNat &&& s.me.rk b.toNat))).advance 8) ∧
    exec (.kor d a b) s = .next ((s.updMe (·.wk d.toNat (s.me.rk a.toNat ||| s.me.rk b.toNat))).advance 8) ∧
    exec (.kxor d a b) s = .next ((s.updMe (·.wk d.toNat (s.me.rk a.toNat ^^^ s.me.rk b.toNat))).advance 8) ∧
    exec (.knot d a) s = .next ((s.updMe (·.wk d.toNat (~~~(s.me.rk a.toNat)))).advance 8) ∧
    exec (.kmovToMask d a) s = .next ((s.updMe (·.wk d.toNat ((s.me.rg a.toNat).extractLsb' 0 32))).advance 8) ∧
    exec (.kmovFromMask d a) s = .next ((s.updMe (·.wg d.toNat ((s.me.rk a.toNat).setWidth 64))).advance 8)) ∧
  (∀ (e : VEnv) (x y : Nat),
    let X := f32.unpack e.ftz x
    let Y := f32.unpack e.ftz y
    let u := X.toEReal
    let v := Y.toEReal
    let nan := X = .nan ∨ Y = .nan
    let i := BitVec.ofNat 32 x
    let j := BitVec.ofNat 32 y
    (e.ty = 0 → (∀ c ∈ [x, y], c % 2 ^ 31 = 0 → (f32.unpack e.ftz c).toEReal = 0) ∧
      (vcond 0 e x y = true ↔ ¬nan ∧ u = v) ∧ (vcond 1 e x y = true ↔ nan ∨ u ≠ v) ∧ (vcond 2 e x y = true ↔ ¬nan ∧ u < v) ∧
      (vcond 3 e x y = true ↔ ¬nan ∧ v ≤ u) ∧ (vcond 6 e x y = true ↔ ¬nan ∧ v < u) ∧ (vcond 7 e x y = true ↔ ¬nan ∧ u ≤ v) ∧
      (vcond 10 e x y = true ↔ nan)) ∧
    (e.ty = 2 →
      (vcond 0 e x y = true ↔ i = j) ∧ (vcond 1 e x y = true ↔ i ≠ j) ∧ (vcond 2 e x y = true ↔ i.toInt < j.toInt) ∧
      (vcond 3 e x y = true ↔ j.toInt ≤ i.toInt) ∧ (vcond 4 e x y = true ↔ i.toNat < j.toNat) ∧
      (vcond 5 e x y = true ↔ j.toNat ≤ i.toNat) ∧ (vcond 6 e x y = true ↔ j.toInt < i.toInt) ∧
      (vcond 7 e x y = true ↔ i.toInt ≤ j.toInt) ∧ (vcond 8 e x y = true ↔ j.toNat < i.toNat) ∧
      (vcond 9 e x y = true ↔ i.toNat ≤ j.toNat))) ∧
  (∀ (s : State) (d a b src : Fld) (pd pa : BitVec 2) (m : VMod), s.here.Coherent → s.here.Clean s.slot [a, d] → m.ty ≠ 7#3 →
    let e := venv s.me m
    let ws := typeWidth src.toNat
    let i := (s.me.rg b.toNat).toNat % (1024 / e.w)
    let old := elem e.w (s.here.rv s.slot d.toNat)
    (∃ t, exec (.vcvt src d a pd pa m) s = .next t ∧ s.VecKeeps t d ∧
      (∀ j < 1024 / e.w, elem e.w (t.here.rv s.slot d.toNat) j =
        if j / 32 ≠ pd.toNat then old j
        else if e.k.getLsbD (j % 32) then
          (convertElem src.toNat e.ty e.rnd e.sat e.ftz (elem ws (s.here.rv s.slot a.toNat) (32 * pa.toNat + j % 32))).1 % 2 ^ e.w
        else if e.z then 0 else old j)) ∧
    (∃ t, exec (.vext d a b m) s = .next t ∧ s.SameOutside t ∧ s.me.Kept t.me [d.toNat] [] [] ∧ t.me.pc = s.me.pc + 8#64 ∧
      t.here.sp = s.here.sp ∧ t.here.un.vfile = s.here.un.vfile ∧
      t.me.rg d.toNat = if d = 0#6 then 0#64
        else if m.ty = 2#3 ∨ m.ty = 3#3 ∨ m.ty = 4#3 then (BitVec.ofNat e.w (elem e.w (s.here.rv s.slot a.toNat) i)).signExtend 64
        else BitVec.ofNat 64 (elem e.w (s.here.rv s.slot a.toNat) i)) ∧
    (∃ t, exec (.vins d a b m) s = .next t ∧ s.VecKeeps t d ∧ t.me.fmode = s.me.fmode ∧
      ∀ j < 1024 / e.w, elem e.w (t.here.rv s.slot d.toNat) j =
        if j = i then (s.me.rg a.toNat).toNat % 2 ^ e.w else old j))

/-- The reductions (R63, R144): lane 0 of D takes the tree's result, in which the disabled lanes enter as the identity, and the other
lanes 0; shown with every lane disabled, where the result is the identity, and on integers, where the sum is the exact sum modulo
2^32 and a maximum or minimum is that of the enabled lanes; on f32 the sum is that of the tree of R63, each addition rounded, and a maximum or
minimum is that of the enabled lanes with −0 below +0, canonical NaN where one of them is NaN (R63, R58). VSCAN writes each enabled lane with the
running sum. That SAT acts on f32 on what VREDADD and VSCAN write, and not on the sums inside, is the model's reading (log 27). -/
def Obligations.ReductionResults : Prop :=
  ∀ (s : State) (d a : Fld) (m : VMod), s.here.Coherent → s.here.Clean s.slot [a] → (m.ty = 0#3 ∨ m.ty = 2#3) →
    let e := venv s.me m
    let x := elem 32 (s.here.rv s.slot a.toNat)
    let int : Nat → Int := fun c => (BitVec.ofNat 32 c).toInt
    let on := (List.range 32).filter fun l => e.k.getLsbD l
    let add : Nat → Nat → Nat := fun u v => (num2 Val.add (· + ·) { e with sat := false } u v).1
    let sat : Nat → Nat := fun u => if m.sat = 1#1 then (f32.pack e.rnd true e.ftz (f32.unpack e.ftz u)).1 else u
    let red : Instr → (Nat → Prop) → Prop := fun i good => ∃ t, exec i s = .next t ∧ s.VecKeeps t d ∧
      good (elem 32 (t.here.rv s.slot d.toNat) 0) ∧ ∀ l, 1 ≤ l → l < 32 → elem 32 (t.here.rv s.slot d.toNat) l = 0
    let U : Nat → Val := f32.unpack e.ftz
    let upto : Val → Val → Prop := fun u v => u.toEReal < v.toEReal ∨ u.toEReal = v.toEReal ∧ (v.sign = true → u.sign = true)
    let best : (Val → Val → Prop) → Nat → Prop := fun le r => m.ty = 0#3 → on ≠ [] →
      ((∃ l ∈ on, U (x l) = .nan) → r = 0x7FC00000) ∧
      ((∀ l ∈ on, U (x l) ≠ .nan) → ∃ l ∈ on, r = (f32.pack e.rnd e.sat e.ftz (U (x l))).1 ∧ ∀ j ∈ on, le (U (x j)) (U (x l)))
    red (.vredadd d a m) (fun r => (m.ty = 2#3 → m.sat = 0#1 → r = (on.map x).sum % 2 ^ 32) ∧
      (m.ty = 0#3 → ∃ T : Nat → Nat → Nat, (∀ l < 32, T 0 l = if e.k.getLsbD l then x l else 0x80000000) ∧
        (∀ j < 5, ∀ l < 2 ^ (4 - j), T (j + 1) l = add (T j (2 * l)) (T j (2 * l + 1))) ∧ r = sat (T 5 0)) ∧
      (on = [] → m.sat = 0#1 → r = if m.ty = 0#3 then 0x80000000 else 0)) ∧
    red (.vredmax d a m) (fun r => (m.ty = 2#3 → on ≠ [] → (∃ l ∈ on, r = x l) ∧ ∀ l ∈ on, int (x l) ≤ int r) ∧ best upto r ∧
      (on = [] → m.sat = 0#1 → r = if m.ty = 0#3 then 0xFF800000 else 0x80000000)) ∧
    red (.vredmin d a m) (fun r => (m.ty = 2#3 → on ≠ [] → (∃ l ∈ on, r = x l) ∧ ∀ l ∈ on, int r ≤ int (x l)) ∧ best (fun u v => upto v u) r ∧
      (on = [] → m.sat = 0#1 → r = if m.ty = 0#3 then 0x7F800000 else 0x7FFFFFFF)) ∧
    ∃ t, exec (.vscan d a m) s = .next t ∧ s.VecKeeps t d ∧
      (m.ty = 0#3 → ∃ T : Nat → Nat, T 0 = 0x80000000 ∧ ∀ l < 32, (e.k.getLsbD l = false → T (l + 1) = T l) ∧
        (e.k.getLsbD l = true → T (l + 1) = add (T l) (x l) ∧ elem 32 (t.here.rv s.slot d.toNat) l = sat (T (l + 1)))) ∧
      ∀ l < 32, (e.k.getLsbD l = false →
          elem 32 (t.here.rv s.slot d.toNat) l = if e.z then 0 else elem 32 (s.here.rv s.slot d.toNat) l) ∧
        (e.k.getLsbD l = true → m.ty = 2#3 → m.sat = 0#1 →
          elem 32 (t.here.rv s.slot d.toNat) l = (((List.range (l + 1)).filter fun j => e.k.getLsbD j).map x).sum % 2 ^ 32)

/-- The vector loads (R145, R146): with the block inside and aligned, or every enabled lane's word, and no race or poison, each enabled
lane of D takes the 4 bytes at its address and each other lane follows the mask; no byte of memory changes.
The vector stores (R145, R146): every enabled lane's 4 bytes of B stand at its address, the highest lane's where two name one
address, and every byte outside the enabled lanes' words is as before; no vector register changes.
What they trap on (R146): VLD and VST on G[A] above 0xB_FF80, BOUNDS, or misaligned, ALIGN, whatever the mask; the others on the first
enabled lane whose address is above 0xB_FFFC or no multiple of 4, BOUNDS first, with the address in EVAL. -/
def Obligations.VectorAccesses : Prop :=
  (∀ (s : State) (d a b : Fld) (m : VMod),
    let e := venv s.me m
    let base := s.me.rg a.toNat
    let load : Instr → (Nat → Word) → Prop := fun i addr =>
      (∀ l < 32, e.k.getLsbD l = true → (addr l).toNat ≤ 0xBFFFC ∧ (addr l).toNat % 4 = 0) →
      let rs := (lanesOf e.k).map fun l => ((addr l).toNat, 4)
      s.here.sp.readRace s.slot rs = none → (∀ r ∈ rs, s.here.sp.poisonIn r.1 r.2 = none) →
      ∃ t, exec i s = .next t ∧ s.SameOutside t ∧ s.me.Kept t.me [] [] [] ∧ t.me.pc = s.me.pc + 8#64 ∧ t.me.fmode = s.me.fmode ∧
        t.here.sp.mem = s.here.sp.mem ∧ t.here.en = s.here.en ∧ t.here.li = s.here.li ∧
        ∀ l < 32, elem 32 (t.here.rv s.slot d.toNat) l =
          if e.k.getLsbD l then s.here.sp.mem.readLE (addr l).toNat 4
          else if e.z then 0 else elem 32 (s.here.rv s.slot d.toNat) l
    (base.toNat ≤ 0xBFF80 → base.toNat % 8 = 0 → load (.vld d a m) fun l => base + BitVec.ofNat 64 (4 * l)) ∧
    load (.vlds d a b m) (fun l => base + BitVec.ofNat 64 l * s.me.rg b.toNat) ∧
    (s.here.Coherent → s.here.Clean s.slot [b] → load (.vgath d a b m) fun l => base + BitVec.ofNat 64 (4 * elem 32 (s.here.rv s.slot b.toNat) l))) ∧
  (∀ (s : State) (b a c : Fld) (m : VMod), s.here.Coherent → s.here.Clean s.slot [b] →
    let e := venv s.me m
    let base := s.me.rg a.toNat
    let store : Instr → (Nat → Word) → Prop := fun i addr =>
      (∀ l < 32, e.k.getLsbD l = true → (addr l).toNat ≤ 0xBFFFC ∧ (addr l).toNat % 4 = 0) →
      s.here.sp.writeRace s.slot ((lanesOf e.k).map fun l => ((addr l).toNat, 4)) = none →
      ∃ t, exec i s = .next t ∧ s.SameOutside t ∧ s.me.Kept t.me [] [] [] ∧ t.me.pc = s.me.pc + 8#64 ∧ t.me.fmode = s.me.fmode ∧
        t.here.un.vfile = s.here.un.vfile ∧ t.here.en = s.here.en ∧ t.here.li = s.here.li ∧
        (∀ l < 32, e.k.getLsbD l = true → (∀ j < 32, l < j → e.k.getLsbD j = true → addr j ≠ addr l) →
          t.here.sp.mem.readLE (addr l).toNat 4 = elem 32 (s.here.rv s.slot b.toNat) l) ∧
        ∀ x, (∀ l < 32, e.k.getLsbD l = true → x < (addr l).toNat ∨ (addr l).toNat + 4 ≤ x) →
          t.here.sp.mem.read x = s.here.sp.mem.read x
    (base.toNat ≤ 0xBFF80 → base.toNat % 8 = 0 → store (.vst b a m) fun l => base + BitVec.ofNat 64 (4 * l)) ∧
    store (.vsts b a c m) (fun l => base + BitVec.ofNat 64 l * s.me.rg c.toNat) ∧
    (s.here.Clean s.slot [c] → store (.vscat b a c m) fun l => base + BitVec.ofNat 64 (4 * elem 32 (s.here.rv s.slot c.toNat) l))) ∧
  (∀ (s : State) (d b a c : Fld) (m : VMod), s.here.Coherent →
    let e := venv s.me m
    let base := s.me.rg a.toNat
    let lanes : Instr → (Nat → Word) → Prop := fun i addr => ∀ l < 32, e.k.getLsbD l = true →
      (∀ j < l, e.k.getLsbD j = true → (addr j).toNat ≤ 0xBFFFC ∧ (addr j).toNat % 4 = 0) →
      (0xBFFFC < (addr l).toNat → exec i s = .next (s.takeTrap .bounds (addr l))) ∧
      ((addr l).toNat ≤ 0xBFFFC → (addr l).toNat % 4 ≠ 0 → exec i s = .next (s.takeTrap .align (addr l)))
    (∀ i ∈ [Instr.vld d a m, .vst b a m],
      (0xBFF80 < base.toNat → exec i s = .next (s.takeTrap .bounds base)) ∧
      (base.toNat ≤ 0xBFF80 → base.toNat % 8 ≠ 0 → exec i s = .next (s.takeTrap .align base))) ∧
    lanes (.vlds d a c m) (fun l => base + BitVec.ofNat 64 l * s.me.rg c.toNat) ∧
    lanes (.vsts b a c m) (fun l => base + BitVec.ofNat 64 l * s.me.rg c.toNat) ∧
    (s.here.Clean s.slot [c] → lanes (.vgath d a c m) fun l => base + BitVec.ofNat 64 (4 * elem 32 (s.here.rv s.slot c.toNat) l)) ∧
    (s.here.Clean s.slot [b, c] → lanes (.vscat b a c m) fun l => base + BitVec.ofNat 64 (4 * elem 32 (s.here.rv s.slot c.toNat) l)))

/-- VLDL takes the 128 bytes of the code image at PC + IMM32 where that address is aligned and inside, and traps otherwise with the
address (R147). ROTCFG selects its table in every case and, where field A is not 0, loads the 64 factors from 256 bytes and counts the
version up; the load shows from its ready time on, 34 cycles later, and until then what was in force stays, with the earlier loads still on
their way (R135, R151, R152). An address
above 0xB_FF00 traps BOUNDS, and one that is no multiple of 8 ALIGN. That a literal's address both misaligned and outside the image traps
ALIGN, before BOUNDS, is the model's choice (log 71). -/
def Obligations.LiteralsAndTables : Prop :=
  ∀ (s : State) (d a : Fld) (ty t : BitVec 3) (imm : BitVec 32),
    let p := s.me.pc + imm.signExtend 64
    let q := (s.me.rg a.toNat).toNat
    (p.toNat % 32 = 0 → p.toNat + 128 ≤ s.here.codeLen → ∃ u, exec (.vldl d ty imm) s = .next u ∧
      u.here.rv s.slot d.toNat = BitVec.ofNat 1024 (leNat (s.here.code.readBytes p.toNat 128)) ∧ u.me.pc = s.me.pc + 12#64 ∧
      u.here.sp = s.here.sp ∧ s.me.Kept u.me [] [] []) ∧
    (p.toNat % 32 ≠ 0 → exec (.vldl d ty imm) s = .next (s.takeTrap .align p)) ∧
    (p.toNat % 32 = 0 → s.here.codeLen < p.toNat + 128 → exec (.vldl d ty imm) s = .next (s.takeTrap .bounds p)) ∧
    exec (.rotcfg t 0#6) s = .next ((s.updMe fun x => { x with rotSel := t }).advance 8) ∧
    (a ≠ 0#6 → q ≤ 0xBFF00 → q % 8 = 0 → s.here.sp.readRace s.slot [(q, 256)] = none → s.here.sp.poisonIn q 256 = none →
      ∃ u l, exec (.rotcfg t a) s = .next u ∧ u.me.rotSel = t ∧ u.me.pc = s.me.pc + 8#64 ∧
        u.here.un.bandNext.get t.toNat [] =
          ((s.here.un.bandNext.get t.toNat []).filter fun x => s.here.bar.cycle.toNat < x.ready) ++ [l] ∧
        l.slot = s.slot ∧ l.ready = s.here.bar.cycle.toNat + 34 ∧
        (∀ i < 64, (l.bands.get i 0#64).toNat = s.here.sp.mem.readLE (q + 4 * i) 4) ∧
        u.here.un.bands.get t.toNat {} = bandsNow s.here t.toNat ∧
        u.here.un.bandVer.get t.toNat 0 = (s.here.un.bandVer.get t.toNat 0 + 1) % 2 ^ 16 ∧
        (∀ j, j ≠ t.toNat → u.here.un.bands.get j {} = s.here.un.bands.get j {} ∧
          u.here.un.bandNext.get? j = s.here.un.bandNext.get? j) ∧ u.here.sp.mem = s.here.sp.mem) ∧
    (a ≠ 0#6 → 0xBFF00 < q → exec (.rotcfg t a) s = .next (s.takeTrap .bounds (s.me.rg a.toNat))) ∧
    (a ≠ 0#6 → q ≤ 0xBFF00 → q % 8 ≠ 0 → exec (.rotcfg t a) s = .next (s.takeTrap .align (s.me.rg a.toNat)))

/-- The online softmax and the rotary encoding (R64, R148 to R150, R153): VSMAX writes the whole state: on finite scores the new maximum and
the sum rescaled by 2^(m − m2), 0 from m = −∞; −∞ or NaN as the row's conditions give them. VSEXP.p and .norm write the scores' terms
2^(a − m), over s in .norm, rounded once, under the mask; VSEXP.acc adds the tree of the terms to lane 1 of the state and keeps lanes 0 and 2; a row
whose status holds NANSCORE or INFSCORE gives the canonical NaN. Powers of two are stated for every integer exponent, and for fractions at
−1/2 and −7/4. ROTAPP turns each pair of lanes by the angle pos × F rounded, its cosine and sine rounded, each lane with one rounding; cosine and
sine are stated at 0, 1, −1, 2 and 100, and an infinite angle gives the canonical NaN with NV. The model's choices and readings (log 27): that VSEXP.acc keeps
lanes 3 to 31, that FTZ flushes its terms and tree sums and not th, c and sn of ROTAPP, that an infinite pos × F raises NV and nothing
else, and that the sum of VSMAX keeps the sign of a scale of −0. It turns by the table in force: a load on its way
shows from its ready time on (R152), and
that the context's own load holds its ROTAPP until then is the model's choice (log 65). -/
def Obligations.AttentionResults : Prop :=
  ∀ (s : State) (d a b band : Fld) (m : VMod), s.here.Coherent → s.here.Clean s.slot [a] → m.ty = 0#3 →
    let e := venv s.me m
    let va := s.here.rv s.slot a.toNat
    let vb := s.here.rv s.slot b.toNat
    let vd := s.here.rv s.slot d.toNat
    let num := (lanesOf e.k).all fun l => !(f32.unpack e.ftz (elem 32 va l)).isNan
    let U : Nat → Val := f32.unpack e.ftz
    let number : Val → Prop := fun v => ∃ r, v.IsNum r
    let M := U (elem 32 vb 0)
    let S := U (elem 32 vb 1)
    let add : Nat → Nat → Nat := fun u v => (num2 Val.add (· + ·) { e with sat := false } u v).1
    (s.here.Clean s.slot [b] → ∃ t, exec (.vsmax d a b m) s = .next t ∧ s.VecKeeps t d ∧ (∀ l, 3 ≤ l → l < 32 → elem 32 (t.here.rv s.slot d.toNat) l = 0) ∧
      (num = false → elem 32 (t.here.rv s.slot d.toNat) 0 = 0x7FC00000 ∧ elem 32 (t.here.rv s.slot d.toNat) 1 = 0x7FC00000 ∧
        elem 32 (t.here.rv s.slot d.toNat) 2 % 2 = 1) ∧
      (lanesOf e.k = [] → elem 32 vb 0 = 0xFF800000 → elem 32 vb 1 = 0 → elem 32 vb 2 = 0 →
        elem 32 (t.here.rv s.slot d.toNat) 0 = 0xFF800000 ∧ elem 32 (t.here.rv s.slot d.toNat) 1 = 0 ∧
        elem 32 (t.here.rv s.slot d.toNat) 2 = 4) ∧
      (let xs := M :: (lanesOf e.k).map fun l => U (elem 32 va l)
       let B := U (elem 32 (t.here.rv s.slot d.toNat) 0)
       let s2 := elem 32 (t.here.rv s.slot d.toNat) 1
       elem 32 vb 2 % 4 = 0 → (∀ x ∈ xs, x = .inf true ∨ number x) → (∃ x ∈ xs, number x) → number S →
         elem 32 (t.here.rv s.slot d.toNat) 2 = 0 ∧ number B ∧ (∀ x ∈ xs, number x → x.toRat ≤ B.toRat) ∧
         (∃ x ∈ xs, number x ∧ x.toRat = B.toRat) ∧ (M = .inf true → (U s2).IsNum 0) ∧
         ∀ k : Int, number M → B.toRat - M.toRat = k → ∃ v : Val, v.IsNum (S.toRat * (2 : ℚ) ^ (-k)) ∧ v.sign = S.sign ∧
           s2 = (f32.pack e.rnd false e.ftz v).1)) ∧
    (s.here.Clean s.slot [b] → ∃ t, exec (.vsexpP d a b m) s = .next t ∧ s.VecDone t d { e with w := 32 } fun j => sexpElem false e vb (elem 32 va j)) ∧
    (s.here.Clean s.slot [b] → ∃ t, exec (.vsexpNorm d a b m) s = .next t ∧ s.VecDone t d { e with w := 32 } fun j => sexpElem true e vb (elem 32 va j)) ∧
    (∀ norm x, (elem 32 vb 2 % 4 ≠ 0 → sexpElem norm e vb x = (0x7FC00000, {})) ∧
      (elem 32 vb 2 % 4 = 0 → elem 32 vb 0 = 0xFF800000 → sexpElem norm e vb x = (0, {}))) ∧
    (∀ x, elem 32 vb 2 % 4 = 0 → number M →
      (U x = .inf true → sexpElem false e vb x = (0, {})) ∧
      (number (U x) → (∀ k : Int, (U x).toRat - M.toRat = k →
          (∃ v : Val, v.IsNum ((2 : ℚ) ^ k) ∧ sexpElem false e vb x = f32.pack e.rnd false e.ftz v) ∧
          (number S → 0 < S.toRat → f32.RoundsOnce e.rnd false e.ftz ((2 : ℝ) ^ k / (S.toRat : ℝ)) (sexpElem true e vb x))) ∧
        ((U x).toRat - M.toRat = -1 / 2 → (e.rnd = .rne → sexpElem false e vb x = (0x3F3504F3, { nx := true })) ∧
          (e.rnd = .rup → sexpElem false e vb x = (0x3F3504F4, { nx := true }))) ∧
        ((U x).toRat - M.toRat = -7 / 4 → e.rnd = .rne → sexpElem false e vb x = (0x3E9837F0, { nx := true })) ∧
        (S.IsNum 0 → sexpElem true e vb x = (0x7FC00000, { nv := true })))) ∧
    (s.here.Clean s.slot [d] → ∃ t, exec (.vsexpAcc d a m) s = .next t ∧ s.VecKeeps t d ∧
      (∀ l < 32, l ≠ 1 → elem 32 (t.here.rv s.slot d.toNat) l = elem 32 vd l) ∧
      (elem 32 vd 2 % 4 ≠ 0 → elem 32 (t.here.rv s.slot d.toNat) 1 = 0x7FC00000) ∧
      (elem 32 vd 2 % 4 = 0 → elem 32 vd 0 = 0xFF800000 → elem 32 (t.here.rv s.slot d.toNat) 1 = elem 32 vd 1) ∧
      (elem 32 vd 2 % 4 = 0 → number (U (elem 32 vd 0)) → ∃ T : Nat → Nat → Nat,
        (∀ l < 32, T 0 l = if e.k.getLsbD l then (sexpElem false e vd (elem 32 va l)).1 else 0x80000000) ∧
        (∀ j < 5, ∀ l < 2 ^ (4 - j), T (j + 1) l = add (T j (2 * l)) (T j (2 * l + 1))) ∧
        elem 32 (t.here.rv s.slot d.toNat) 1 = add (elem 32 vd 1) (T 5 0))) ∧
    (∀ pos fac x y, number (U pos) → number (U fac) → number (U x) → number (U y) →
      let r := rotPair e pos fac x y
      let X := (U x).toRat
      let Y := (U y).toRat
      ∃ p : Val, p.IsNum ((U pos).toRat * (U fac).toRat) ∧ p.sign = ((U pos).sign != (U fac).sign) ∧
        let th := (f32.pack .rne false false p).1
        (th % 2 ^ 31 = 0x7F800000 → r = ((0x7FC00000, { nv := true }), (0x7FC00000, { nv := true }))) ∧
        (number (f32.unpack false th) → ∃ c sn : Nat, number (f32.unpack false c) ∧ number (f32.unpack false sn) ∧
          let C := (f32.unpack false c).toRat
          let D := (f32.unpack false sn).toRat
          (∃ v : Val, v.IsNum (X * C - Y * D) ∧ r.1.1 = (f32.pack e.rnd e.sat e.ftz v).1) ∧
          (∃ v : Val, v.IsNum (X * D + Y * C) ∧ r.2.1 = (f32.pack e.rnd e.sat e.ftz v).1) ∧
          (th % 2 ^ 31 = 0 → C = 1 ∧ D = 0) ∧
          ∀ q ∈ [(0x3F800000, 0x3F0A5140, 0x3F576AA4), (0xBF800000, 0x3F0A5140, 0xBF576AA4), (0x40000000, 0xBED51133, 0x3F68C7B7),
              (0x42C80000, 0x3F5CC0EE, 0xBF01A12E)], th = q.1 → c = q.2.1 ∧ sn = q.2.2)) ∧
    (let sel := s.me.rotSel.toNat
    let now := s.here.bar.cycle.toNat
    let loads := s.here.un.bandNext.get sel []
    (∀ l ∈ loads, l.slot = s.slot → now < l.ready → exec (.rotapp d a b band m) s = .next s) ∧
    ∀ tab : Tab Word, (∀ l ∈ loads, l.slot = s.slot → l.ready ≤ now) →
      ((∀ l ∈ loads, now < l.ready) ∧ tab = s.here.un.bands.get sel {} ∨
        ∃ l before after, loads = before ++ l :: after ∧ l.ready ≤ now ∧ (∀ x ∈ after, now < x.ready) ∧ tab = l.bands) →
      ∃ t, exec (.rotapp d a b band m) s = .next t ∧ s.VecDone t d { e with w := 32 } fun j =>
        let p := rotPair e ((s.me.rg b.toNat).toNat % 2 ^ 32) (tab.get (band.toNat + j / 2) 0#64).toNat
          (elem 32 va (j / 2 * 2)) (elem 32 va (j / 2 * 2 + 1))
        if j % 2 = 0 then p.1 else p.2)

/-! ### The matrix unit -/

/-- LATCH, GATH, MEPI and TMM at issue (R113, R158 to R162): where the matrix queue holds fewer than 16 commands, the context owes no
deferred trap, the handle if named is initialised, the plane counts fit the configuration and every address checks, the command
enters the queue's tail with its operands and snapshots, recording the slot at the handle's CP, or PP for MEPI, and a head that its guard
decides is decided (R122); nothing else changes. A full queue makes the command not ready: nothing changes at all (R121).
The head of the matrix queue (R113, R122, R158): a command whose guard is resolved against its sense is discarded with a record of
kind 0x05 and status 1; one whose guard lets it through and whose slot, if it reads one, is full or draining starts, at the step its
accumulator's resume point names where that was left by the identical command; while its slot is neither, or while the guard is UNSET,
it stays; and once its guard has let it through, or not, no later value of the guard changes that. -/
def Obligations.MatrixQueue : Prop :=
  (∀ (s : State) (d a b grp : Fld) (m : VMod) (e : EDesc), s.NoDefer →
    let v := s.here.rv s.slot b.toNat
    let enqueues : Instr → TileCmd → Word → Word → Word → VReg → Bool → Prop := fun i t ga gb gd idx mepi =>
      ∀ hslot : Option Nat,
        (if e.he = 1#1 then ∃ x, s.here.handle? e.hnd.toNat = some x ∧ hslot = some (if mepi then x.pp else x.cp) else hslot = none) →
        let q := s.tileCmd i ga gb gd idx hslot
        (16 ≤ s.here.en.matQ.length → exec i s = .next s) ∧
        (s.here.en.matQ.length < 16 → planesOk s.here.un.mcfg i t = true → cmdAddrs q t = .ok () →
          ∃ u, exec i s = .next u ∧
            (let c := (s.here.updEn fun e => { e with matQ := e.matQ ++ [q] }).decideHeads
            u.here.en = c.en ∧ u.here.sp = c.sp ∧ c.en.matQ.map MatCmd.instr = s.here.en.matQ.map MatCmd.instr ++ [i]) ∧
            u.here.un.vfile = s.here.un.vfile ∧ u.here.un.accs = s.here.un.accs ∧ u.here.un.mla = s.here.un.mla ∧
            u.here.sp.mem = s.here.sp.mem ∧ s.me.Kept u.me [] [] [] ∧ u.me.pc = s.me.pc + 16#64 ∧ s.SameOutside u)
    enqueues (.latch a grp m e) ⟨m, e, grp.toNat⟩ (s.me.rg a.toNat) 0#64 0#64 0#1024 false ∧
    (s.here.Coherent → s.here.Clean s.slot [b] →
      enqueues (.gath d a b grp m e) ⟨m, e, grp.toNat⟩ (s.me.rg a.toNat) 0#64 (s.me.rg d.toNat) v false) ∧
    enqueues (.mepi a m e) ⟨m, e, 0⟩ (s.me.rg a.toNat) 0#64 0#64 0#1024 true ∧
    enqueues (.tmm a b m e) ⟨m, e, 0⟩ (s.me.rg a.toNat) (s.me.rg b.toNat) 0#64 0#1024 false) ∧
  (∀ (s : State) (core : Nat) (q : MatCmd) (rest : List MatCmd) (t : TileCmd), (s.core core).en.matQ = q :: rest →
    tileOf q.instr = some t → (s.core core).en.seq = none → (s.core core).en.evHeld = [] → q.slot < 12 →
    let c := s.core core
    let g := (c.guard t.e.gsl.toNat).val
    let passed := q.fate = some true ∨ q.fate = none ∧ (t.e.ge = 0#1 ∨ g = some (!(t.e.gs == 1#1)))
    let reads := ∀ a m e, q.instr ≠ .mepi a m e
    let st : Nat → Option SlotSt := fun j => (c.handle? t.e.hnd.toNat).map fun x => (x.slotAt j).st
    let stays : Prop := ∃ u q', exec (.engineQueueHeadStart core .matrix) s = .next u ∧ (u.core core).en.matQ = q' :: rest ∧
      q'.instr = q.instr ∧ (u.core core).en.seq = none ∧ (u.core core).un = c.un ∧ (u.core core).sp.mem = c.sp.mem
    (q.fate = none → t.e.ge = 1#1 → g = none → stays) ∧
    (q.fate = some false ∨ q.fate = none ∧ t.e.ge = 1#1 ∧ g = some (t.e.gs == 1#1) → c.en.events.length < 32 →
      ∃ u, exec (.engineQueueHeadStart core .matrix) s = .next u ∧ (u.core core).en.matQ.map MatCmd.instr = rest.map MatCmd.instr ∧
        (u.core core).en.seq = none ∧ (u.core core).un = c.un ∧ (u.core core).sp.mem = c.sp.mem ∧
        ∃ r, (u.core core).en.events = c.en.events ++ [r] ∧ r.w0.toNat % 256 = 5 ∧ r.w0.toNat / 2 ^ 32 % 2 ^ 16 = 1) ∧
    (∀ j, passed → reads → q.hslot = some j → st j ≠ some .full → st j ≠ some .draining → stays) ∧
    (passed → (∀ j, reads → q.hslot = some j → st j = some .full ∨ st j = some .draining) →
      ∃ u q', exec (.engineQueueHeadStart core .matrix) s = .next u ∧
        (u.core core).en.matQ.map MatCmd.instr = rest.map MatCmd.instr ∧ (u.core core).en.seq = some q' ∧
        q'.instr = q.instr ∧ (u.core core).sp.mem = c.sp.mem ∧ (u.core core).sp.handles = c.sp.handles ∧
        (u.core core).un.accs = c.un.accs ∧ (q.acc = none → q'.step = 0) ∧
        ∀ n, q.acc = some n → (u.core core).un.resume.get? n = none ∧
          q'.step = (match c.un.resume.get? n with
            | some r => if r.bits = q.bits then r.step else 0
            | none => 0)))

/-- A step of the sequencer that reads operands (R113, R155, R159 to R161): with no race and no poison, a LATCH or GATH leaves the
latch's record with the values its tile holds and ends; a TMM step fills its two latches and adds their products to the accumulator's
M × N elements alone; the scratchpad's bytes do not change.
What a fill takes (R51, R53, R156): of values the code at the element's place in a row- or column-major tile; of planes the two's complement
number of the planes read, and the row's scale byte.
The sums (R62): BF16 adds each exact product in turn and rounds; FP8 adds the exact sum of two; plane data add the exact sum of the products
of the elements' values, with the midpoint correction; a NaN scale or a NaN operand gives canonical NaN. -/
def Obligations.MatrixReads : Prop :=
  (∀ (s : State) (core : Nat) (q : MatCmd) (t : TileCmd), (s.core core).en.seq = some q → tileOf q.instr = some t →
    let c := s.core core
    let clear : Core → Bool → Prop := fun c a =>
      (c.withRow q.slot q.row).readRace q.slot (readRangesOf q t a q.step) = none ∧
      ∀ r ∈ readRangesOf q t a q.step, c.sp.poisonIn r.1 r.2 = none
    (∀ n, q.lat = some n → q.step = 0 → (c.withRow q.slot q.row).readRace q.slot (readRangesOf q t t.e.aSide 0) = none →
        (∀ r ∈ readRangesOf q t t.e.aSide 0, c.sp.poisonIn r.1 r.2 = none) →
      ∃ u, exec (.matrixStep core) s = .next u ∧ (u.core core).en.seq = none ∧ (u.core core).sp.mem = c.sp.mem ∧
        (u.core core).un.accs = c.un.accs ∧ (∀ j, j ≠ t.e.lat.toNat → (u.core core).un.mla.get? j = c.un.mla.get? j) ∧
        (u.core core).un.mla.get? t.e.lat.toNat = some (fillLatch c.sp.mem (sideOf q t t.e.aSide) t.m.ty (t.e.mc == 1#1)
          (if t.e.aSide then t.rows else t.cols) 0 t.depth t.grp (rowIx q))) ∧
    (isTmm q = true → clear c true → clear c false →
      (∀ e ∈ c.un.poisonA, e / 2048 = t.e.acc.toNat → ¬ (e / 64 % 32 < t.rows ∧ e % 64 < t.cols)) →
      ∃ u la lb, exec (.matrixStep core) s = .next u ∧ (u.core core).sp.mem = c.sp.mem ∧
        (u.core core).un.mla.get? (q.step % 2) = some la ∧ (u.core core).un.mla.get? (2 + q.step % 2) = some lb ∧
        la.cnt = t.rows ∧ lb.cnt = t.cols ∧
        (∀ acc i j, acc < 4 → i < 32 → j < 64 → (u.core core).un.accs.get (acc * 2048 + i * 64 + j) 0#32 =
          if acc = t.e.acc.toNat ∧ i < t.rows ∧ j < t.cols then
            BitVec.ofNat 32 (dot la lb i j (c.un.accs.get (acc * 2048 + i * 64 + j) 0#32).toNat)
          else c.un.accs.get (acc * 2048 + i * 64 + j) 0#32) ∧
        (q.step + 1 < stepsOf q t → (u.core core).en.seq = some { q with step := q.step + 1 }) ∧
        (stepsOf q t ≤ q.step + 1 → (u.core core).en.seq = none))) ∧
  (∀ (m : Mem) (d : Side) (ty : BitVec 3) (mc : Bool) (cnt k0 kn g : Nat) (ix : Nat → Nat) (i k : Nat),
    i < cnt → cnt ≤ 64 → k < kn → kn ≤ 32 →
    let l := fillLatch m d ty mc cnt k0 kn g ix
    let v := l.vals.get (if d.a then i * 64 + k else k * 64 + i) 0
    l.ty = ty ∧ l.kn = kn ∧ l.cnt = cnt ∧
    (ty ≠ 7#3 → d.colDir = d.a → v = m.readLE (d.base + 8 * ((d.len * d.w + 63) / 64) * (k0 + k) + i * d.w / 8) (d.w / 8)) ∧
    (ty ≠ 7#3 → d.colDir ≠ d.a → v = m.readLE (d.base + 8 * ((d.len * d.w + 63) / 64) * ix i + (k0 + k) * d.w / 8) (d.w / 8)) ∧
    (ty = 7#3 → 2 ≤ d.pl → l.pl = d.pl ∧ l.mc = (mc && decide (d.pl < d.p)) ∧
      l.scales.get i 0 = (m.read (d.sbase + ix i * d.g + g)).toNat ∧
      v = (BitVec.ofNat d.pl ((List.range d.pl).map fun j =>
        m.readLE (d.base + 8 * ((d.g * d.p + 1) / 2) * ix i + 4 * (g * d.p + j)) 4 / 2 ^ k % 2 * 2 ^ (d.pl - 1 - j)).sum).toInt)) ∧
  (∀ (la lb : MLatch) (i j acc : Nat),
    let A : Fmt → Nat → Val := fun F k => F.unpack true (la.vals.get (i * 64 + k) 0).toNat
    let B : Fmt → Nat → Val := fun F k => F.unpack true (lb.vals.get (k * 64 + j) 0).toNat
    let product : Fmt → Nat → ℚ := fun F k => (A F k).toRat * (B F k).toRat
    let number : Val → Prop := fun v => ∃ r, v.IsNum r
    let numbers : Fmt → Prop := fun F => ∀ k < la.kn, number (A F k) ∧ number (B F k)
    (la.ty = 1#3 → numbers bf16 → ∃ a : Nat → Nat, a 0 = acc ∧ dot la lb i j acc = a la.kn ∧
      ∀ k < la.kn, number (f32.unpack true (a k)) → Accumulates (product bf16 k) (a k) (a (k + 1))) ∧
    (∀ F, la.ty = 5#3 ∧ F = e4m3 ∨ la.ty = 6#3 ∧ F = e5m2 → numbers F → ∃ a : Nat → Nat, a 0 = acc ∧
      dot la lb i j acc = a ((la.kn + 1) / 2) ∧ ∀ k < (la.kn + 1) / 2, number (f32.unpack true (a k)) →
        Accumulates (product F (2 * k) + if 2 * k + 1 < la.kn then product F (2 * k + 1) else 0) (a k) (a (k + 1))) ∧
    (∀ F, la.ty = 1#3 ∧ F = bf16 ∨ la.ty = 5#3 ∧ F = e4m3 ∨ la.ty = 6#3 ∧ F = e5m2 →
      (∃ k < la.kn, A F k = .nan ∨ B F k = .nan) → dot la lb i j acc = 0x7FC00000) ∧
    (la.ty = 7#3 → 1 ≤ la.pl → 1 ≤ lb.pl →
      let ea := la.scales.get i 0
      let eb := lb.scales.get j 0
      let value : MLatch → Int → Nat → ℚ := fun l v e =>
        ((v : ℚ) + if l.mc then 1 / 2 else 0) * (2 : ℚ) ^ ((e : Int) - 127 - ((l.pl : Int) - 1))
      (ea = 255 ∨ eb = 255 → dot la lb i j acc = 0x7FC00000) ∧
      (ea ≠ 255 → eb ≠ 255 → number (f32.unpack true acc) →
        Accumulates ((List.range la.kn).map fun k =>
          value la (la.vals.get (i * 64 + k) 0) ea * value lb (lb.vals.get (k * 64 + j) 0) eb).sum acc (dot la lb i j acc))))

/-- A step of a MEPI without a handle (R113, R156, R162): rows 4s to 4s + 3 of its M × N region are stored, each element rounded to the
type, with subnormals flushed before and after the rounding (R58), at the addresses of a row-major or column-major tile; every byte outside the ranges it stores to is as
before, and the accumulator keeps its contents.
A race met by a running tile command, whichever of the four it is (R113, R382): the command ends at its step with no store and no change of
an accumulator, leaves the resume point of the accumulator it names, clears the latch that a LATCH, a GATH or a side of a TMM was filling
(R155), posts a record of kind 0x04 where the event queue has room, and makes its issuer owe the trap MMX with the granule's offset. -/
def Obligations.MatrixStores : Prop :=
  (∀ (s : State) (core : Nat) (q : MatCmd) (a : Fld) (m : VMod) (e : EDesc), (s.core core).en.seq = some q → q.instr = .mepi a m e →
    e.he = 0#1 → q.hslot = none → m.ty ≠ 7#3 →
    let c := s.core core
    let t : TileCmd := ⟨m, e, 0⟩
    let w := typeWidth m.ty.toNat / 8
    let rows := e.tm.toNat + 1
    let cols := e.tn.toNat + 1
    let base := (q.ga + BitVec.ofNat 64 (8 * e.base.toNat)).toNat
    let addr : Nat → Nat → Nat := fun i j =>
      if e.dira = 0#1 then base + 8 * ((8 * cols * w + 63) / 64) * i + j * w else base + 8 * ((8 * rows * w + 63) / 64) * j + i * w
    let code : Lane → Nat := fun x => match fmtOf m.ty.toNat with
      | some F => F.flush (F.pack (rounding m q.fmode) (m.sat == 1#1) false (f32.unpack true x.toNat)).1
      | none => (packInt (8 * w) (rounding m q.fmode) (m.sat == 1#1) (f32.unpack true x.toNat)).1
    q.step < stepsOf q t → (c.withRow q.slot q.row).writeRace q.slot (storeRanges q t q.step) = none →
    (∀ p ∈ c.un.poisonA, p / 2048 = e.acc.toNat → ¬ (4 * q.step ≤ p / 64 % 32 ∧ p / 64 % 32 < 4 * q.step + 4 ∧ p % 64 < cols)) →
    ∃ u, exec (.matrixStep core) s = .next u ∧
      (∀ i j, 4 * q.step ≤ i → i < 4 * q.step + 4 → i < rows → j < cols →
        (u.core core).sp.mem.readLE (addr i j) w = code (c.un.accs.get (e.acc.toNat * 2048 + i * 64 + j) 0#32)) ∧
      (∀ x, (∀ r ∈ storeRanges q t q.step, x < r.1 ∨ r.1 + r.2 ≤ x) → (u.core core).sp.mem.read x = c.sp.mem.read x) ∧
      (u.core core).un = c.un ∧
      (u.core core).en.seq = if q.step + 1 < stepsOf q t then some { q with step := q.step + 1 } else none) ∧
  (∀ (s : State) (core g : Nat) (q : MatCmd) (t : TileCmd), (s.core core).en.seq = some q → tileOf q.instr = some t →
    (s.core core).en.events.length < 32 → (s.core core).en.evHeld = [] → q.slot < 12 →
    let c := s.core core
    let row := c.withRow q.slot q.row
    let fails : (State → Prop) → Prop := fun good => ∃ u, exec (.matrixStep core) s = .next u ∧ good u ∧
      (u.core core).sp.mem = c.sp.mem ∧ (u.core core).un.accs = c.un.accs ∧ (u.core core).en.seq = none ∧
      (∀ n, q.acc = some n → (u.core core).un.resume.get? n = some ⟨q.step, q.bits⟩) ∧
      (∃ r, (u.core core).en.events = c.en.events ++ [r] ∧ r.w0.toNat % 256 = 4 ∧ r.w0.toNat / 2 ^ 32 % 2 ^ 16 = 2) ∧
      ∃ dq, (u.core core).en.defers = c.en.defers ++ [dq] ∧ dq.owner = q.owner ∧ dq.cause = .mmx ∧ dq.eval = BitVec.ofNat 64 g ∧
        ∀ n, q.acc = some n → dq.key.isAcc n = true
    (∀ a m e, q.instr = .mepi a m e → row.writeRace q.slot (storeRanges q t q.step) = some g →
      fails fun u => (u.core core).sp = c.sp ∧ (u.core core).un.mla = c.un.mla) ∧
    (∀ l, q.lat = some l → row.readRace q.slot (readRangesOf q t t.e.aSide 0) = some g →
      fails fun u => (u.core core).sp = c.sp ∧ (u.core core).un.mla.get? l = none ∧
        ∀ k, k ≠ l → (u.core core).un.mla.get? k = c.un.mla.get? k) ∧
    (isTmm q = true → row.readRace q.slot (readRangesOf q t true q.step) = some g →
      fails fun u => (u.core core).sp = c.sp ∧ (u.core core).un.mla.get? (q.step % 2) = none) ∧
    (isTmm q = true → row.readRace q.slot (readRangesOf q t true q.step) = none →
      (∀ r ∈ readRangesOf q t true q.step, c.sp.poisonIn r.1 r.2 = none) →
      row.readRace q.slot (readRangesOf q t false q.step) = some g →
      fails fun u => (u.core core).un.mla.get? (2 + q.step % 2) = none))

/-- The direct matrix instructions (R163 to R166) where no matrix command queued or running names what they name and no deferred trap
is owed: MMA and PMMA add the sums of R62 to the M × N elements of their accumulator from two valid latches of their type and equal
depth, and trap ILLEGAL otherwise; MZERO clears an accumulator, MRD reads and MWR writes half a row, both leaving every other element;
MCFG writes the configuration. None of the accumulator elements that an instruction reads is poisoned (R130); MZERO and MWR clear the poison
of what they overwrite. -/
def Obligations.MatrixDirect : Prop :=
  ∀ (s : State) (d a b : Fld) (h : BitVec 1) (m : VMod) (pa pb : BitVec 2) (ga gb : BitVec 6), s.NoDefer →
    let acc : State → Nat → Nat → Nat → Lane := fun s n i j => s.here.un.accs.get (n * 2048 + i * 64 + j) 0#32
    let row := (s.me.rg b.toNat).toNat % 32
    let clean : Nat → Nat → Nat → Nat → Nat → Prop := fun n i rows j cols => ∀ e ∈ s.here.un.poisonA,
      ¬ (e / 2048 = n ∧ i ≤ e / 64 % 32 ∧ e / 64 % 32 < i + rows ∧ j ≤ e % 64 ∧ e % 64 < j + cols)
    (∀ i ∈ [Instr.mma d a b m, .pmma d a b m], mmacBusy s.here d.toNat [a.toNat, b.toNat] true = false →
      (∀ la lb, s.here.un.mla.get? a.toNat = some la → s.here.un.mla.get? b.toNat = some lb → la.ty = m.ty → lb.ty = m.ty →
        la.kn = lb.kn → la.cnt ≤ 32 → lb.cnt ≤ 64 → clean d.toNat 0 la.cnt 0 lb.cnt → ∃ t, exec i s = .next t ∧ s.AccKeeps t ∧
          ∀ n r c, n < 4 → r < 32 → c < 64 → acc t n r c =
            if n = d.toNat ∧ r < la.cnt ∧ c < lb.cnt then BitVec.ofNat 32 (dot la lb r c (acc s n r c).toNat) else acc s n r c) ∧
      (s.here.un.mla.get? a.toNat = none ∨ s.here.un.mla.get? b.toNat = none ∨
          (∃ la lb, s.here.un.mla.get? a.toNat = some la ∧ s.here.un.mla.get? b.toNat = some lb ∧
            (la.ty ≠ m.ty ∨ lb.ty ≠ m.ty ∨ la.kn ≠ lb.kn)) → exec i s = .next (s.takeTrap .illegal s.bytesHere))) ∧
    (mmacBusy s.here d.toNat [] false = false → ∃ t, exec (.mzero d) s = .next t ∧ s.AccKeeps t ∧
      t.here.un.resume.get? d.toNat = none ∧ (∀ e, e ∈ t.here.un.poisonA ↔ e ∈ s.here.un.poisonA ∧ e / 2048 ≠ d.toNat) ∧
      ∀ n r c, n < 4 → r < 32 → c < 64 → acc t n r c = if n = d.toNat then 0#32 else acc s n r c) ∧
    (mmacBusy s.here a.toNat [] false = false → clean a.toNat row 1 (32 * h.toNat) 32 → ∃ t, exec (.mrd d a b h) s = .next t ∧
      s.VecKeeps t d ∧ t.me.fmode = s.me.fmode ∧ t.here.un.resume = s.here.un.resume ∧
      ∀ l < 32, elem 32 (t.here.rv s.slot d.toNat) l = (acc s a.toNat row (32 * h.toNat + l)).toNat) ∧
    (mmacBusy s.here d.toNat [] false = false → s.here.Coherent → s.here.Clean s.slot [a] →
      ∃ t, exec (.mwr d a b h m) s = .next t ∧ s.AccKeeps t ∧ t.here.un.resume.get? d.toNat = none ∧
        (∀ e ∈ t.here.un.poisonA, ¬ (e / 64 = 32 * d.toNat + row ∧ e % 64 / 32 = h.toNat)) ∧
        ∀ n r c, n < 4 → r < 32 → c < 64 →
          let v := elem 32 (s.here.rv s.slot a.toNat) (c % 32)
          (acc t n r c).toNat = if n = d.toNat ∧ r = row ∧ c / 32 = h.toNat then
              (if v / 2 ^ 23 % 256 = 0 then v / 2 ^ 31 * 2 ^ 31 else v)
            else (acc s n r c).toNat) ∧
    exec (.mcfg pa pb ga gb) s = .next ((s.updHere (·.updUn fun u =>
      { u with mcfg := { pa := 4 + 2 * pa.toNat, pb := 4 + 2 * pb.toNat, ga := ga.toNat + 1, gb := gb.toNat + 1 } })).advance 8)

/-! ### Handles, guards, tags -/

/-- The HANDLE group on an initialised handle, with no deferred trap owed (R118, R169): HINIT sets it up, HWAITF makes full slots
draining, HWAITE goes on where the slots are free, HADV frees full or draining slots and HPUB fills free ones, each with a release,
HEXP posts an expectation, and HST reads the handle word with the fields of R170. An HPUB that makes the slot full for which a context waits
ends that wait: the slot is draining, and the wait's return acquires the publisher's release (R70, R119).
A slot's life (R118): an expectation and an arrival that match, in either order, make the slot full; an arrival into a full slot, or
past the expectation or the size, is an overflow; and a full slot that is freed is free, or filling where an expectation was posted
for the next phase. -/
def Obligations.HandleResults : Prop :=
  (∀ (s : State) (h a d sd : Fld) (sz : BitVec 13) (nn : Fld) (n : BitVec 7) (x : Handle), s.NoDefer →
    let base := (s.me.rg a.toNat).toNat
    let size := 8 * (sz.toNat + 1)
    let stays : State → Prop := fun t => s.me.Kept t.me [] [] [] ∧ t.me.fmode = s.me.fmode ∧ t.me.pc = s.me.pc + 8#64 ∧
      t.here.sp.mem = s.here.sp.mem ∧ t.here.un = s.here.un ∧ ∀ j, j ≠ h.toNat → t.here.handle? j = s.here.handle? j
    ((∀ e ∈ s.here.bar.ctxs.entries, ∀ k, e.2.wait ≠ some (.handleFull h.toNat k)) →
      handleInUse s s.cur h.toNat = false → base % 8 = 0 → base + (nn.toNat + 1) * size ≤ 0xC0000 →
      ∃ t, exec (.hinit h a sz nn) s = .next t ∧ stays t ∧
        t.here.handle? h.toNat = some { base := base, size := size, n := nn.toNat + 1 }) ∧
    (s.here.handle? h.toNat = some x → 1 ≤ n.toNat → n.toNat ≤ x.n →
      (∀ e ∈ s.here.bar.ctxs.entries, ∀ k, e.2.wait ≠ some (.handleFull h.toNat k)) →
      (x.fullFrom n.toNat = true → ∃ t y, exec (.hwaitf h n) s = .next t ∧ stays t ∧ t.here.handle? h.toNat = some y ∧
        y.cp = x.cp ∧ y.pp = x.pp ∧ ∀ j, (y.slotAt j).st = if j ∈ x.slotsFrom x.cp n.toNat then .draining else (x.slotAt j).st) ∧
      (x.fullFrom n.toNat = false → exec (.hwaitf h n) s = .next (s.stop (.wait (.handleFull h.toNat n.toNat)))) ∧
      (x.freeFrom n.toNat = true → exec (.hwaite h n) s = .next (s.advance 8)) ∧
      (x.freeFrom n.toNat = false → exec (.hwaite h n) s = .next (s.stop (.wait (.handleEmpty h.toNat n.toNat)))) ∧
      (x.fullFrom n.toNat = true → ∃ t y, exec (.hadv h n) s = .next t ∧ stays t ∧
        t.here.handle? h.toNat = some y ∧ y.cp = (x.cp + n.toNat) % x.n ∧ y.pp = x.pp ∧
        (∀ j, j ∉ x.slotsFrom x.cp n.toNat → y.slotAt j = x.slotAt j) ∧
        (∀ j ∈ x.slotsFrom x.cp n.toNat, (x.slotAt j).nxt = 0 → y.slotAt j = {}) ∧
        t.here.sp.regionOf s.slot = s.here.sp.regionOf s.slot + 1) ∧
      ((∀ j ∈ x.slotsFrom x.pp n.toNat, (x.slotAt j).st = .free ∨ (x.slotAt j).st = .filling) →
        ∃ t y, exec (.hpub h n) s = .next t ∧ stays t ∧ t.here.handle? h.toNat = some y ∧ y.pp = (x.pp + n.toNat) % x.n ∧
          y.cp = x.cp ∧ (∀ j ∈ x.slotsFrom x.pp n.toNat, (x.slotAt j).st = .free → (y.slotAt j).st = .full) ∧
          (∀ j, (x.slotAt j).st = .filling → y.slotAt j = x.slotAt j) ∧
          t.here.sp.regionOf s.slot = s.here.sp.regionOf s.slot + 1)) ∧
    (∀ k, s.here.handle? h.toNat = some x → 1 ≤ x.n → x.pp = x.cp → (x.slotAt (x.cp % x.n)).st = .free → k ≠ s.slot →
      (s.here.ctx k).wait = some (.handleFull h.toNat 1) → ∃ t y r, exec (.hpub h 1#7) s = .next t ∧
        (t.here.ctx k).wait = some (.met r) ∧ s.here.sp.regionOf s.slot < r.get s.slot 0 ∧ t.here.handle? h.toNat = some y ∧
        (y.slotAt (x.cp % x.n)).st = .draining) ∧
    (s.here.handle? h.toNat = some x → sd.toNat < x.n →
      (∀ e ∈ s.here.bar.ctxs.entries, ∀ k, e.2.wait ≠ some (.handleFull h.toNat k)) →
      let j := (x.pp + sd.toNat) % x.n
      (∀ y, x.expect j base = some y → ∃ t, exec (.hexp h a sd) s = .next t ∧ stays t ∧ t.here.handle? h.toNat = some y) ∧
      (x.expect j base = none → exec (.hexp h a sd) s = .next (s.takeTrap .handle (BitVec.ofNat 64 (0x40 + h.toNat))))) ∧
    exec (.hst d h sd) s = .next ((s.updMe (·.wg d.toNat (handleWord s.here h.toNat sd.toNat))).advance 8) ∧
    (s.here.handle? h.toNat = some x → x.pp < 64 → x.cp < 64 → x.n ≤ 64 →
      let w := (handleWord s.here h.toNat sd.toNat).toNat
      let q := x.slotAt (sd.toNat % x.n)
      q.exp < 2 ^ 17 → q.arr < 2 ^ 17 →
        w / 2 ^ 63 = 1 ∧ w / 2 ^ 57 % 2 ^ 6 = x.pp ∧ w / 2 ^ 51 % 2 ^ 6 = x.cp ∧ w / 2 ^ 44 % 2 ^ 7 = x.n ∧
        w / 2 ^ 42 % 4 = (match q.st with
          | .free => 0 | .filling => 1 | .full => 2 | .draining => 3) ∧
        w / 2 ^ 25 % 2 ^ 17 = q.exp ∧ w / 2 ^ 8 % 2 ^ 17 = q.arr ∧ w % 2 ^ 8 = 0) ∧
    (s.here.handle? h.toNat = none → handleWord s.here h.toNat sd.toNat = 0#64 ∧
      ∀ i ∈ [Instr.hwaitf h n, .hwaite h n, .hadv h n, .hpub h n, .hexp h a sd],
        exec i s = .next (s.takeTrap .handle (BitVec.ofNat 64 (0x10 + h.toNat)))) ∧
    (s.here.handle? h.toNat = some x → n.toNat = 0 ∨ x.n < n.toNat →
      ∀ i ∈ [Instr.hwaitf h n, .hwaite h n, .hadv h n, .hpub h n],
        exec i s = .next (s.takeTrap .handle (BitVec.ofNat 64 (0x50 + h.toNat))))) ∧
  (∀ (h : Handle) (j b : Nat) (rel : Row), 0 < b → b ≤ h.size →
    ((h.slotAt j).st = .free → ∃ y, (h.expect j b).bind (fun y => y.arrive j b rel none) = some y ∧ (y.slotAt j).st = .full) ∧
    ((h.slotAt j).st = .free → ∃ y, (h.arrive j b rel none).bind (fun y => y.expect j b) = some y ∧ (y.slotAt j).st = .full) ∧
    ((h.slotAt j).st = .full ∨ (h.slotAt j).st = .draining → h.arrive j b rel none = none) ∧
    ((h.slotAt j).st = .filling → h.size < (h.slotAt j).arr + b → h.arrive j b rel none = none) ∧
    ((h.slotAt j).st = .filling → (h.slotAt j).exp ≠ 0 → (h.slotAt j).exp < (h.slotAt j).arr + b → h.arrive j b rel none = none) ∧
    ((h.slotAt j).nxt = 0 → ((h.freeSlot j).slotAt j).st = .free) ∧
    ((h.slotAt j).nxt ≠ 0 → ((h.freeSlot j).slotAt j).st = .filling ∧ ((h.freeSlot j).slotAt j).exp = (h.slotAt j).nxt))

/-- Guards (R171): GSET is a release and sets the slot TRUE or FALSE with the predicate, GCLR makes it UNSET, GST reads 0, 1 or 2; no
other slot and no byte of memory changes.
The tag table (R116, R172): LOOKUP of a line that a program way of its set holds returns the slot and makes it the most recently returned;
one that none holds returns bit 63,
the victim's valid bit and the victim, the lowest invalid way, else the least recently returned way of the set; TAGW makes the slot the only one of its set that holds the line, and the most recently returned; TAGINV clears a slot, or a line's
entry; without a region all four trap BOUNDS. -/
def Obligations.GuardAndTagResults : Prop :=
  (∀ (s : State) (gd a d : Fld),
    (∃ t, exec (.gset gd a) s = .next t ∧ (t.here.guard gd.toNat).val = some (s.me.rp a.toNat) ∧
      (∀ j, j ≠ gd.toNat → t.here.guard j = s.here.guard j) ∧ t.here.sp.mem = s.here.sp.mem ∧ s.me.Kept t.me [] [] [] ∧
      t.here.sp.regionOf s.slot = s.here.sp.regionOf s.slot + 1 ∧ t.me.pc = s.me.pc + 8#64) ∧
    (∃ t, exec (.gclr gd) s = .next t ∧ (t.here.guard gd.toNat).val = none ∧
      (∀ j, j ≠ gd.toNat → t.here.guard j = s.here.guard j) ∧ t.here.sp.mem = s.here.sp.mem ∧ s.me.Kept t.me [] [] [] ∧
      t.here.sp.regionOf s.slot = s.here.sp.regionOf s.slot ∧ t.me.pc = s.me.pc + 8#64) ∧
    exec (.gst d gd) s = .next ((s.updMe (·.wg d.toNat (match (s.here.guard gd.toNat).val with
      | none => 0#64
      | some true => 1#64
      | some false => 2#64))).advance 8)) ∧
  (∀ (s : State) (d a b : Fld),
    let line := (s.me.rg a.toNat).toNat / 1024
    let sets := s.here.sp.tagSets
    let ways := if s.here.sp.ropesFlag then 6 else 8
    let held : State → Nat → Nat → Prop := fun s l j =>
      s.here.sp.tags.get? j = some l ∧ j / 8 = l % sets ∧ j % 8 < ways
    (sets = 0 → ∀ i ∈ [Instr.lookup d a, .tagw a b, .taginvSlot a, .taginvLine a], exec i s = .next (s.takeTrap .bounds 0xC0000#64)) ∧
    (0 < sets → (∀ j, held s line j → (∀ k, held s line k → k = j) →
        ∃ t, exec (.lookup d a) s = .next t ∧ t.me.rg d.toNat = (if d = 0#6 then 0#64 else BitVec.ofNat 64 j) ∧
          t.here.sp.tags = s.here.sp.tags ∧ t.here.sp.tagAge = j :: s.here.sp.tagAge.filter (fun k => k ≠ j) ∧
          t.me.pc = s.me.pc + 8#64 ∧ t.here.sp.mem = s.here.sp.mem) ∧
      ((∀ j, ¬ held s line j) → d ≠ 0#6 → ∃ t v, exec (.lookup d a) s = .next t ∧ v / 8 = line % sets ∧ v % 8 < ways ∧
        (t.me.rg d.toNat).toNat = 2 ^ 63 + (if s.here.sp.tags.has v then 2 ^ 62 else 0) + v ∧
        (∀ w < v % 8, s.here.sp.tags.has v = false → s.here.sp.tags.has (8 * (line % sets) + w) = true) ∧
        ((∃ w < ways, s.here.sp.tags.has (8 * (line % sets) + w) = false) → s.here.sp.tags.has v = false) ∧
        ((∀ w < ways, s.here.sp.tags.has (8 * (line % sets) + w) = true) →
          (∃ w < ways, 8 * (line % sets) + w ∈ s.here.sp.tagAge) → ∃ newer older, s.here.sp.tagAge = newer ++ v :: older ∧
            ∀ k ∈ older, ¬ (k / 8 = line % sets ∧ k % 8 < ways)) ∧
        t.here.sp = s.here.sp ∧ t.me.pc = s.me.pc + 8#64)) ∧
    (0 < sets → let j := (s.me.rg b.toNat).toNat;
      (8 * sets ≤ j ∨ (s.here.sp.ropesFlag = true ∧ 6 ≤ j % 8) → exec (.tagw a b) s =
        .next (s.takeTrap .bounds (BitVec.ofNat 64 s.here.sp.tagBase + 1024#64 * s.me.rg b.toNat))) ∧
      (j < 8 * sets → (s.here.sp.ropesFlag = false ∨ j % 8 < 6) → ∃ t, exec (.tagw a b) s = .next t ∧
        t.here.sp.tags.get? j = some line ∧ t.here.sp.tagAge = j :: s.here.sp.tagAge.filter (fun k => k ≠ j) ∧ (∀ k, k ≠ j → k / 8 = j / 8 → t.here.sp.tags.get? k ≠ some line) ∧
        (∀ k, k / 8 ≠ j / 8 → t.here.sp.tags.get? k = s.here.sp.tags.get? k) ∧ t.me.pc = s.me.pc + 8#64 ∧
        t.here.sp.mem = s.here.sp.mem ∧ s.me.Kept t.me [] [] [])) ∧
    (0 < sets → let j := (s.me.rg a.toNat).toNat;
      j < 8 * sets → (s.here.sp.ropesFlag = false ∨ j % 8 < 6) → ∃ t, exec (.taginvSlot a) s = .next t ∧
        t.here.sp.tags.get? j = none ∧ (∀ k, k ≠ j → t.here.sp.tags.get? k = s.here.sp.tags.get? k) ∧ t.me.pc = s.me.pc + 8#64) ∧
    (0 < sets → ∃ t, exec (.taginvLine a) s = .next t ∧ t.me.pc = s.me.pc + 8#64 ∧ t.here.sp.mem = s.here.sp.mem ∧
      (∀ k, t.here.sp.tags.get? k ≠ s.here.sp.tags.get? k → held s line k ∧ t.here.sp.tags.get? k = none) ∧
      ((∀ j k, held s line j → held s line k → j = k) → ∀ k, ¬ held t line k)))

/-! ### Ropes -/

/-- The rope edits (R188, R199 to R201): with room in the queue, a good block and source and no race, RNEW, RCAT, RSPLIT, RSPLICE and
RAPP enter the queue's tail with their operands, answer the ticket and make the block's granules PEND, storing nothing; a full queue
makes them not ready. At the head the edit reserves what it needs, or ends with its status and the trap its issuer owes; committed, it
puts its roots into the block and ends, but for words of the block that have held theirs since the commit (R380; that a word may, and when, is
the model's choice, log 5); RNEW of no elements gives the empty rope.
What the edits build (R189 to R192, R201): of RCAT the elements of A and then B; of RSPLIT at i the first i elements and the rest; of
RSPLICE the first i, those of B, and what follows the n removed; of RNEW the source's; of RAPP those of A and then the source's. -/
def Obligations.RopeEdits : Prop :=
  (∀ (s : State) (d a b c : Fld) (sl : BitVec 2), s.NoDefer →
    let sp := s.here.sp
    let blk := (s.me.rg c.toNat).toNat
    let esz := schemaEsz (s.here.en.schemas.get sl.toNat 0)
    let source : Nat → Word → Prop := fun n w => s.here.en.schemas.has sl.toNat = true ∧ n * esz ≤ 65472 ∧
      (n * esz = 0 ∨ (w.toNat + n * esz ≤ 0xC0000 ∧ w.toNat % 8 = 0))
    let issues : Instr → Nat → Nat → Prop := fun i inN out =>
      (16 ≤ s.here.en.ropeQ.length → exec i s = .next s) ∧
      (s.here.en.ropeQ.length < 16 → blk % 8 = 0 → blk + Nat.max inN out ≤ 0xC0000 → sp.readRace s.slot [(blk, inN)] = none →
        sp.poisonIn blk inN = none →
        (∀ q ∈ granules blk out, sp.dmaWriteConflict (.edit s.cur s.here.en.ticketNext) s.slot (sp.seenRow s.slot) q = false) →
        ∃ t e, exec i s = .next t ∧ t.here.en.ropeQ = s.here.en.ropeQ ++ [e] ∧ e.ticket = s.here.en.ticketNext ∧ e.instr = i ∧
          e.ga = s.me.rg a.toNat ∧ e.gb = s.me.rg b.toNat ∧ e.block = blk ∧
          t.me.rg d.toNat = (if d = 0#6 then 0#64 else BitVec.ofNat 64 e.ticket) ∧ s.me.Kept t.me [d.toNat] [] [] ∧
          t.me.pc = s.me.pc + 8#64 ∧ t.here.sp.mem = sp.mem ∧ s.SameOutside t ∧
          ∀ q ∈ granules blk out, (t.here.sp.granule q).pend = some (.edit s.cur e.ticket))
    (source (s.me.rg b.toNat).toNat (s.me.rg a.toNat) → issues (.rnew d a b c sl) 0 8) ∧ issues (.rcat d a b c) 0 8 ∧
    issues (.rsplit d a b c) 0 16 ∧ issues (.rsplice d a b c) 16 8 ∧
    (source (sp.mem.readLE blk 8) (s.me.rg b.toNat) → issues (.rapp d a b c sl) 8 8)) ∧
  (∀ (s : State) (core : Nat) (e : Edit) (rest : List Edit),
    let x : Access := { core := core, rope := true, l1 := true, part := e.part }
    let began := s.updCore core fun c => c.updEn fun en => { en with ropeQ := rest, editRun := some e }
    (s.core core).en.editRun = none → (s.core core).en.evHeld = [] → (s.core core).en.ropeQ = e :: rest → e.fault = none →
    ∀ i ∈ [Instr.ropeEditStart core, .engineQueueHeadStart core .rope],
      (∀ r u, editStart x e began = .ok (r, u) → ∃ t, exec i s = .next t ∧ (t.core core).en.ropeQ = (u.core core).en.ropeQ ∧
        (t.core core).en.editRun = some { e with started := true, reserved := r.1, piece := r.2 }) ∧
      (∀ st n v, st ≠ 0 → editStart x e began = .error ⟨.status st n, v⟩ → ∃ t q, exec i s = .next t ∧ (t.core core).en.editRun = none ∧
        (t.core core).en.defers = (s.core core).en.defers ++ [q] ∧ q.owner = e.owner ∧ q.key.isEdit e.ticket = true ∧
        q.cause = if st = 0x18 then .quota else if st = 2 then .mmx else .rope)) ∧
  (∀ (s : State) (core : Nat) (e : Edit),
    let x : Access := { core := core, rope := true, l1 := true, part := e.part }
    let ends : List Nat → Mem → Prop := fun roots m => ∃ t, exec (.ropeEditCommit core) s = .next t ∧ (t.core core).en.editRun = none ∧
      (t.core core).sp.mem = m.writeBytes e.block (roots.flatMap (leBytes 8))
    (s.core core).en.editRun = some e → e.started = true → e.miss = none →
    (e.fault = none → e.roots = none → e.landed = [] →
      (∀ b r u v, editBuild x e s = .ok (b, u) → editWrite x e b u = .ok (r, v) → ends r (v.core core).sp.mem) ∧
      (∀ d a b c sl, e.instr = .rnew d a b c sl → e.gb = 0#64 → e.reserved = [] → e.piece = none → ends [0] (s.core core).sp.mem)) ∧
    (∀ roots, e.roots = some roots → e.landed = [] → ends roots (s.core core).sp.mem) ∧
    (∀ roots, e.roots = some roots → (∀ j < roots.length, j ∈ e.landed) → ∃ t, exec (.ropeEditCommit core) s = .next t ∧
      (t.core core).en.editRun = none ∧ (t.core core).sp.mem = (s.core core).sp.mem)) ∧
  (∀ (x : Access) (I : State → Prop) (f : Nat → List Byte) (sch : Nat) (e : Edit) (s u : State) (b : Built), RopeReads x I f sch → I s →
    editBuild x e s = .ok (b, u) →
    let size := schemaEsz sch
    let rope : Word → List Byte := fun w => if w = 0#64 then [] else f w.toNat
    let i := (e.par.headD 0#64).toNat
    let n := (e.par.tail.headD 0#64).toNat
    let source : State → List Byte := fun v => (v.core x.core).sp.mem.readBytes (editSource e).toNat (editBytes e)
    let out := b.roots.map fun r => r.elim [] (RT.seq f)
    ∀ (d a g c : Fld) (sl : BitVec 2),
      (e.instr = .rcat d a g c → out = [rope e.ga ++ rope e.gb]) ∧
      (e.instr = .rsplit d a g c → out = [(rope e.ga).take (e.gb.toNat * size), (rope e.ga).drop (e.gb.toNat * size)]) ∧
      (e.instr = .rsplice d a g c →
        out = [(rope e.ga).take (i * size) ++ rope e.gb ++ (rope e.ga).drop ((i + n) * size)]) ∧
      (e.instr = .rnew d a g c sl → e.schema = sch → ∃ v, I v ∧ out = [source v]) ∧
      (e.instr = .rapp d a g c sl → e.schema = sch → ∃ v, I v ∧ out = [rope e.ga ++ source v]))

/-- The rope queries and reference operations (R197, R199, R202, R203) of a context that owes no deferred trap, fewer than four of the
core's in progress: what each writes to D, its block, a root cell or a schema slot when its reads of the rope succeed; the trap ROPE
with the status where the node of RIDX or RLEN is refused, what its reads have met in memory standing (R288), with POSITION for an element of
the empty rope. RPUB publishes the root with what
its context has acquired, and an RTAKE of that root acquires it (R196). In a taste run RTAKE gives the next recorded root, and RPUB abandons
the run (R300, R302; log 33).
The summary over a range (R185, R186, R202): of a slot of ADD, MAX or MIN over i32, where the nodes' slots are those of their elements, RSUM
and RVALID give the sum modulo 2^64, the largest or the smallest of the range's elements, whatever the rope's shape, and no node is stale. -/
def Obligations.RopeQueries : Prop :=
  (∀ (s : State) (d a b c : Fld) (sl : BitVec 2), s.NoDefer → ropeOps s.here < 4 →
    let x := ropeAccess s s.cur
    let ga := s.me.rg a.toNat
    let gb := s.me.rg b.toNat
    let p := gb.toNat
    let done : State → Nat → Out := fun u v => .next ((u.updMe (·.wg d.toNat (BitVec.ofNat 64 v))).advance 8)
    let fails : Nat → Out := fun st => .next (s.takeTrap .rope (BitVec.ofNat 64 (st * 65536)))
    let block : Word → Nat → Nat → Prop := fun g n whole => g.toNat % 8 = 0 ∧ g.toNat + whole ≤ 0xC0000 ∧
      s.here.sp.readRace s.slot [(g.toNat, n)] = none ∧ s.here.sp.poisonIn g.toNat n = none
    let read : Word → Nat → State := fun g n => s.setCore s.cur (s.here.updSp fun sp => sp.stampReads s.slot [(g.toNat, n)])
    let writes : Instr → State → List Byte → Nat → Prop := fun i u bs v =>
      u.here.sp.writeRace u.slot [(p, bs.length)] = none → ∃ t, exec i s = .next t ∧ t.here.sp.mem = u.here.sp.mem.writeBytes p bs ∧
        t.me.rg d.toNat = (if d = 0#6 then 0#64 else BitVec.ofNat 64 v) ∧ t.me.pc = u.me.pc + 8#64
    (∀ r q j u, elemOf x ga.toNat p s = .ok ((r, q, j), u) →
      exec (.ridx d a b) s = done u (r.left + 64 + r.right + j * schemaEsz r.schema)) ∧
    (ga = 0#64 → exec (.ridx d a b) s = fails 0x12 ∧ exec (.rlen d a) s = done s 0) ∧
    (∀ st n v, st ≠ 0x18 →
      let met : Out := .next ((s.metErrors v).takeTrap .rope (BitVec.ofNat 64 (st * 65536)))
      (elemOf x ga.toNat p s = .error ⟨.status st n, v⟩ → exec (.ridx d a b) s = met) ∧
      (rootOf x ga.toNat s = .error ⟨.status st n, v⟩ → exec (.rlen d a) s = met)) ∧
    (∀ r u, rootOf x ga.toNat s = .ok (r, u) → exec (.rlen d a) s = done u (ropeLen r)) ∧
    (∀ r q j u, block gb 8 32 → elemOf x ga.toNat (s.here.sp.mem.readLE p 8) (read gb 8) = .ok ((r, q, j), u) →
      writes (.rwalk d a b) u (leBytes 8 (elemAddr r j) ++ leBytes 8 q ++ leBytes 8 r.len ++ leBytes 8 r.header) (q + r.len)) ∧
    (∀ v n u, rangeSum a gb sl.toNat s = .ok ((v, n), u) →
      (n = 0 → writes (.rsum d a b sl) u v 0) ∧ (0 < n → exec (.rsum d a b sl) s = done u 1) ∧
      exec (.rvalidChk d a b sl) s = done u n ∧ writes (.rvalidFix d a b sl) u v n) ∧
    (∀ r v w u, s.inTaste = false → ga.toNat % 8 = 0 → readCell x ga.toNat (dropCache s s.cur) = .ok (r, v) →
      takeRef x r v = .ok ((), w) → recordTake x r w = .ok ((), u) →
      exec (.rtake d a) s = done (u.updHere (·.acquire u.slot (u.mod.mem.pubs.get (x.part * 2 ^ 56 + r) {}))) r) ∧
    (∀ r v u, s.inTaste = true → recordedTake x (dropCache s s.cur) = .ok (r, v) → takeRef x r v = .ok ((), u) →
      exec (.rtake d a) s = done u r) ∧
    (s.inTaste = false → ga.toNat % 8 ≠ 0 → exec (.rtake d a) s = fails 0x17 ∧ exec (.rpub d a b) s = fails 0x17) ∧
    (∀ old v w u, s.inTaste = false → ga.toNat % 8 = 0 → ((p = 0 ∧ v = s) ∨ ∃ n, p ≠ 0 ∧ readNode x p s = .ok (n, v)) →
      readCell x ga.toNat v = .ok (old, w) →
      (writeMem x ga.toNat (leBytes 8 p) w = .ok ((), u) →
        let n := u.sendRef old false x.part (coreDie u.cur)
        let n := if p = 0 then n
          else n.updMem fun m => { m with pubs := m.pubs.set (x.part * 2 ^ 56 + p) ((n.here.sp.seenRow n.slot).export n.cur) }
        exec (.rpub d a b) s = done n old ∧ ((s.me.rg c.toNat).toNat = old → exec (.rpubCmp d a b c) s = done n old)) ∧
      ((s.me.rg c.toNat).toNat ≠ old → exec (.rpubCmp d a b c) s = done w old)) ∧
    (s.inTaste = true → exec (.rpub d a b) s = .next s.voidRun ∧ exec (.rpubCmp d a b c) s = .next s.voidRun) ∧
    (ga = 0#64 → exec (.rrel a) s = .next (s.advance 8)) ∧
    (∀ n v u, ga ≠ 0#64 → readNode x ga.toNat s = .ok (n, v) → refNow x ga.toNat false v = .ok ((), u) →
      exec (.rrel a) s = .next (u.advance 8)) ∧
    (block ga 16 16 → let sch := s.here.sp.mem.readLE ga.toNat 8 + 2 ^ 64 * s.here.sp.mem.readLE (ga.toNat + 8) 8;
      (schemaOk sch = true → exec (.rdecl sl a) s =
        .next (((read ga 16).updHere (·.updEn fun e => { e with schemas := e.schemas.set sl.toNat sch })).advance 8)) ∧
      (schemaOk sch = false → exec (.rdecl sl a) s = fails 0x13)) ∧
    (∀ (I : State → Prop) (f : Nat → List Byte) (sch n : Nat) (v : List Byte) (u : State), RopeReads x I f sch →
      let k := sl.toNat
      let i := s.here.sp.mem.readLE p 8
      let j := s.here.sp.mem.readLE (p + 8) 8
      let size := schemaEsz sch
      let whole : RT → Prop := fun t => t.fields.slots.getD k (0, 0) = leafSummary sch k 0 (t.seq f)
      let r := leafSummary sch k 0 (((f ga.toNat).drop (i * size)).take ((j - i) * size))
      (∀ va s t u, I s → rootOf x va s = .ok (some t, u) → whole t) →
      (∀ va r s l y u, I s → RT.kids x (.old va r) s = .ok ((l, y), u) → whole l ∧ whole y) →
      (slotDesc sch k).ty = 2 → (slotDesc sch k).cls = 0 → (slotDesc sch k).op ∈ [1, 2, 3] → ga ≠ 0#64 → block gb 16 16 →
      I (read gb 16) → rangeSum a gb k s = .ok ((v, n), u) → n = 0 ∧ i ≤ j ∧ v = leBytes 8 r.1 ++ leBytes 8 r.2)) ∧
  (∀ (sch k n : Nat) (bs : List Byte), bs.length = n * schemaEsz sch → (slotDesc sch k).ty = 2 → (slotDesc sch k).cls = 0 →
    let x : Nat → Int := fun e => (BitVec.ofNat 32 (field bs (e * schemaEsz sch + (slotDesc sch k).foff) 4)).toInt
    let r := leafSummary sch k 0 bs
    let v : Int := (BitVec.ofNat 32 r.1).toInt
    ((slotDesc sch k).op = 1 → (r.1 : Int) = ((List.range n).map x).sum % 2 ^ 64 ∧ r.2 = 0) ∧
    ((slotDesc sch k).op = 2 → 0 < n → (∃ e < n, v = x e) ∧ ∀ e < n, x e ≤ v) ∧
    ((slotDesc sch k).op = 3 → 0 < n → (∃ e < n, v = x e) ∧ ∀ e < n, v ≤ x e))

/-- Counts and reclaim (R194, R195): an update in flight changes the 4 bytes of its count alone, not a record's count at 0; a decrement
to 0 puts the record or piece into its die's reclaim queue. The reclaim engine takes the first record apart, zeroes its 128 bytes and
sends its children's decrements; either waits, and its die asks, where there is no translation that allows the write (R293); a rope unit
drops its whole cache, with the tags of its two ways (R116); and what every unit has dropped leaves the queue. -/
def Obligations.CountsAndReclaim : Prop :=
  (∀ (s : State) (va part d : Nat) (inc : Bool) (rest : List (Nat × Bool × Nat × Nat)),
    s.mod.mem.refUpd = (va, inc, part, d) :: rest →
    let act := s.modify (State.countAccess part d) va 4 fun b => leBytes 4 (State.newCount inc (va % 65536 == 0) (leNat b))
    (∀ b pa v, s.mod.mem.tagRuns = [] ∨ s.mod.mem.keyOf part ≠ 0 → act = .ok (b, pa, v) →
      let n := s.mod.mem.hbm.readLE pa 4
      ∃ t, exec (.refcntUpdateArrival va) s = .next t ∧ t.mod.mem.refUpd = rest ∧
        (∀ x, x < pa ∨ pa + 4 ≤ x → t.mod.mem.hbm.read x = s.mod.mem.hbm.read x) ∧
        t.mod.mem.hbm.readLE pa 4 = (if n = 0 ∧ ¬ (inc = true ∧ va % 65536 = 0) then n else if inc then (n + 1) % 2 ^ 32 else n - 1) ∧
        (inc = false → n = 1 → ∃ f, (t.die (pa / 2 ^ 38)).freed = (s.die (pa / 2 ^ 38)).freed ++ [f] ∧ f.part = part ∧
          f.va = (if va % 65536 = 0 then va else va - 16) ∧ f.piece = (va % 65536 == 0))) ∧
    (∀ r, act = .error (.miss r) → (∀ q ∈ (s.die d).declared, q.1 ≠ r) → ∃ t, exec (.refcntUpdateArrival va) s = .next t ∧
      t.mod = s.mod ∧ r ∈ (t.die d).waits)) ∧
  (∀ (s : State) (die : Nat) (f : Freed) (rest : List Freed), (s.die die).freed = f :: rest → f.done = false →
    let act := s.modify (State.countAccess f.part die) f.va 128 fun _ => leBytes 128 0
    (∀ b pa v, s.mod.mem.tagRuns = [] ∨ s.mod.mem.keyOf f.part ≠ 0 → act = .ok (b, pa, v) →
      let r := readRecord (s.mod.mem.hbm.readBytes pa 128)
      ∃ t, exec (.reclaimEngineStep die) s = .next t ∧
        (∀ x, t.mod.mem.hbm.read x = if pa ≤ x ∧ x < pa + 128 then 0#8 else s.mod.mem.hbm.read x) ∧
        { f with done := true } ∈ (t.die die).freed ∧
        (r.leaf = true → t.mod.mem.refUpd = s.mod.mem.refUpd ++ [(r.left, false, f.part, die)]) ∧
        (r.leaf = false → r.left ≠ 0 → r.right ≠ 0 → t.mod.mem.refUpd =
          s.mod.mem.refUpd ++ [(r.left + 16, false, f.part, die), (r.right + 16, false, f.part, die)])) ∧
    (∀ r, act = .error (.miss r) → (∀ q ∈ (s.die die).declared, q.1 ≠ r) → ∃ t, exec (.reclaimEngineStep die) s = .next t ∧
      t.mod = s.mod ∧ r ∈ (t.die die).waits ∧ (t.die die).freed = (s.die die).freed)) ∧
  (∀ (s : State) (core : Nat), ∃ t, exec (.ropeCacheDrop core) s = .next t ∧ (t.core core).en.ropeCache = {} ∧
    (t.core core).en.ropeEpoch = s.mod.mem.epoch ∧ (t.core core).sp.mem = (s.core core).sp.mem ∧ t.mod = s.mod ∧
    ∀ j, (t.core core).sp.tags.get? j = if (s.core core).sp.ropesFlag = true ∧ 6 ≤ j % 8 then none else (s.core core).sp.tags.get? j) ∧
  (∀ (s : State) (die : Nat) (f : Freed) (rest : List Freed), (s.die die).freed = f :: rest → f.done = true →
    allDropped s f.epoch = true → ∃ t, exec (.poolReturn die) s = .next t ∧ (t.die die).freed = rest ∧
      t.mod.mem.hbm = s.mod.mem.hbm)

/-! ### Translation, memory, the aperture -/

/-- XLAT (R319 to R322) and the service of translations (R290, R293, R295, R346): TLBW writes a well-formed entry to one place of the
die's last level, and the page is its partition's, or traps ILLEGAL with the word at fault; TLBINV removes every unpinned entry it names,
every entry of the die's cluster and rope TLBs that it names, and posts a record of kind 0x06 with its first word for each that it removes
dirty; while a reduction of the die that has operands in its staging buffer has pinned an entry that it names it holds its context, and
otherwise it answers how many are pinned (R127, R294, R312, R320);
HARVEST hands out the first dirty entry and cleans it; TLBR reads; a declared status wakes what waits; a harvest cleans every entry; a
scrub finds what the ECC makes of a sector: no error, one symbol corrected and rewritten, two detected, with the poison pattern and a count
(R287, R288); a host access reads or writes through its VF's partition, and in PARK and SLEEP its write is discarded and its read returns all ones
(R364). Choices of the model: where such a write is counted (log 50); TLBINV removes at once
what is not pinned, and an answer installs only what fits (log 39); the harvest timer runs on the module clock (log 12); the die whose TLB an aperture access
uses, and that poison or a wrong kind is an aperture fault (log 53). -/
def Obligations.TranslationResults : Prop :=
  ∀ (s : State) (d a b c : Fld) (m : BitVec 2),
    let ga := s.me.rg a.toNat
    let gb := s.me.rg b.toNat
    let x := s.die (coreDie s.cur)
    (∀ w, tlbwBad ga gb = some w → exec (.tlbw a b) s = .next (s.takeTrap .illegal w)) ∧
    (ga.getLsbD 63 = false → tlbwBad ga gb = some ga) ∧
    (tlbwBad ga gb = none → ∃ t i e, exec (.tlbw a b) s = .next t ∧ (t.die (coreDie s.cur)).tlb.get? i = some e ∧
      e.w0 = ga ∧ e.setDirty false = (⟨ga, gb⟩ : TlbE).setDirty false ∧
      (∀ j, j ≠ i → (t.die (coreDie s.cur)).tlb.get? j = x.tlb.get? j) ∧ (∀ k, k ≠ coreDie s.cur → t.die k = s.die k) ∧
      t.mod = { s.mod with mem := { s.mod.mem with pages := t.mod.mem.pages } } ∧
      ((⟨ga, gb⟩ : TlbE).remote = false → ((⟨ga, gb⟩ : TlbE).f1 0 25 * 2 ^ 16, 2 ^ (⟨ga, gb⟩ : TlbE).shift) ∈
        t.mod.mem.pages.get (⟨ga, gb⟩ : TlbE).part []) ∧ t.me.pc = s.me.pc + 8#64 ∧ s.me.Kept t.me [] [] []) ∧
    (let names : TlbE → Bool := fun e =>
        if m = 0#2 then e.hits gb.toNat ga.toNat else if m = 1#2 then e.valid && e.part == gb.toNat else e.valid;
      let gone := (x.tlb.entries.filter fun q => names q.2 && !x.pinned q.1 && q.2.dirty).map fun q => q.2.w0
      let applies : Prop := ∃ p ∈ s.cores.entries, coreDie p.1 = coreDie s.cur ∧ ∃ y : Copy, CEntry.copy y ∈ p.2.en.flight ∧ y.staged ≠ [] ∧
        ∃ i ∈ y.pinned, ∃ e, x.tlb.get? i = some e ∧ names e = true
      (m ≠ 2#2 → 16 ≤ gb.toNat → exec (.tlbinv d a b m) s = .next (s.takeTrap .illegal gb)) ∧
      (m = 2#2 ∨ gb.toNat < 16 → ∃ t, exec (.tlbinv d a b m) s = .next t ∧
        (∀ i e, (t.die (coreDie s.cur)).tlb.get? i = some e → names e = true → x.pinned i = true) ∧
        (∀ i e, x.tlb.get? i = some e → names e = false → (t.die (coreDie s.cur)).tlb.get? i = some e) ∧
        (∀ q, (t.cluster q).tlb = if q / 64 = coreDie s.cur then (s.cluster q).tlb.filter (fun e => !names e) else (s.cluster q).tlb) ∧
        (∀ i, (t.core i).en.ropeTlb = if coreDie i = coreDie s.cur then (s.core i).en.ropeTlb.filter (fun e => !names e)
          else (s.core i).en.ropeTlb) ∧
        (s.here.en.evHeld = [] → s.here.en.events.length + gone.length ≤ 32 → ∃ rs, t.here.en.events = s.here.en.events ++ rs ∧
          rs.map EvRec.w1 = gone ∧ ∀ r ∈ rs, r.w0.toNat % 256 = 6) ∧
        (applies → t.me.pc = s.me.pc ∧ t.me.held = some (.tlbinv d a b m) ∧ ∀ r, t.me.rg r = s.me.rg r) ∧
        (¬ applies → t.me.pc = s.me.pc + 8#64 ∧ t.me.rg d.toNat = (if d = 0#6 then 0#64 else
          BitVec.ofNat 64 (x.tlb.entries.filter fun q => names q.2 && x.pinned q.1).length)))) ∧
    (∀ i e, x.tlb.entries.find? (fun q => ga.toNat ≤ q.1 && q.2.valid && q.2.dirty) = some (i, e) → ∃ t,
      exec (.harvest d c a) s = .next t ∧ (t.die (coreDie s.cur)).tlb.get? i = some (e.setDirty false) ∧
      (∀ j, j ≠ i → (t.die (coreDie s.cur)).tlb.get? j = x.tlb.get? j) ∧ t.me.pc = s.me.pc + 8#64 ∧
      (d ≠ c → d ≠ 0#6 → t.me.rg d.toNat = e.w0) ∧ (c ≠ 0#6 → t.me.rg c.toNat = BitVec.ofNat 64 (i + 1))) ∧
    (x.tlb.entries.find? (fun q => ga.toNat ≤ q.1 && q.2.valid && q.2.dirty) = none → exec (.harvest d c a) s =
      .next ((s.updMe fun y => (y.wg d.toNat 0#64).wg c.toNat 16384#64).advance 8)) ∧
    (16384 ≤ ga.toNat → exec (.tlbr d c a) s = .next (s.takeTrap .illegal ga)) ∧
    (ga.toNat < 16384 → let e := (x.tlb.get? ga.toNat).getD ⟨0#64, 0#64⟩;
      exec (.tlbr d c a) s = .next ((s.updMe fun y => (y.wg d.toNat e.w0).wg c.toNat e.w1).advance 8)) ∧
    (∀ r, waitsOn s r = true → (s.cluster (coreCluster r.core)).xreqs.contains r = false → exec (.translationRequest r) s =
      .next (s.updCluster (coreCluster r.core) fun q => { q with xreqs := q.xreqs ++ [r] })) ∧
    (∀ r, (s.cluster (coreCluster r.core)).xreqs.contains r = true →
      (∀ p ∈ [(XAnswer.fault, 0x11), (.quota, 0x13), (.unreachable, 0x12)],
        exec (.translationAnswer r p.1) s = .next (resumeAll (popRequest s r) r (some p.2))) ∧
      (∀ w0 w1, entryFits s r ⟨w0, w1⟩ = true →
        exec (.translationAnswer r (.install w0 w1)) s = .next (resumeAll (installFor (popRequest s r) r ⟨w0, w1⟩) r none))) ∧
    (∀ r st core k, ((s.core core).ctx k).heldOn = some r →
      ((wake s r st).core core).ctx k = { (s.core core).ctx k with heldOn := none, declared := st }) ∧
    (∀ die, (s.die die).timer ≤ s.mod.clock → ∃ t, exec (.harvestTimerExpiry die) s = .next t ∧
      (t.die die).timer = s.mod.clock + 3990000 ∧ (∀ i e, (t.die die).tlb.get? i = some e → e.dirty = false) ∧
      ∀ q ∈ (s.die die).tlb.entries, q.2.dirty = true → q.2.w0 ∈ (t.die die).marked) ∧
    (∀ q, s.mod.power = .run → q * 64 % 2 ^ 37 < 96000000000 → s.mod.mem.poison.contains q = false →
      let errors := (s.mod.mem.flips.filter fun f => f.1 == q).length
      let rest := s.mod.mem.flips.filter fun f => f.1 != q
      (errors = 0 → exec (.memoryRefresh q .clean) s = .next s) ∧
      (errors = 1 → exec (.memoryRefresh q .corrected) s = .next ((s.countError q 0).updMem fun k => { k with flips := rest })) ∧
      (errors = 2 → exec (.memoryRefresh q .uncorrectable) s =
        .next ((s.countError q 1).updMem fun k => { k with flips := rest, poison := k.poison ++ [q] }))) ∧
    (∀ vf va bs, s.mod.phase = .ready → s.mod.power = .run → s.mod.aperIn = [] →
      (va + bs.length ≤ 2 ^ 36 → ∀ t,
        (s.updMod fun k => { k with aperIn := [{ vf := vf, va := va, bytes := some bs, n := bs.length }] }).writeVirt
          (aperAccess s vf) va bs = .ok (false, t) →
        exec (.apertureWrite vf va bs) s = .next (t.updMod fun k => { k with aperIn := [] })) ∧
      (∀ n, va + n ≤ 2 ^ 36 → ∀ t b,
        (s.updMod fun k => { k with aperIn := [{ vf := vf, va := va, bytes := none, n := n }] }).readVirt
          (aperAccess s vf) va n = .ok (b, false, t) →
        exec (.apertureRead vf va n) s = .next (t.updMod fun k => { k with aperIn := [], aperOut := k.aperOut ++ [(vf, some b)] }))) ∧
    (∀ vf va bs n, s.mod.power = .park ∨ s.mod.power = .sleep →
      exec (.apertureWrite vf va bs) s = .next (s.updMod fun k => { k with discarded := k.discarded + 1 }) ∧
      exec (.apertureRead vf va n) s =
        .next (s.updMod fun k => { k with aperOut := k.aperOut ++ [(vf, some (List.replicate n 0xFF#8))] }))


/-! ### Messages, channels, roles -/

/-- Sending (R215, R216, R230 to R233): with fewer than 16 messages outstanding, a good control word and a target of the map, AMSEND,
RSST and RAMO release, count the message and put it on the way to its target; slot 11 may not send, and a taste run that sends to
another core is abandoned (R302). AMREPLY keeps the value of the running handler's reply and AMRET ends the handler with it and with its
release (R216). ROLE reads
the core's table entry; RECAST writes one where the table stays a single wiring, and no core's wiring in force changes before that core's
next dispatch (R209). -/
def Obligations.MessageInstructions : Prop :=
  ∀ (s : State) (a b c d : Fld) (wc n3 : BitVec 3) (aop : BitVec 4) (sz : BitVec 1),
    let w := s.me.rg a.toNat
    let v := s.me.rg b.toNat
    let sends : Instr → Bool → Nat → Word → Prop := fun i named h arg =>
      (s.inTaste = false → 16 ≤ s.here.li.outstanding → exec i s = .next s) ∧
      (s.inTaste = false → s.here.li.outstanding < 16 → s.slot = 11 → exec i s = .next (s.takeTrap .illegal s.bytesHere)) ∧
      (s.inTaste = false → s.here.li.outstanding < 16 → s.slot ≠ 11 → controlOk w named = false →
        exec i s = .next (s.takeTrap .illegal w)) ∧
      (controlTarget s w ≠ some s.cur → s.inTaste = true → exec i s = .next s.voidRun) ∧
      (∀ j rs x, s.inTaste = false → s.here.li.outstanding < 16 → s.slot ≠ 11 → controlOk w named = true → s.NoDefer →
        controlTarget s w = some j → replySlot s.here w = .ok (rs, x) → s.here.run.any (·.twin) = false →
        ∃ t m, exec i s = .next t ∧ (t.core j).li.amIn = (s.core j).li.amIn ++ [m] ∧ m.src = s.cur ∧ m.tgt = j ∧ m.hnum = h ∧
          m.arg = arg ∧ m.dat = s.me.rg c.toNat ∧ m.reply = rs ∧ m.gen = s.mod.gen ∧
          t.here.li.outstanding = s.here.li.outstanding + 1 ∧ t.here.sp.regionOf s.slot = s.here.sp.regionOf s.slot + 1 ∧
          t.here.sp.mem = s.here.sp.mem ∧ s.me.Kept t.me [] [] [] ∧ t.me.pc = s.me.pc + 8#64 ∧
          ∀ k, k ≠ s.cur → k ≠ j → t.core k = s.core k)
    sends (.amsend a b c) true (w.toNat / 2 ^ 12 % 2 ^ 8) v ∧
    sends (.rsst wc a b c) false 1 (rsstArg wc v) ∧
    (v.toNat < 2 ^ 23 → rsstArg wc v = BitVec.ofNat 64 (v.toNat / 8 + 2 ^ 20 * (v.toNat % 8) + 2 ^ 23 * wc.toNat)) ∧
    sends (.ramo aop sz a b c) false 2 (ramoArg aop sz v) ∧
    (v.toNat < 2 ^ 20 → ramoArg aop sz v = BitVec.ofNat 64 (v.toNat + 2 ^ 20 * aop.toNat + 2 ^ 24 * sz.toNat)) ∧
    (s.slot = 11 → exec (.amreply a) s = .next ((s.updHere (·.updLi fun l => { l with replyVal := w })).advance 8)) ∧
    (s.slot ≠ 11 → exec (.amreply a) s = .next (s.takeTrap .illegal s.bytesHere) ∧
      exec .amret s = .next (s.takeTrap .illegal s.bytesHere)) ∧
    (∀ m, s.slot = 11 → s.here.li.handling = some m → m.th = none → m.also = none → ∃ t, exec .amret s = .next t ∧
      t.here.li.handling = none ∧ t.here.ctx 11 = {} ∧ t.here.sp.mem = s.here.sp.mem ∧
      let rel := (s.here.release 11).sp.relRow 11
      (t.core m.src).li.replies = (s.core m.src).li.replies ++
        [⟨m.reply, State.replyBytes 0 0 s.here.li.replyVal, m.gen, if m.src = m.tgt then rel else rel.export m.tgt, m.launch⟩]) ∧
    (∀ l, s.logicalNo s.cur = some l → exec (.role d) s =
      .next ((s.updMe (·.wg d.toNat ((s.roleEntry (coreCluster s.cur) l).setWidth 64))).advance 8)) ∧
    (s.logicalNo s.cur = none → exec (.role d) s = .next ((s.updMe (·.wg d.toNat 0#64)).advance 8)) ∧
    (let q := coreCluster s.cur
     let e : BitVec 32 := w.setWidth 32
     let good := w.toNat < 2 ^ 32 ∧ roleCodesOk e = true ∧
       wiringOk ((List.range 8).map fun l => if l = n3.toNat then e else s.roleEntry q l) = true
     (s.isService s.cur = false → exec (.recast a n3) s = .next (s.takeTrap .priv s.bytesHere)) ∧
     (s.isService s.cur = true → ¬ good → exec (.recast a n3) s = .next (s.takeTrap .illegal w)) ∧
     (s.isService s.cur = true → good → exec (.recast a n3) s =
       .next ((s.updCluster q fun x => { x with roles := x.roles.set n3.toNat e }).advance 8) ∧
         ∀ t, exec (.recast a n3) s = .next t → (t.roleEntry q n3.toNat).toNat = w.toNat ∧
           ∀ i out, t.outDest i out = s.outDest i out))

/-- Arrivals at a core (R210, R211, R213 to R216, R230, R297): a message enters a mailbox with room, or replies ERRMSG at a sealed core,
MAPSTALE where its generation has gone (that MAPSTALE precedes ERRMSG and the latter NOHANDLER is the model's choice, log 44); the
head starts its user handler in the service slot, at the very pc that its AMTAB entry gives, which the model does for one that is no multiple
of 4 too by its own choice (log 66), is refused, or a built-in stores, updates or loads and replies; a reply lands in its
slot behind the bytes that are there (how it lands is the model's choice, log 45), or only frees its message; a word and a credit arrive on a channel; an input dry for its limit is told once. -/
def Obligations.ArrivalsAtACore : Prop :=
  ∀ (s : State) (core : Nat),
    let c := s.core core
    (∀ m rest, c.li.amIn = m :: rest →
      (c.li.killed = false → c.li.isSealed = false → c.li.mailbox.length < 16 → ∃ t, exec (.amArrival core) s = .next t ∧
        (t.core core).li.amIn = rest ∧ (t.core core).li.mailbox = c.li.mailbox ++ [m] ∧ (t.core core).sp = c.sp) ∧
      (c.li.killed = false → c.li.isSealed = false → 16 ≤ c.li.mailbox.length → exec (.amArrival core) s = .next s) ∧
      (c.li.isSealed = true → m.also = none → ∃ t, exec (.amArrival core) s = .next t ∧ (t.core core).li.amIn = rest ∧
        (t.core m.src).li.replies = (s.core m.src).li.replies ++ [if genOk s m.gen then ⟨m.reply, State.replyBytes 3 0 0#64, m.gen, {}, m.launch⟩
          else ⟨m.reply, State.replyBytes 4 0 (s.mod.gen.setWidth 64), m.gen, {}, m.launch⟩])) ∧
    (∀ m, nextMsg c = some m → refusal s core m = none → 16 ≤ m.hnum → ∃ t, exec (.amHandlerStart core) s = .next t ∧
      (t.core core).ctx 11 = { live := true,
                               pc := BitVec.ofNat 64 (c.code.readLE (c.bar.amtab.toNat / 256 * 8 + 8 * (m.hnum - 16)) 8),
                               g := Tab.set {} 1 m.arg } ∧
      (t.core core).li.mailbox = c.li.mailbox.tail ∧ (t.core core).li.handling = some m ∧ (t.core core).sp.mem = c.sp.mem) ∧
    (∀ m, (genOk s m.gen = false → refusal s core m = some (4, s.mod.gen.setWidth 64)) ∧
      (genOk s m.gen = true →
        (c.li.isSealed = true ∨ (∀ r, c.run = some r → r.launch ≠ m.launch) → refusal s core m = some (3, 0#64)) ∧
        (∀ r, c.run = some r → r.launch = m.launch → c.li.isSealed = false → c.li.killed = false →
          (m.hnum = 0 ∨ 3 < m.hnum ∧ m.hnum < 16 ∨ 16 + c.bar.amtab.toNat % 256 ≤ m.hnum → refusal s core m = some (1, 0#64)) ∧
          (∀ h k, 1 ≤ m.hnum → m.hnum ≤ 3 → m.th = some (h, k) → c.handle? h = none → refusal s core m = some (5, 0#64)) ∧
          (1 ≤ m.hnum → m.hnum ≤ 3 → m.th = none → refusal s core m = none)))) ∧
    (∀ m r, nextMsg c = some m → refusal s core m = some r → m.also = none → ∃ t, exec (.amHandlerStart core) s = .next t ∧
      (t.core core).li.mailbox = c.li.mailbox.tail ∧ (t.core core).ctx 11 = c.ctx 11 ∧
      (t.core m.src).li.replies = (s.core m.src).li.replies ++ [⟨m.reply, State.replyBytes r.1 0 r.2, m.gen, {}, m.launch⟩]) ∧
    (∀ m, nextMsg c = some m → refusal s core m = none → m.th = none → m.also = none → m.src ≠ core →
      let off := m.arg.toNat % 2 ^ 20
      let ends : Instr → Mem → Nat → Prop := fun i mem v => ∃ t, exec i s = .next t ∧ (t.core core).sp.mem = mem ∧
        (t.core core).li.handling = none ∧ (t.core core).li.mailbox = c.li.mailbox.tail ∧
        ∃ rel : Row, (t.core m.src).li.replies = (s.core m.src).li.replies ++
          [⟨m.reply, State.replyBytes 0 0 (BitVec.ofNat 64 v), m.gen, rel, m.launch⟩]
      (∀ n, m.hnum = 1 → n ∈ [1, 2, 4, 8] → m.arg.toNat = off + 2 ^ 23 * (Nat.log2 n + 3) → off ≤ 0xBFFFF → off % n = 0 →
        c.sp.writeRace 11 [(off, n)] = none →
        ends (.builtinStore core) (c.sp.mem.writeBytes off (leBytes n m.dat.toNat)) 0) ∧
      (∀ b wc, m.hnum = 1 → wc < 3 → b < 8 → b % 2 ^ wc = 0 → m.arg.toNat = off + 2 ^ 20 * b + 2 ^ 23 * wc → off ≤ 0xBFFFF →
        c.sp.readRace 11 [(off, 1)] = none → c.sp.writeRace 11 [(off, 1)] = none → c.sp.poisonIn off 1 = none →
        let old := (c.sp.mem.read off).toNat
        let w := 2 ^ wc
        ends (.builtinStore core) (c.sp.mem.writeBytes off (leBytes 1
          (old - old / 2 ^ b % 2 ^ w * 2 ^ b + m.dat.toNat % 2 ^ w * 2 ^ b))) 0) ∧
      (∀ aop sz, m.hnum = 2 → aop < 9 → sz < 2 → m.arg.toNat = off + 2 ^ 20 * aop + 2 ^ 24 * sz →
        let n := if sz = 1 then 8 else 4
        off ≤ 0xBFFFF → off % n = 0 → c.sp.poisonIn off n = none →
        let old := c.sp.mem.readLE off n
        ends (.builtinAtomic core) (c.sp.mem.writeBytes off (leBytes n
          (amoValue aop (8 * n) (BitVec.ofNat (8 * n) old) (BitVec.ofNat (8 * n) m.dat.toNat)).toNat)) old) ∧
      (∀ sz, m.hnum = 3 → sz < 2 → m.arg.toNat = off + 2 ^ 24 * sz →
        let n := if sz = 1 then 8 else 4
        off ≤ 0xBFFFF → off % n = 0 → c.sp.readRace 11 [(off, n)] = none → c.sp.poisonIn off n = none →
        ends (.builtinLoad core) c.sp.mem (c.sp.mem.readLE off n))) ∧
    (∀ r rest, c.li.replies = r :: rest → c.li.killed = false →
      (r.dest = none → ∃ t, exec (.amReplyArrival core) s = .next t ∧ (t.core core).li.replies = rest ∧
        (t.core core).li.outstanding = c.li.outstanding - 1 ∧ (t.core core).sp = c.sp) ∧
      (∀ h j x y, r.dest = some (h, j) → c.handle? h = some x →
        (∀ e ∈ c.bar.ctxs.entries, ∀ k, e.2.wait ≠ some (.handleFull h k)) → x.arrive j r.bytes.length (Row.join (Row.obs (c.sp.compl + 1)) r.rel) none = some y → ∃ t, exec (.amReplyArrival core) s = .next t ∧
        (t.core core).li.replies = rest ∧ (t.core core).li.outstanding = c.li.outstanding - 1 ∧ (t.core core).handle? h = some y ∧
        (t.core core).sp.mem = c.sp.mem.writeBytes (x.base + j * x.size + (x.slotAt j).arr) r.bytes)) ∧
    (∀ ch w rest, c.li.wire.get ch [] = w :: rest → (c.li.inq.get ch []).length < 8 → ∃ t,
      exec (.channelWordArrival core ch) s = .next t ∧ (t.core core).li.inq.get ch [] = c.li.inq.get ch [] ++ [.word w] ∧
      (t.core core).li.wire.get ch [] = rest ∧ (t.core core).sp = c.sp ∧ ∀ k, k ≠ core → t.core k = s.core k) ∧
    (∀ ch, c.li.creditBack.get ch 0 ≠ 0 → ∃ t, exec (.channelCreditReturn core ch) s = .next t ∧
      (t.core core).li.credit.get ch 0 = c.li.credit.get ch 0 + 1 ∧
      (t.core core).li.creditBack.get ch 0 = c.li.creditBack.get ch 0 - 1 ∧ ∀ k, k ≠ core → t.core k = s.core k) ∧
    (∀ ch, dryLimit s core ≠ 0 → c.li.dryTold.get ch false = false → 2 ^ dryLimit s core ≤ c.li.dry.get ch 0 → ∃ t,
      exec (.dryNotice core ch) s = .next t ∧ (t.core core).li.dryTold.get ch false = true ∧
      (t.cluster (coreCluster core)).notices = (s.cluster (coreCluster core)).notices ++ [.dry core ch])

/-! ### Copies and collectives -/

/-- The copy engine's instructions and the issue of collectives (R217, R218, R234 to R236, R375, R376): the shadow set is written and
read by context; CELAUNCH and the collectives enter a queue with room under the next transfer id, or trap COPY with the first failing
check, and a reduction or a collective abandons a taste run (R302); from CELAUNCH on an unguarded copy's own source range is held against
stores, and its own destination against the launcher's (R74, R124); CEWAIT holds and CEPOLL answers while the id is incomplete, and both give the remembered status, or 0x2_0000 for an unknown id;
CLWAIT traps a stale map once. -/
def Obligations.CopyInstructions : Prop :=
  ∀ (s : State) (a d : Fld) (ix : BitVec 4), s.NoDefer →
    let ga := s.me.rg a.toNat
    let sh := shadowOf s.here s.slot
    let tid := ga.toNat % 65536
    let id := s.here.nextTid
    let ret : State → Word → Out := fun u v => .next ((u.updMe (·.wg d.toNat v)).advance 8)
    let queued : State → Prop := fun t => t.me.rg d.toNat = (if d = 0#6 then 0#64 else BitVec.ofNat 64 id) ∧
      s.me.Kept t.me [d.toNat] [] [] ∧ t.me.pc = s.me.pc + 8#64 ∧ t.here.sp.mem = s.here.sp.mem ∧ t.here.en.shadow = s.here.en.shadow
    (∃ t, exec (.cew ix a) s = .next t ∧ t.here.shadowReg s.slot ix.toNat = ga ∧ t.me.pc = s.me.pc + 8#64 ∧
      (∀ k j, k ≠ s.slot → j < 16 → t.here.shadowReg k j = s.here.shadowReg k j) ∧
      (∀ j < 16, j ≠ ix.toNat → t.here.shadowReg s.slot j = s.here.shadowReg s.slot j) ∧ s.me.Kept t.me [] [] []) ∧
    exec (.cer d ix) s = ret s (s.here.shadowReg s.slot ix.toNat) ∧
    (s.inTaste = true → (readPlan sh).op = 1 ∨ (readPlan sh).op = 2 → exec (.celaunch d) s = .next s.voidRun) ∧
    (s.inTaste = false ∨ (readPlan sh).op ≠ 1 ∧ (readPlan sh).op ≠ 2 →
      (16 ≤ s.here.en.copyQ.length → exec (.celaunch d) s = .next s) ∧
      (∀ st, s.here.en.copyQ.length < 16 → planCheck s s.cur sh = some st →
        exec (.celaunch d) s = .next (s.takeTrap .copy (BitVec.ofNat 64 (st * 65536)))) ∧
      (∀ ts, s.here.en.copyQ.length < 16 → planCheck s s.cur sh = none → copyTargets s s.cur (readPlan sh) = .ok ts →
        ∃ t m, exec (.celaunch d) s = .next t ∧ queued t ∧ s.SameOutside t ∧ t.here.en.copyQ = s.here.decideHeads.en.copyQ ++ [.copy m] ∧ m.tid = id ∧
          m.sh = sh ∧ m.fmode = s.me.fmode ∧ m.targets = ts ∧ m.rcv = receiversOf s s.cur (readPlan sh) ∧ m.gen = s.mod.gen ∧ m.started = false ∧
          m.status = (if m.rcv.any fun r => (s.core r.1).li.killed || (s.core r.1).li.isSealed then some 0x18#16 else none) ∧
          (let p := readPlan sh
           (p.ssp = true → p.ge = false → ⟨.copy s.cur id, p.ranges true⟩ ∈ t.here.sp.srcs) ∧
           (ownWrites s s.cur p = true → ⟨.copy s.cur id, s.slot, p.ranges false⟩ ∈ t.here.sp.dsts)))) ∧
    (∀ i ∈ [Instr.cewait d a, .cepoll d a, .clwait d a],
      s.here.incomplete tid = false → (∀ r, s.here.en.remembered.find? (fun r => r.tid == tid && r.stale) = some r → i ≠ .clwait d a) →
      (∀ r, s.here.en.remembered.find? (fun r => r.tid == tid) = some r →
        exec i s = ret (s.updHere (·.acquire s.slot r.obs)) (r.status.setWidth 64)) ∧
      (s.here.en.remembered.find? (fun r => r.tid == tid) = none → exec i s = ret s 0x20000#64)) ∧
    (s.here.incomplete tid = true → exec (.cepoll d a) s = ret s 0x10000#64 ∧
      ∀ i ∈ [Instr.cewait d a, .clwait d a], exec i s = .next (s.updMe fun x => { x with held := some i, heldOn := none })) ∧
    (∀ r, s.here.incomplete tid = false → s.here.en.remembered.find? (fun r => r.tid == tid && r.stale) = some r →
      s.slot ≠ 11 → s.me.tvec ≠ 0#64 → ∃ t, exec (.clwait d a) s = .next t ∧ t.me.ecause = 18#64 ∧ t.me.eval = r.gen.setWidth 64 ∧
        { r with stale := false } ∈ t.here.en.remembered) ∧
    (∀ i ∈ [Instr.clred d a, .clgat d a, .clbar d a], let b := s.here.sp.mem.readBytes ga.toNat 64;
      (s.inTaste = true → exec i s = .next s.voidRun) ∧
      (s.inTaste = false → 16 ≤ s.here.en.copyQ.length → exec i s = .next s) ∧
      (s.inTaste = false → s.here.en.copyQ.length < 16 → ga.toNat % 8 = 0 → ga.toNat + 64 ≤ 0xC0000 →
        s.here.sp.readRace s.slot [(ga.toNat, 64)] = none → s.here.sp.poisonIn ga.toNat 64 = none →
        (collOk i b = false → exec i s = .next (s.takeTrap .copy 0x200000#64)) ∧
        (collOk i b = true → ∃ t m, exec i s = .next t ∧ queued t ∧ s.SameOutside { t with mod := s.mod } ∧
          (let k := s.mod.mem.handNext
           t.mod = { s.mod with mem := { s.mod.mem with hands := t.mod.mem.hands, handNext := k + 1 } } ∧ m.hand = k ∧
           ∃ h, t.mod.mem.hands.get? k = some h ∧ h.core = s.cur ∧ h.row = m.row ∧ h.ranges = some (collRanges i b)) ∧
          m.row = s.here.sp.seenRow s.slot ∧ t.here.en.copyQ = s.here.decideHeads.en.copyQ ++ [.coll m] ∧ m.tid = id ∧ m.instr = i ∧ m.block = b ∧ m.seq = s.here.en.groups.get (groupKey s.slot (readColl b).group) 0)))

/-- The copy engine at work (R121, R122, R125, R128, R219, R220, R373, R375, R378): the guard of a copy that stands at the head of its
queue decides once whether it starts or is discarded with status 1, and whatever the slot holds later it does so; a copy whose units moved
without error ends done with the bytes in place, a raw copy within the scratchpad exactly, and what of it has landed before its end is not
written again (R174); a sector that gives no answer ends its attempt, and the seventeenth in a row ends it with REPLAY (R288); a pass of a reduction within the scratchpad gives each destination element its new value, computed from sources
read before any is written, no other byte changes, and its replays count anew; a record kept back enters the event queue; and a collective
ends done, with the status declared where a peer takes part, with MAPSTALE, or with the status it has met, else TIMEOUT, but not before an
earlier one of its context and GROUP.
What they compute (R51, R52, R57, R220, R375): a converted element is rounded once, or with a MIDF to odd first; a record has the least
scale under which its 32 integers fit, and its values are those integers' (a value too large without saturation gives NaN); a reduction
rounds the exact sum, or takes the larger with −0 below +0; a collective does so in rank order and saturates as it writes.
Choices of the model: a copy's checks and marks stand from its start, and an attempt writes nothing but what lands of it by turns of the outside
(log 5); a replay
event with nothing to replay leaves the state as it is (log 8); a maximum into bf16 rounds with RND (log 27, DEDUCED); which status and
detail a record has where several apply (log 29); that every end counts as a completion of the DMA port (log 30). -/
def Obligations.CopyEngineResults : Prop :=
  (∀ (s : State) (core tid : Nat),
    let c := s.core core
    let closed : State → Nat → Prop := fun t st => (t.core core).copyOf tid = none ∧ (t.core core).collOf tid = none ∧
      ∃ q, (t.core core).en.remembered.head? = some q ∧ q.tid = tid ∧ q.status = BitVec.ofNat 16 st
    let queue : Core → List Nat := fun x => x.en.copyQ.map CEntry.tid
    (∀ m rest, c.en.copyQ = .copy m :: rest → c.en.evHeld = [] → let p := readPlan m.sh; let g := (c.guard p.gsl).val
      (m.fate = none → p.ge = true → g = none → ∃ t, exec (.engineQueueHeadStart core .copy) s = .next t ∧
        queue (t.core core) = queue c ∧ (t.core core).en.flight = c.en.flight ∧ (t.core core).en.events = c.en.events ∧
        (t.core core).sp.mem = c.sp.mem) ∧
      (m.fate = some false ∨ m.fate = none ∧ p.ge = true ∧ g = some p.gs → c.en.events.length < 32 →
        ∃ t r, exec (.engineQueueHeadStart core .copy) s = .next t ∧ queue (t.core core) = rest.map CEntry.tid ∧
          (t.core core).en.flight = c.en.flight ∧ (t.core core).en.events = c.en.events ++ [r] ∧ r.w0.toNat % 256 = 5 ∧
          (t.core core).sp.mem = c.sp.mem) ∧
      (m.fate = some true ∨ m.fate = none ∧ (p.ge = true → g = some !p.gs) → tasteDiscards core m p = false →
        lacksCredit c p = false → engineLoad s (coreCluster core) < 16 →
        ∃ t m', exec (.engineQueueHeadStart core .copy) s = .next t ∧ queue (t.core core) = rest.map CEntry.tid ∧
          (t.core core).en.flight = c.en.flight ++ [.copy m'] ∧ m'.tid = m.tid ∧ m'.sh = m.sh ∧ m'.started = true ∧
          (t.core core).sp.mem = c.sp.mem)) ∧
    (∀ m, c.copyOf tid = some m → m.started = true → m.miss = none → m.status = none →
      let p := readPlan m.sh
      let rs := m.rcv
      let v := moveAll s p core m []
      let inside := p.ssp = true ∧ p.dsp = true ∧ p.e1 = 1 ∧ p.e2 = 1 ∧ p.e3 = 1 ∧ rs = [(core, none)]
      (p.op = 0 → genOk s m.gen = true → (rs.all fun r => !(s.core r.1).li.killed && !(s.core r.1).li.isSealed) = true →
        m.targets = [] → m.run.any (·.twin) = false → v.miss = none → v.mute = none → v.errs = [] → v.far = false → v.lack = false →
        ∃ t, exec (.copyEnd core tid .local) s = .next t ∧ closed t 0 ∧ t.mod.mem.hbm = v.s.mod.mem.hbm ∧
          ∀ k, (t.core k).sp.mem = (v.s.core k).sp.mem) ∧
      (p.op = 0 → p.sf = 0 → p.df = 0 → p.mf = 0 → p.ge = false → inside →
        c.sp.poisonIn p.src p.len = none → (p.src + p.len ≤ p.dst ∨ p.dst + p.len ≤ p.src) →
        genOk s m.gen = true → c.li.killed = false → c.li.isSealed = false → m.targets = [] →
        (m.run.any fun r => r.kind != .original || r.twin) = false → (∀ y ∈ m.read, (y.1, core) ∈ m.landed ∧ y.2.2 = false) →
        ∃ t, exec (.copyEnd core tid .local) s = .next t ∧ closed t 0 ∧
          (∀ k < p.len, (t.core core).sp.mem.read (p.dst + k) =
            if (k, core) ∈ m.landed then c.sp.mem.read (p.dst + k) else c.sp.mem.read (p.src + k)) ∧
          ∀ x, x < p.dst ∨ p.dst + p.len ≤ x → (t.core core).sp.mem.read x = c.sp.mem.read x) ∧
      exec (.copyReplay core tid none) s = .next s ∧
      (∀ q, copySector s core m q = false → exec (.copyReplay core tid (some q)) s = .next s) ∧
      (p.op ≠ 0 → p.total ≤ m.applied ∨ m.staged ≠ [] → ∀ q, exec (.copyReplay core tid q) s = .next s) ∧
      (∀ q, copySector s core m q = true → (p.op ≠ 0 → m.applied < p.total ∧ m.staged = []) →
        ∃ t, exec (.copyReplay core tid (some q)) s = .next t ∧ (t.core core).sp = c.sp ∧
        t.mod.mem.hbm = s.mod.mem.hbm ∧ (t.core core).copyOf tid =
          some (if m.replays < 16 then { m.again with replays := m.replays + 1 } else { m.again with status := some 0x17#16 })) ∧
      (∀ q, p.op = 0 → v.miss = none → v.mute = some q →
        ∃ t m', exec (.copyEnd core tid .local) s = .next t ∧ (t.core core).copyOf tid = some m' ∧ (t.core core).sp = c.sp ∧
          t.mod.mem.hbm = s.mod.mem.hbm ∧ (m.replays < 16 → m'.replays = m.replays + 1 ∧ m'.status = none) ∧
          (16 ≤ m.replays → m'.status = some 0x17#16)) ∧
      (p.op ≠ 0 → m.applied < p.total → m.run.any (·.twin) = false →
        let w := fmtSize p.df
        let n := Nat.min (65536 / w) (p.total - m.applied)
        exec (.reductionApplyPhase core tid) s = .next (reducePass s core m p) ∧
        (inside → m.staged = [] → isPlane p.sf = false → p.df ∈ [1, 2, 8] → (s.die (coreDie core)).pins.entries.length ≤ 8192 →
          ∃ t m', exec (.reductionApplyPhase core tid) s = .next t ∧ (t.core core).copyOf tid = some m' ∧ m'.applied = m.applied + n ∧ m'.replays = 0 ∧
            (∀ k, m.applied ≤ k → k < m.applied + n → (t.core core).sp.mem.readBytes (p.dst + k * w) w =
              reduceElem p m.fmode (c.sp.mem.readBytes (p.dst + k * w) w)
                (c.sp.mem.readBytes (p.src + k * fmtSize p.sf) (fmtSize p.sf))) ∧
            ∀ x, x < p.dst + m.applied * w ∨ p.dst + (m.applied + n) * w ≤ x →
              (t.core core).sp.mem.read x = c.sp.mem.read x))) ∧
    (∀ r rest, c.en.evHeld = r :: rest →
      (c.en.events.length < 32 → ∃ t, exec (.eventRecordEnter core) s = .next t ∧ (t.core core).en.evHeld = rest ∧
        (t.core core).en.events = c.en.events ++ [r] ∧ (t.core core).sp = c.sp) ∧
      (32 ≤ c.en.events.length → ∃ t, exec (.eventRecordEnter core) s = .next t ∧ (t.core core).en = c.en)) ∧
    (∀ m, c.collOf tid = some m → m.started = true →
      (earlierPending c m = true → (∀ r, exec (.collectiveComplete core tid r) s = .next s) ∧
        exec (.collectiveTimeout core tid) s = .next s) ∧
      (earlierPending c m = false →
        (2 ^ 30 + m.startAt ≤ c.bar.cycle.toNat → ∃ t, exec (.collectiveTimeout core tid) s = .next t ∧
          (∀ st, m.status = some st → m.owes = none → closed t st.toNat) ∧
          (m.status = none → endedBefore s core m = none → closed t (if namesAny s core m m.gone then 0x12 else 0x61))) ∧
        (∀ st r, m.miss = none → m.status = some st → m.owes = none → ∃ t, exec (.collectiveComplete core tid r) s = .next t ∧ closed t st.toNat) ∧
        (m.miss = none → m.status = none → endedBefore s core m = none →
          (∀ xs r, m.all = some xs → genOk s m.gen = false → ∃ t, exec (.collectiveComplete core tid r) s = .next t ∧ closed t 0x16) ∧
          (∀ st g tb bad G, m.all = none →
            Gathered.read { s := s } core m (readColl m.block).table (4 * (readColl m.block).npart) 4 = (some (tb, bad), G) →
            let peers := tablePeers s (readColl m.block).npart tb
            let H := (List.range (readColl m.block).npart).foldl (Gathered.step { m with peers := peers } tb []) G
            (peers = [] → exec (.collectiveComplete core tid (.status st g)) s = exec (.collectiveComplete core tid (.contributions [])) s) ∧
            (peers ≠ [] → peers.any m.gone.contains = false → genOk s m.gen = true → rankNames s core m tb = true →
              H.miss = none → H.fails = [] → st ≠ 0#16 → st ≠ 4#16 →
              ∃ t, exec (.collectiveComplete core tid (.status st g)) s = .next t ∧ closed t st.toNat)) ∧
          (∀ xs r, m.all = some xs → genOk s m.gen = true → (∃ d a, m.instr = .clbar d a) →
            ∃ t, exec (.collectiveComplete core tid r) s = .next t ∧ closed t 0 ∧ t.mod = (s.stampWrites core tid).mod) ∧
          (∀ xs r u, m.all = some xs → genOk s m.gen = true → m.bad = [] → m.landed = [] → (∀ d a, m.instr ≠ .clbar d a) →
            collResult m.instr (readColl m.block) m.fmode xs ≠ [] →
            s.writeAs (collParty s core m) (collAccess core m) (readColl m.block).dst (collResult m.instr (readColl m.block) m.fmode xs) =
              .ok (false, u) →
            ∃ t, exec (.collectiveComplete core tid r) s = .next t ∧ closed t 0 ∧ t.mod.mem = (u.stampWrites core tid).mod.mem))))) ∧
  (∀ (p : Plan) (fm : Word) (b : List Byte), let rnd := fmodeRnd fm; let sat := fmodeSat fm
    b.length = fmtSize p.sf → p.sf ∈ [1, 2, 3, 4, 8, 9, 10] → p.df ∈ [1, 2, 3, 4, 8, 9, 10] →
      (p.sf = p.df → p.mf = 0 → convUnit p fm b = b) ∧
      (p.sf ≠ p.df → p.mf = 0 →
        convUnit p fm b = leBytes (fmtSize p.df) (convertElem (fmtType p.sf) (fmtType p.df) rnd sat false (leNat b)).1) ∧
      (1 ≤ p.mf → p.mf ≤ 4 → convUnit p fm b = leBytes (fmtSize p.df) (convertElem (fmtType p.mf) (fmtType p.df) rnd sat false
        (convertElem (fmtType p.sf) (fmtType p.mf) .rto sat false (leNat b)).1).1)) ∧
  (∀ pl ∈ [4, 6, 8], ∀ (rnd : Rnd) (sat : Bool) (vs : List Val), vs.length = 32 →
    let b := formRecord pl rnd sat vs
    let e := field b 0 1
    let count : Val → Nat → ℚ := fun v e => v.toRat / (2 : ℚ) ^ ((e : Int) - 127 - (pl - 1))
    let fits : Int → Prop := fun i => -(2 ^ (pl - 1)) ≤ i ∧ i < 2 ^ (pl - 1)
    b.length = 1 + 4 * pl ∧
    ((∃ v ∈ vs, ∀ n m e, v ≠ .num n m e) → e = 255) ∧ (e = 255 → recordVals pl b = List.replicate 32 .nan) ∧
    ((∀ v ∈ vs, ∃ n m e, v = .num n m e) → (∃ e0 < 255, ∀ v ∈ vs, ∀ i, rnd.Rounds (count v e0) i → fits i) →
      e < 255 ∧ (∀ k < e, ∃ v ∈ vs, ∃ i, rnd.Rounds (count v k) i ∧ ¬ fits i) ∧
      ∀ (l : Nat) (v : Val), vs[l]? = some v → ∃ i, ∃ x : Val, rnd.Rounds (count v e) i ∧ fits i ∧ (recordVals pl b)[l]? = some x ∧
        x.IsNum ((i : ℚ) * (2 : ℚ) ^ ((e : Int) - 127 - (pl - 1))))) ∧
  (∀ (p : Plan) (fm : Word) (old src : List Byte), src.length = fmtSize p.sf →
    let rnd := fmodeRnd fm
    let sat := fmodeSat fm
    (p.df = 8 → p.sf ∈ [8, 9, 10] →
      let d := (BitVec.ofNat 32 (leNat old)).toInt
      let x := (BitVec.ofNat (8 * fmtSize p.sf) (leNat src)).toInt
      (p.op = 1 → reduceElem p fm old src = leBytes 4
        ((if sat then max (-2147483648) (min 2147483647 (d + x)) else d + x) % 2 ^ 32).toNat) ∧
      (p.op = 2 → reduceElem p fm old src = leBytes 4 (max d x % 2 ^ 32).toNat)) ∧
    ∀ F ∈ [(1, f32), (2, bf16)], ∀ G ∈ [(1, f32), (2, bf16), (3, e4m3), (4, e5m2)], p.df = F.1 → p.sf = G.1 →
      let X := F.2.unpack false (leNat old)
      let Y := G.2.unpack false (leNat src)
      (X = .nan ∨ Y = .nan → reduceElem p fm old src = leBytes (fmtSize p.df) F.2.nan) ∧
      ∀ a m g c n h, X = .num a m g → Y = .num c n h →
        (p.op = 1 → ∃ v : Val, v.IsNum (X.toRat + Y.toRat) ∧
          reduceElem p fm old src = leBytes (fmtSize p.df) (F.2.pack rnd sat false v).1) ∧
        (p.op = 2 → ∃ v : Val, v.IsNum (max X.toRat Y.toRat) ∧ (X.toRat = Y.toRat → v.sign = (a && c)) ∧
          reduceElem p fm old src = leBytes (fmtSize p.df) (F.2.pack rnd false false v).1)) ∧
  (∀ (q : CollBlock) (fm fm' : Word) (xs : List Nat) (y : Nat), xs ≠ [] → fmodeSat fm = false → fmodeSat fm' = true →
    fmodeRnd fm' = fmodeRnd fm →
    reduceAll q fm [y] = y ∧
    ∀ F ∈ [(1, f32), (2, bf16)], q.fmt = F.1 →
      let acc := reduceAll q fm xs
      (q.op = 1 → reduceAll q fm (xs ++ [y]) =
        (F.2.pack (fmodeRnd fm) false false (Val.add (fmodeRnd fm) (F.2.unpack false acc) (F.2.unpack false y)).1).1) ∧
      (q.op = 2 → reduceAll q fm (xs ++ [y]) =
        (F.2.pack (fmodeRnd fm) false false ((F.2.unpack false acc).maxV (F.2.unpack false y))).1) ∧
      reduceAll q fm' xs = (F.2.pack (fmodeRnd fm) true false (F.2.unpack false acc)).1)


/-! ### The press and text -/

/-- The press and the token instructions (R237 to R247): a core with no request slot is refused, and one with a slot is accepted at
the latest at the eighth attempt in a row (R224; which attempt before it is a free value, log 47); an accepted PRQ takes the lowest free
request slot, its destination standing PEND from the issue (the model's reading, log 47); a refused one writes 0 and makes its predicate false;
PRGET answers 0 while the request is not complete, and its result once; a lookup of a pair or a string answers the entry's value, or
traps TABLE; STOPLD loads a stop string and clears the matcher; TKEMIT writes the bytes that no stop string can still claim, none
lost, and its race check traps whether or not the press accepts; VMASKL gives −∞ where the bitmap's bit is 0; and a completed request has
its output in place, which arrives on its slot.
What a request yields (R223, R238, R240): LOADTAB all its bytes; ENCODE the stream of R223, cut at DLEN with OVERRUN, its coding that of
R238 in its zero runs and literals, from which decoding gives the source back; DECODE the bytes of the stream, cut at DLEN, LENGTH where
they are more or fewer or the stream ends in a literal, of which the bytes that are there are given (the model's reading, log 47); DIGEST 32 bytes, those of FIPS 180-4 for its example. -/
def Obligations.PressAndText : Prop :=
  (∀ (s : State) (pp : BitVec 3) (d a b c : Fld) (ix : BitVec 4) (m : VMod),
    let sp := s.here.sp
    let ga := s.me.rg a.toNat
    let gb := s.me.rg b.toNat
    let traps : Instr → Nat → Prop := fun i st => exec i s = .next (s.takeTrap .press (BitVec.ofNat 64 st))
    let malformed : Instr → Prop := fun i => exec i s = .next ((pressCount s true).takeTrap .press 0x37#64)
    let refused : Out := .next (((pressCount s false).updMe fun x => (x.wg d.toNat 0#64).wp pp.toNat false).advance 8)
    let answers : State → Nat → Out := fun u v => .next (((pressCount u true).updMe fun x => (x.wg d.toNat (BitVec.ofNat 64 v)).wp pp.toNat true).advance 8)
    let read : Nat → State := fun n => s.setCore s.cur (s.here.updSp fun x => x.stampReads s.slot [(ga.toNat, n)])
    let readable : Nat → Prop := fun n => ga.toNat + n ≤ 0xC0000 ∧ sp.readRace s.slot [(ga.toNat, n)] = none ∧
      sp.poisonIn ga.toNat n = none
    let sram := (s.cluster (coreCluster s.cur)).sram
    (∀ x : Core, (freeTicket x = none → pressAccepts s x = false) ∧
      (∀ n, freeTicket x = some n → 7 ≤ pressTries x → pressAccepts s x = true)) ∧
    (s.NoDefer → readable 32 → ga.toNat % 8 = 0 → let k := sp.mem.readBytes ga.toNat 32;
      (prqFieldOk k = false → traps (.prq pp d a) 0x32) ∧
      (prqFieldOk k = true → prqRangeOk (readPrq k) = false → traps (.prq pp d a) 0x33)) ∧
    (∀ r x, s.NoDefer → prqCheck s.here s.slot ga s.cur (s.here.run.elim 0 (·.part)) = .ok (r, x) →
      (pressAccepts s x = false → exec (.prq pp d a) s = refused) ∧
      (∀ n, freeTicket x = some n → pressAccepts s x = true → ∃ t, exec (.prq pp d a) s = .next t ∧ t.here.en.press.get? n = some r ∧ 1 ≤ n ∧ n ≤ 4 ∧
        x.en.press.get? n = none ∧ t.me.rg d.toNat = (if d = 0#6 then 0#64 else BitVec.ofNat 64 n) ∧
        (pp ≠ 0#3 → t.me.rp pp.toNat = true) ∧ t.here.sp.mem = sp.mem ∧ t.me.pc = s.me.pc + 8#64 ∧
        (∀ q ∈ prqOut r.op r.dst (pressResult r (sp.mem.readBytes r.src r.slen)).1.length,
          (t.here.sp.granule q).pend = some (.press s.cur n)) ∧ ⟨.press s.cur n, [(r.src, r.slen)]⟩ ∈ t.here.sp.srcs)) ∧
    (ga.toNat < 1 ∨ 4 < ga.toNat ∨ s.here.en.press.get? ga.toNat = none → traps (.prget d a) 0x34) ∧
    (∀ r, 1 ≤ ga.toNat → ga.toNat ≤ 4 → s.here.en.press.get? ga.toNat = some r →
      (r.result = none → exec (.prget d a) s = .next ((s.updMe (·.wg d.toNat 0#64)).advance 8)) ∧
      (∀ v, r.result = some v → ∃ t, exec (.prget d a) s = .next t ∧ t.here.en.press.get? ga.toNat = none ∧
        t.me.rg d.toNat = (if d = 0#6 then 0#64 else v) ∧ t.me.pc = s.me.pc + 8#64 ∧ t.here.sp.mem = sp.mem)) ∧
    (let x := ga.toNat % 2 ^ 32
     let y := gb.toNat % 2 ^ 32
     let found := lookupWord sram (pairHash x y) (fun l r t rank => if l = x ∧ r = y then some (t + rank * 2 ^ 32) else none) noMatch
     (pressAccepts s s.here = false → exec (.tkpair pp d a b) s = refused) ∧
     (pressAccepts s s.here = true → (found = none → malformed (.tkpair pp d a b)) ∧
       ∀ v, found = some v → exec (.tkpair pp d a b) s = answers s v)) ∧
    (gb = 0#64 → traps (.tkhash pp d a b) 0x32) ∧
    (readable gb.toNat → (32 < gb.toNat → traps (.tkhash pp d a b) 0x32) ∧
      (1 ≤ gb.toNat → gb.toNat ≤ 32 →
        let bs := sp.mem.readBytes ga.toNat gb.toNat
        let found := lookupWord sram (stringHash bs) noMatch fun o f t len =>
          if f = stringHash bs % 2 ^ 32 ∧ len = gb.toNat ∧ sram.readBytes o gb.toNat = bs then some t else none
        (pressAccepts s s.here = false → exec (.tkhash pp d a b) s = refused) ∧
        (pressAccepts s s.here = true → (found = none → malformed (.tkhash pp d a b)) ∧
          ∀ v, found = some v → exec (.tkhash pp d a b) s = answers (read gb.toNat) v))) ∧
    (gb.toNat = 0 ∨ readable gb.toNat → (32 < gb.toNat → traps (.stopld ix a b) 0x35) ∧
      (gb.toNat ≤ 32 → ∃ t, exec (.stopld ix a b) s = .next t ∧ t.me.pc = s.me.pc + 8#64 ∧ t.here.en.matcher.hold = [] ∧
        t.here.en.matcher.hit = false ∧ t.here.en.matcher.index = 0 ∧ t.here.en.matcher.strs.get? ix.toNat =
          (if gb.toNat = 0 then none else some (sp.mem.readBytes ga.toNat gb.toNat)) ∧
        (∀ j, j ≠ ix.toNat → t.here.en.matcher.strs.get? j = s.here.en.matcher.strs.get? j) ∧ t.here.sp.mem = sp.mem)) ∧
    (pressAccepts s s.here = true → gb.toNat + 64 ≤ 0xC0000 → s.here.en.matcher.hit = false →
      let emits : Instr → Matcher → List Byte → Prop := fun i k out => sp.writeRace s.slot [(gb.toNat, out.length)] = none →
        ∃ t, exec i s = .next t ∧ t.here.en.matcher = k ∧ t.here.sp.mem = sp.mem.writeBytes gb.toNat out ∧
          t.me.rg d.toNat = (if d = 0#6 then 0#64 else BitVec.ofNat 64 (out.length + (if k.hit then 2 ^ 8 else 0) + k.index * 2 ^ 9 +
            k.hold.length * 2 ^ 16)) ∧ (pp ≠ 0#3 → t.me.rp pp.toNat = true) ∧ t.me.pc = s.me.pc + 8#64
      (∀ bs, tokenBytes sram (ga.toNat % 2 ^ 32) = .ok bs →
        emits (.tkemit pp d a b) (bs.foldl emitByte (s.here.en.matcher, [])).1 (bs.foldl emitByte (s.here.en.matcher, [])).2) ∧
      emits (.tkemitFlush pp d b) { s.here.en.matcher with hold := [] } s.here.en.matcher.hold) ∧
    (∀ q, gb.toNat + 64 ≤ 0xC0000 → s.here.en.matcher.hit = false →
      sp.writeRace s.slot [(gb.toNat, s.here.en.matcher.hold.length)] = some q →
      exec (.tkemitFlush pp d b) s = .next (s.takeTrap .mmx (BitVec.ofNat 64 q))) ∧
    (∀ (k : Matcher) (out : List Byte) (x : Byte), k.hit = false → (emitByte (k, out) x).1.hit = false →
      (emitByte (k, out) x).2 ++ (emitByte (k, out) x).1.hold = out ++ k.hold ++ [x]) ∧
    (let e := venv s.me m
     let tok : Nat → Nat := fun j => (s.me.rg c.toNat).toNat + j
     let at_ : Nat → Nat := fun j => (gb + BitVec.ofNat 64 (tok j / 8)).toNat
     let on := (List.range (1024 / e.w)).filter fun j => e.k.getLsbD (j * e.w / 32)
     s.here.Coherent → s.here.Clean s.slot [a] → m.ty = 0#3 ∨ m.ty = 1#3 → (∀ j ∈ on, at_ j ≤ 0xBFFFF) →
       sp.readRace s.slot (on.map fun j => (at_ j, 1)) = none → (∀ j ∈ on, sp.poisonIn (at_ j) 1 = none) →
       ∃ t, exec (.vmaskl d a b c m) s = .next t ∧ t.me.pc = s.me.pc + 8#64 ∧ t.here.sp.mem = sp.mem ∧ t.me.fmode = s.me.fmode ∧
         ∀ j < 1024 / e.w, elem e.w (t.here.rv s.slot d.toNat) j =
           if e.k.getLsbD (j * e.w / 32) then
             (if (sp.mem.read (at_ j)).getLsbD (tok j % 8) then elem e.w (s.here.rv s.slot a.toNat) j
              else if m.ty = 0#3 then 0xFF800000 else 0xFF80)
           else if e.z then 0 else elem e.w (s.here.rv s.slot d.toNat) j) ∧
    (∀ core n r, (s.core core).en.press.get? n = some r → r.result = none → r.data = none → r.landed = [] →
      let k := (s.core core).sp.mem
      let y := pressResult r (k.readBytes r.src r.slen)
      ∃ t q, exec (.pressRequestComplete core n) s = .next t ∧ (t.core core).en.press.get? n = some q ∧
        q.result = some (BitVec.ofNat 64 (2 ^ 32 * y.2.1 + 2 ^ 16 + y.2.2)) ∧
        (t.core core).sp.mem = (if r.op = 0 then k else k.writeBytes r.dst y.1) ∧
        (r.op = 0 → (t.cluster (coreCluster core)).sram =
          (s.cluster (coreCluster core)).sram.writeBytes r.dst (k.readBytes r.src r.slen)) ∧
        ∀ h j x z, r.hslot = some (h, j) → (s.core core).handle? h = some x →
          (∀ e ∈ (s.core core).bar.ctxs.entries, ∀ n, e.2.wait ≠ some (.handleFull h n)) →
          x.arrive j y.1.length (Row.obs ((s.core core).sp.compl + 1)) none = some z → (t.core core).handle? h = some z)) ∧
  (∀ (r : PressReq) (src : List Byte), src.length = r.slen →
    let y := pressResult r src
    (r.op = 0 → y = ([], r.slen, 0)) ∧
    (r.op = 1 → (decodeKind r.kind (encodeKind r.kind src) = (src, true)) ∧ y.2.1 = (encodeKind r.kind src).length ∧
      (y.2.1 ≤ r.dlen → y.2.2 = 0 ∧ y.1 = encodeKind r.kind src) ∧
      (r.dlen < y.2.1 → y.2.2 = 0x31 ∧ y.1 = (encodeKind r.kind src).take r.dlen)) ∧
    (r.op = 2 → let x := decodeKind r.kind src; y.2.1 = x.1.length ∧ y.1 = x.1.take r.dlen ∧
      y.2.2 = if x.1.length = r.dlen ∧ x.2 = true then 0 else 0x30) ∧
    (r.op = 3 → y.1.length = 32 ∧ y.2 = (32, 0))) ∧
  (let coded : List Byte → List Byte := encodeKind 1
   let plain : List Byte → List Byte × Bool := decodeKind 1
   let token : Nat → Byte := BitVec.ofNat 8
   coded [] = [] ∧ plain [] = ([], true) ∧
   (∀ n rest, 2 ≤ n → n ≤ 128 → n = 128 ∨ rest.head? ≠ some 0#8 →
     coded (List.replicate n 0#8 ++ rest) = token (0x7F + n) :: coded rest) ∧
   (∀ bs rest, bs ≠ [] → bs.length ≤ 128 → (∀ i, i + 1 < bs.length → (bs ++ rest).getD i 1#8 ≠ 0#8 ∨ (bs ++ rest).getD (i + 1) 1#8 ≠ 0#8) →
     ¬ (bs.getLast? = some 0#8 ∧ rest.head? = some 0#8) →
     bs.length = 128 ∨ rest = [] ∨ (rest.head? = some 0#8 ∧ rest.tail.head? = some 0#8) →
     coded (bs ++ rest) = token (bs.length - 1) :: bs ++ coded rest) ∧
   (∀ n rest, 1 ≤ n → n ≤ 128 → plain (token (0x7F + n) :: rest) = (List.replicate n 0#8 ++ (plain rest).1, (plain rest).2)) ∧
   (∀ bs rest, bs ≠ [] → bs.length ≤ 128 → plain (token (bs.length - 1) :: bs ++ rest) = (bs ++ (plain rest).1, (plain rest).2)) ∧
   (∀ n bs, n < 128 → bs.length ≤ n → plain (token n :: bs) = (bs, false)) ∧
   (∀ bs : List Byte, encodeKind 2 bs = coded (bs.zipIdx.map fun x => x.1 - if x.2 = 0 then 0#8 else bs.getD (x.2 - 1) 0#8)) ∧
   (∀ bs : List Byte, (decodeKind 2 bs).2 = (plain bs).2 ∧ (decodeKind 2 bs).1.length = (plain bs).1.length ∧
     ∀ i < (plain bs).1.length, (decodeKind 2 bs).1.getD i 0#8 =
       (if i = 0 then 0#8 else (decodeKind 2 bs).1.getD (i - 1) 0#8) + (plain bs).1.getD i 0#8) ∧
   leNat (sha256 [0x61#8, 0x62#8, 0x63#8]).reverse = 0xba7816bf8f01cfea414140de5dae2223b00361a396177a9cb410ff61f20015ad)

/-! ### Graphs -/

/-- The graph instructions (R122, R265 to R270): on a node of the own die NDEP raises or lowers its counter and answers it, at the ends
of its range trapping GRAPH; NPRIO answers the old priority, 0xFF for a node that has ended; NQRY answers its selector; each of them holds
its context where it needs a descriptor that has not been read (the model's reading, log 37); NSPAWN gives the
read descriptor the next index of the die, or answers a copy status; a taste run changes nothing. NEND with no helper left ends the
node as its last command ends, and the registers of its contexts stay as they are (R66, R252). -/
def Obligations.GraphResults : Prop :=
  ∀ (s : State) (d a b : Fld) (r : Run), s.here.run = some r →
    let die := coreDie s.cur
    let l := r.launch
    let w := s.me.rg a.toNat
    let j := w.toNat
    let n := s.node die l j
    let ret : State → Nat → Out := fun u v => .next ((u.updMe (·.wg d.toNat (BitVec.ofNat 64 v))).advance 8)
    let gtrap : Nat → Nat → Out := fun k i => .next (s.takeTrap .graph (BitVec.ofNat 64 (k * 2 ^ 16 + i * 2 ^ 32)))
    let returns : Instr → Nat → (State → Prop) → Prop := fun i v good => ∃ t, exec i s = .next t ∧
      t.me.rg d.toNat = (if d = 0#6 then 0#64 else BitVec.ofNat 64 v) ∧ t.me.pc = s.me.pc + 8#64 ∧
      s.me.Kept t.me [d.toNat] [] [] ∧ t.here.sp.mem = s.here.sp.mem ∧ good t
    (s.inTaste = true → ∀ i ∈ [Instr.ndepAdd d a, .ndepSub d a, .nprio d a b, .nspawn d a], exec i s = ret s 0) ∧
    (s.inTaste = false → j < 2 ^ 32 → unplacedOf s l j = none → (s.partOf die l).nodes.has j = true → n.desc.isSome = true →
      (n.st ≠ .waiting → exec (.ndepAdd d a) s = gtrap 5 j) ∧
      (n.st = .waiting → n.ctr = 0xFFFF → exec (.ndepAdd d a) s = gtrap 8 j) ∧
      (n.st = .waiting → n.ctr < 0xFFFF → returns (.ndepAdd d a) (n.ctr + 1) fun t => t.node die l j = { n with ctr := n.ctr + 1 }) ∧
      (n.ctr = 0 → exec (.ndepSub d a) s = gtrap 4 j) ∧
      (0 < n.ctr → returns (.ndepSub d a) (n.ctr - 1) fun t => (t.node die l j).ctr = n.ctr - 1 ∧
        (t.node die l j).st = (if n.st = .waiting ∧ n.ctr = 1 then .ready else n.st) ∧
        t.here.sp.regionOf s.slot = s.here.sp.regionOf s.slot + 1)) ∧
    (j < 2 ^ 32 → (unplacedOf s l j).isSome = true ∨ (s.partOf die l).nodes.get? j = some n ∧ unread n = true →
      let holds : Instr → Prop := fun i => exec i s = .next (s.updMe fun x => { x with held := some i, heldOn := none })
      (s.inTaste = false → holds (.ndepAdd d a) ∧ holds (.ndepSub d a) ∧ ((s.me.rg b.toNat).toNat < 8 → holds (.nprio d a b))) ∧
      holds (.nqry d a 4#4) ∧ holds (.nqry d a 7#4)) ∧
    (s.inTaste = false → j < 2 ^ 32 → unplacedOf s l j = none → (s.partOf die l).nodes.has j = true → unread n = false → let v := (s.me.rg b.toNat).toNat;
      (8 ≤ v → exec (.nprio d a b) s = .next (s.takeTrap .illegal (s.me.rg b.toNat))) ∧
      (v < 8 → n.st = .ended ∨ n.st = .failed → exec (.nprio d a b) s = ret s 0xFF) ∧
      (v < 8 → n.st ≠ .ended → n.st ≠ .failed → returns (.nprio d a b) n.prio fun t => t.node die l j = { n with prio := v })) ∧
    (s.inTaste = false → unplacedOf s l j = none → (s.partOf die l).nodes.has j = false → j < 2 ^ 32 → (s.me.rg b.toNat).toNat < 8 →
      ∀ i ∈ [Instr.ndepAdd d a, .ndepSub d a, .nprio d a b], exec i s = gtrap 3 j) ∧
    exec (.nqry d a 0#4) s = ret s r.node ∧ exec (.nqry d a 1#4) s = ret s (s.packet l).lid ∧
    exec (.nqry d a 2#4) s = ret s (s.packet l).seed ∧ exec (.nqry d a 5#4) s = ret s (if s.inTaste then 1 else 0) ∧
    exec (.nqry d a 6#4) s = ret s ((launchMask s l).toNat + r.gen.toNat * 256) ∧
    (j < 2 ^ 32 → unplacedOf s l j = none → (s.partOf die l).nodes.get? j = some n → exec (.nqry d a 3#4) s = ret s (stateCode n.st) ∧
      (unread n = false → exec (.nqry d a 4#4) s = ret s n.ctr ∧ exec (.nqry d a 7#4) s = ret s n.prio)) ∧
    (s.inTaste = false → w.toNat % 128 ≠ 0 → exec (.nspawn d a) s = .next (s.takeTrap .align w)) ∧
    (∀ bs u, s.inTaste = false → w.toNat % 128 = 0 → s.me.declared = none →
      s.readVirt { core := s.cur, rope := false, l1 := true, part := r.part } w.toNat 128 = .ok (bs, false, u) →
      let p := u.packet l
      let k := (u.partOf (coreDie u.cur) l).spawn
      descOk bs = true → k ≠ p.spawn → ∃ t, exec (.nspawn d a) s = .next t ∧
        let i := p.nnode + p.spawn * coreDie u.cur + k
        (t.node (coreDie u.cur) l i).desc = some bs ∧ (t.partOf (coreDie u.cur) l).spawn = k + 1 ∧
        t.me.rg d.toNat = (if d = 0#6 then 0#64 else BitVec.ofNat 64 i) ∧ t.me.pc = u.me.pc + 8#64) ∧
    (∀ bs u, s.inTaste = false → w.toNat % 128 = 0 → s.me.declared = none →
      s.readVirt { core := s.cur, rope := false, l1 := true, part := r.part } w.toNat 128 = .ok (bs, true, u) →
      exec (.nspawn d a) s = ret u (2 ^ 63 + 4)) ∧
    (s.slot ≠ 0 → exec .nend s = .next (s.takeTrap .illegal s.bytesHere)) ∧
    (s.slot = 0 → s.here.helperMask ≠ 0 → exec .nend s = .next (s.takeTrap .graph (BitVec.ofNat 64 s.here.helperMask))) ∧
    (∀ g, s.slot = 0 → s.here.helperMask = 0 → unsetGuard s.here = some g →
      exec .nend s = .next (s.takeTrap .guard (BitVec.ofNat 64 g))) ∧
    (s.slot = 0 → s.here.helperMask = 0 → unsetGuard s.here = none → r.twin = false →
      (quiet (beginEnd s).here = false → ∃ t, exec .nend s = .next t ∧ t.me.held = some .nend ∧ t.here.en.matQ = [] ∧
        t.here.en.copyQ = [] ∧ t.here.en.ropeQ = [] ∧ t.here.bar.forks = [] ∧ t.here.sp.mem = s.here.sp.mem) ∧
      (quiet (beginEnd s).here = true → r.kind = .original → r.tasted = false → (s.node die l r.node).twinCore = none →
        ∃ t, exec .nend s = .next t ∧ t.here.run = none ∧ (∀ k, (t.here.ctx k).live = false) ∧
          (∀ n, (t.here.ctx 0).rg n = s.me.rg n) ∧ (∀ k, 1 ≤ k → k ≤ 10 → (t.here.ctx k).g = (s.here.ctx k).g) ∧
          t.here.sp.mem = s.here.sp.mem ∧ (t.node die l r.node).st = .ended ∧
          (t.die die).completions = (s.die die).completions + 1))

/-- The pass and the life of a launch (R226, R227, R257 to R264, R300, R342, R343): a queued launch is handed out with its stamp; the
pass dispatches what it chose, its node leaving its level and its core being taken while its images are read, a plain node's core taking
them and its role-table entry; a tasted node's inputs are retained; an
arrival lowers its node's counter, or ends stale; a halted node is restarted; the
items of twins are compared by sequence number, and a difference or a silence halts both; and a die that has finished reports once.
Choices of the model: the content of twins' items is compared itself (log 32); the silence and the restart come as events without a
count of cycles (log 4, log 34); an event that the state does not allow leaves it as it is (log 8); when a launch counts as finished and
what ELAPSED counts from (log 49). -/
def Obligations.PassResults : Prop :=
  ∀ (s : State) (die : Nat),
    (∀ l x, s.mod.launches.entries.find? (fun e => e.2.st == .queued) = some (l, x) → handoutOpen s = true →
      (runningLaunches s).length < 4 → earlierLaunch s l = false → ∃ u y, u.mod.launches.get? l = some y ∧ y.st = .running ∧ y.gen = s.mod.gen ∧
        y.liveMask = s.mod.live ∧ y.handed = s.mod.clock ∧ y.packet = stampPacket x.packet s.mod.gen s.mod.live ∧
        (∀ k ∈ liveDies s.mod.live, u.partOf k l = {}) ∧ u.cores = s.cores ∧
        (∀ i, y.unplaced.has i = decide (i < (readPacket x.packet).nnode)) ∧
        exec .launchHandout s = .next ((List.range (readPacket x.packet).nnode).foldl (fun t i => seekOwner t l i) u)) ∧
    (let w := settleClaims s die;
      ((s.die die).claims = [] → w = s) ∧
      (∀ e, ((w.die die).levels.get 0 []).find? (strandedRun w die) = some e →
        exec (.passDispatch die) s = .next (dropStranded w die e)) ∧
      (∀ e c q, ((w.die die).levels.get 0 []).find? (strandedRun w die) = none → passNext w die = some (e, c, q) →
        exec (.passDispatch die) s = .next (dispatch w die e c q))) ∧
    (∀ e c q u, (s.die die).claims = [] → ((s.die die).levels.get 0 []).find? (strandedRun s die) = none → passNext s die = some (e, c, q) →
      let v := (leavePass s die e c q).updDie die fun x => { x with claims := x.claims ++ [(e, c, q)] }
      readImage v c (v.packet e.launch).part (v.node die e.launch e.node).d = .error (.wait u) →
      exec (.passDispatch die) s = .next u ∧ (coreDie c = die → idle v c = false) ∧
        (∀ p, e ∉ (v.die die).levels.get p []) ∧ (e.kind = .original → (v.node die e.launch e.node).st = .running)) ∧
    (∀ e c m tb u, (s.die die).claims = [] → ((s.die die).levels.get 0 []).find? (strandedRun s die) = none →
      passNext s die = some (e, c, none) → e.kind = .original →
      let v := (leavePass s die e c none).updDie die fun x => { x with claims := x.claims ++ [(e, c, none)] }
      readImage v c (v.packet e.launch).part (v.node die e.launch e.node).d = .ok (m, tb, u) →
      imageFault m tb (s.packet e.launch).nnode e.node = none → (u.node die e.launch e.node).saved = none →
      let x := (u.node die e.launch e.node).d
      tasted u e.launch e.node x = false → ∃ t r, exec (.passDispatch die) s = .next t ∧ (t.core c).run = some r ∧
        r.launch = e.launch ∧ r.node = e.node ∧ (t.core c).wired = (u.logicalNo c).elim 0#32 (u.roleEntry (coreCluster c)) ∧
        (t.node die e.launch e.node).st = .running ∧
        (t.node die e.launch e.node).core = some c ∧ (t.core c).code = Mem.writeBytes [] 0 m.code ∧ (t.core c).codeLen = m.code.length ∧
        (t.core c).sp.mem = Mem.writeBytes [] 0 m.data ∧ ((t.core c).ctx 0).live = true ∧ ((t.core c).ctx 0).pc = 0#64 ∧
        ((t.core c).ctx 0).rg 1 = BitVec.ofNat 64 x.arg ∧ ((t.core c).ctx 0).rg 30 = BitVec.ofNat 64 x.sp ∧
        (∀ k, k ≠ 0 → (t.core c).ctx k = {}) ∧ ∀ k, k ≠ c → t.core k = u.core k) ∧
    (∀ core r k xs u, (s.core core).run = some r → (s.partOf (coreDie core) r.launch).tastes.get? r.node = some k →
      r.kind = .original → k.phase = .retain →
      retainTiles s core r.part (s.node (coreDie core) r.launch r.node).tiles = .ok (xs, u) →
      ∃ t, exec (.tasteRetain core) s = .next t ∧ ((t.core core).ctx 0).live = true ∧
        (t.partOf (coreDie core) r.launch).tastes.get? r.node = some { k with phase := .original, tiles := xs }) ∧
    (∀ l p y src gen rel rest, (s.die die).parts.entries.find? (fun p => !p.2.arrivals.isEmpty) = some (l, p) →
      p.arrivals = (y, src, gen, rel) :: rest → ∃ t, exec (.tileArrival die) s = .next t ∧ (t.partOf die l).arrivals = rest ∧
        t.cores = s.cores ∧ ((s.node die l y).desc.isSome = true → 0 < (s.node die l y).ctr →
          (t.node die l y).ctr = if genOk s gen then (s.node die l y).ctr - 1 else (s.node die l y).ctr) ∧
        (genOk s gen = false → (t.partOf die l).staleEnds = (s.partOf die l).staleEnds ++ [(y, src, 0x16#16)])) ∧
    (∀ launch node core j, let n := s.node die launch node
      n.st = .running → n.core = none → State.restartable n = true → s.logicalNo core = some j → coreCluster core = n.home →
      idle s core = true → (s.roleEntry (coreCluster core) j).toNat / 2 ^ 30 = n.d.role →
      (s.roleEntry (coreCluster core) j).toNat / 2 ^ 22 % 256 = n.stage → n.d.flag 1 = false →
      let t := dispatch s die ⟨launch, node, .original⟩ core none
      exec (.nodeRestart die launch node core) s = .next (if (t.node die launch node).core.isSome
        then t.updNode die launch node fun n => { n with restarts := n.restarts + 1 } else t)) ∧
    (∀ launch node x y, twinsOf s die launch node = some (x, y) → x ≠ y →
      let pair := twinPair (s.core x).li.twinOut (s.core y).li.twinOut
      let none' := (s.core x).li.twinOut = [] ∧ (s.core y).li.twinOut = []
      (∀ n out w xs ys k ch, (s.core x).li.twinOut = .chan n out w :: xs → (s.core y).li.twinOut = .chan n out w :: ys →
        s.outDest x out = some (k, ch) → k ≠ x → k ≠ y → ∃ t, exec (.twinCompare die launch node) s = .next t ∧
          (t.core k).li.wire.get ch [] = (s.core k).li.wire.get ch [] ++ [w] ∧ (t.core x).li.twinOut = xs ∧
          (t.core y).li.twinOut = ys ∧ (t.core y).li.creditBack.get out 0 = (s.core y).li.creditBack.get out 0 + 1) ∧
      (∀ p q, pair = some (p, q) → twinNo p = twinNo q ∧ p ∈ (s.core x).li.twinOut ∧ q ∈ (s.core y).li.twinOut ∧
        (twinSame p q = false → exec (.twinCompare die launch node) s = .next (haltTwins s x y launch node))) ∧
      (pair = none → exec (.twinCompare die launch node) s = .next s) ∧
      (pair = none → ¬ none' →
        exec (.twinSilenceTimeout die launch node) s = .next (haltTwins s x y launch node)) ∧
      (pair.isSome ∨ none' → exec (.twinSilenceTimeout die launch node) s = .next s)) ∧
    (∀ launch x, s.mod.launches.get? launch = some x → x.st = .running → (reporters s x).contains die = true →
      inRun s = true → s.mod.phase = .ready → (s.die die).parts.has launch = true →
      (s.partOf die launch).reported = false → x.reports.has die = false → unreadLeft s launch = false → finished s die launch = true →
      let p := s.partOf die launch
      let y : Launch := { x with reports := x.reports.set die (reportOf p, p.word, p.conv) }
      ∃ t : State, (t.partOf die launch).reported = true ∧ t.mod = s.mod ∧ t.cores = s.cores ∧
        exec (.dieReport die launch) s = .next (if (reporters s x).all y.reports.has then t.completeLaunch launch y
          else t.updMod fun m => { m with launches := m.launches.set launch y }))

/-! ### Cadences -/

/-- The cadence instructions (R272 to R284): an undefined set, a set of another partition, a member beyond the set and a post out of
turn trap CADENCE with their status; CDSWEEP opens the next sweep with its due members, or closes it at once where none is due; CDNEXT
hands out the lowest member not handed out; the last CDPOST closes the sweep; CDREAD gives LAST, or its extrapolation; CDPIN acts at
once on an idle set and at the close on an open one; CDDEF defines a set, or undefines it. Choices of the model: what the engine reads
of a page it cannot read, and that CDNEXT of an undefined set traps NOSET (log 57); which cadence instructions act in a taste run
(log 33). -/
def Obligations.CadenceResults : Prop :=
  ∀ (s : State) (d a b : Fld) (c : BitVec 3),
    let die := coreDie s.cur
    let id := s.me.cdSel.toNat
    let ga := s.me.rg a.toNat
    let gb := s.me.rg b.toNat
    let cad : Nat → Nat → Out := fun st m => .next (s.takeTrap .cadence (BitVec.ofNat 64 (st + m % 2 ^ 32 * 2 ^ 32)))
    let puts : State → Nat → Out := fun u v => .next ((u.updMe (·.wg d.toNat (BitVec.ofNat 64 v))).advance 8)
    let gives : State → Nat → Prop := fun u v => u.me.rg d.toNat = (if d = 0#6 then 0#64 else BitVec.ofNat 64 v) ∧
      u.me.pc = s.me.pc + 8#64 ∧ u.here.sp.mem = s.here.sp.mem
    (s.inTaste = false → (∀ k, setOf s die id = some k → k.part ≠ s.partition s.cur) →
      ∀ i ∈ [Instr.cdsweep d a, .cdnext d, .cdpost a b, .cdread d a, .cdpin a b], exec i s = cad 0x40 0) ∧
    (s.inTaste = true → exec (.cdnext d) s = .next (s.stop .void) ∧ exec (.cdpost a b) s = .next (s.stop .void)) ∧
    (∀ k, setOf s die id = some k → k.part = s.partition s.cur →
      -- CDSWEEP
      (let t := ga.toNat
       let now := (List.range k.m).filter fun m => due (control s die k m) t
       let waited : State := if s.me.held.isSome then s.updHere (·.acquire s.slot k.rel) else s
       (t ≤ k.t → t < 2 ^ 32 → exec (.cdsweep d a) s = puts waited (2 ^ 32)) ∧
       (t = k.t + 1 → t < 2 ^ 32 → k.isOpen = true → exec (.cdsweep d a) s = puts waited k.due.length) ∧
       (t = k.t + 1 → t < 2 ^ 32 → k.isOpen = false → ∃ u, exec (.cdsweep d a) s = .next u ∧ gives u now.length ∧
         setOf u die id = some (if now = [] then { k with t := t, isOpen := false, due := [], posted := [], handed := {}, pins := {}, posts := {}, rel := Row.join k.rel k.posts }
           else { k with isOpen := true, due := now })) ∧
       (t = k.t + 2 → t < 2 ^ 32 → k.isOpen = true →
         exec (.cdsweep d a) s = .next (s.updMe fun x => { x with held := some (.cdsweep d a), heldOn := none })) ∧
       (2 ^ 32 ≤ t ∨ k.t + 2 < t ∨ (t = k.t + 2 ∧ k.isOpen = false) → exec (.cdsweep d a) s = cad 0x45 0)) ∧
      -- CDNEXT
      (s.inTaste = false →
        (∀ m, k.isOpen = true → k.due.find? (fun m => !k.handed.has m) = some m → exec (.cdnext d) s =
          puts (putSet s die id { k with handed := k.handed.set m (holder s) }) m) ∧
        (k.isOpen = false ∨ (∀ m ∈ k.due, k.handed.has m = true) → exec (.cdnext d) s = puts s 0x10000)) ∧
      -- CDPOST
      (s.inTaste = false → let m := gb.toNat;
        (k.m ≤ m → exec (.cdpost a b) s = cad 0x41 m) ∧ (m < k.m → k.isOpen = false → exec (.cdpost a b) s = cad 0x42 m) ∧
        (m < k.m → k.isOpen = true → k.due.contains m = false → exec (.cdpost a b) s = cad 0x43 m) ∧
        (m < k.m → k.isOpen = true → k.due.contains m = true → k.posted.contains m = true → exec (.cdpost a b) s = cad 0x44 m) ∧
        (s.here.Coherent → s.here.Clean s.slot [a] → m < k.m → k.isOpen = true → k.due.contains m = true →
          k.posted.contains m = false →
          let v := s.here.rv s.slot a.toNat
          let post := (List.range 32).flatMap fun e => leBytes 4 (if e < k.w then elem 32 v e else 0)
          ∃ (x : Core) (u : State), let q : CadSet := { k with
              posted := k.posted ++ [m], posts := Row.join k.posts ((x.sp.relRow s.slot).export s.cur)
              handed := if k.handed.has m then k.handed else k.handed.set m (holder s) };
            x.sp.mem = s.here.sp.mem ∧ x.sp.regionOf s.slot = s.here.sp.regionOf s.slot + 1 ∧
            exec (.cdpost a b) s = .next u ∧ u.me.pc = s.me.pc + 8#64 ∧
            let t := memberWrite (s.setCore s.cur x) die k m 256 post
            u.mod = (if q.posted.length = k.due.length then closeSweep t die id q else t).mod ∧
            setOf u die id = some (if q.posted.length = k.due.length then
              { q with t := k.t + 1, isOpen := false, due := [], posted := [], handed := {}, pins := {}, posts := {}, rel := Row.join k.rel q.posts }
              else q))) ∧
      -- CDREAD
      (let n := ga.toNat
       let last := memberBytes s die k n 0 128
       let x := control s die k n
       let now := if k.isOpen then k.t + 1 else k.t
       let ext := k.extrap && !(k.isOpen && k.due.contains n) && x.sprev < x.slast && x.slast < now
       (k.m ≤ n → exec (.cdread d a) s = cad 0x41 n) ∧
       (n < k.m → ∃ u, exec (.cdread d a) s = .next u ∧ u.me.pc = s.me.pc + 8#64 ∧ u.here.sp.mem = s.here.sp.mem ∧
         s.me.Kept u.me [] [] [] ∧ ∀ e < 32, elem 32 (u.here.rv s.slot d.toNat) e =
           if k.w ≤ e then 0 else (if ext then cadElem last (memberBytes s die k n 128 128) x now e else field last (4 * e) 4) % 2 ^ 32)) ∧
      -- CDPIN
      (let m := ga.toNat
       let bad := 16 ≤ gb.toNat ∨ k.cmax < gb.toNat % 8 ∨ (gb.toNat % 8 ≠ 0 ∧ gb.toNat < 8)
       (k.m ≤ m → exec (.cdpin a b) s = cad 0x41 m) ∧ (m < k.m → bad → exec (.cdpin a b) s = cad 0x47 m) ∧
       (m < k.m → ¬ bad → (k.isOpen = true → ∃ u, exec (.cdpin a b) s = .next u ∧ u.me.pc = s.me.pc + 8#64 ∧
           setOf u die id = some { k with pins := k.pins.set m gb } ∧ u.mod = s.mod) ∧
         (k.isOpen = false → exec (.cdpin a b) s = .next ((memberWrite (memberSeen s die k m 384 9) die k m 384
           { control s die k m with pin := gb.toNat / 8 % 2 == 1, pc := gb.toNat % 8 }.bytes).advance 8))))) ∧
    -- CDDEF
    (ga.toNat % 8 = 0 → ga.toNat + 64 ≤ 0xC0000 → s.here.sp.readRace s.slot [(ga.toNat, 64)] = none →
      s.here.sp.poisonIn ga.toNat 64 = none →
      let blk := readCadence (s.here.sp.mem.readBytes ga.toNat 64) (s.partition s.cur)
      let busy := (setOf s die c.toNat).any fun o => o.isOpen || o.part != s.partition s.cur
      (blk = none → exec (.cddef d a c) s = cad 0x47 0) ∧
      (∀ x, blk = some x → busy = true → exec (.cddef d a c) s = cad 0x46 0) ∧
      (∀ x, blk = some x → busy = false → x.1.m = 0 → ∃ u, exec (.cddef d a c) s = .next u ∧ setOf u die c.toNat = none ∧
        u.me.cdSel = c ∧ gives u 0) ∧
      (∀ x y u, blk = some x → busy = false → x.1.m ≠ 0 → s.me.declared = none →
        defineSet (undefine (s.setCore s.cur (s.here.updSp fun p => p.stampReads s.slot [(ga.toNat, 64)])) die c.toNat)
          { core := s.cur, rope := false, l1 := true, part := s.partition s.cur, cad := true } x.1 x.2 = .ok (.ok y, u) →
        ∃ t, exec (.cddef d a c) s = .next t ∧ setOf t die c.toNat = some y ∧ t.me.cdSel = c ∧
          t.me.rg d.toNat = 0#64 ∧ t.me.pc = u.me.pc + 8#64))

/-! ### Reliability and debug -/

/-- The reliability and debug instructions and events (R305 to R317, R208, R297, R363): a core that a register cannot name traps ILLEGAL;
SEAL seals a core's links, and kills a core that runs a node first; ERRSEND appends the marker to an input channel; SCANRUN starts a scan
that holds its context until it ends, cleared, with its result; QUAR, SUSPR and SUSPR.w read and write scores and flags under the
thresholds; scores decay, the thresholds applying to what is left; a map change leaves no quarantined core in a map, and a core that
becomes a service core starts (R208; that its firmware starts at offset 0 in slot 0 is the model's choice, log 70); the debug
instructions halt, resume, read and write a context of another core of the cluster, which at a written PC waits for nothing. Choices of
the model: SCANRUN of a core that is scanned answers 3, one whose engines work is waited for, and the outcome of a scan comes with its
event (log 55); how a map without quarantined cores fills its places (log 56); what DWRR takes of a predicate, a lane mask and a system
register (log 58); an event that the state does not allow leaves it as it is (log 8). -/
def Obligations.ReliabilityResults : Prop :=
  (∀ (s : State) (d a b : Fld),
    let w := s.me.rg a.toNat
    let v := s.me.rg b.toNat
    let own := coreCluster s.cur
    let c := coreOf own w.toNat
    let o := s.scoreOf c
    let bad : Instr → Word → Prop := fun i x => exec i s = .next (s.takeTrap .illegal x)
    let past : State → Prop := fun u => u.me.pc = s.me.pc + 8#64
    (9 < w.toNat → ∀ i ∈ [Instr.sealCore a, .scanrun d a, .quar a b, .suspr d a, .susprW d a b], bad i w) ∧
    (w.toNat ≤ 9 → (c = s.cur → bad (.sealCore a) w) ∧
      (c ≠ s.cur → (s.core c).li.isSealed = true → exec (.sealCore a) s = .next (s.advance 8)) ∧
      (c ≠ s.cur → (s.core c).li.isSealed = false → (s.core c).run = none → ∃ u, exec (.sealCore a) s = .next u ∧ past u ∧
        (u.core c).li.isSealed = true ∧ (u.core c).li.mailbox = [] ∧ (u.core c).li.amIn = []) ∧
      (∀ r, c ≠ s.cur → (s.core c).li.isSealed = false → (s.core c).run = some r → ∃ u, exec (.sealCore a) s = .next u ∧
        (u.core c).li.isSealed = true ∧ (u.core c).run = none ∧ (u.core c).sp.mem = [] ∧ (u.core c).un.vfile = {} ∧
        ∀ k, (u.core c).ctx k = {}) ∧
      (c = s.cur ∨ (s.core c).run.isSome = true ∨ claimed s c = true ∨ o.quar = true ∨ (s.die (coreDie c)).scans.has (c % 640) = true →
        exec (.scanrun d a) s = .next ((s.updMe (·.wg d.toNat 3#64)).advance 8)) ∧
      (c ≠ s.cur → (s.core c).run = none → claimed s c = false → o.quar = false → (s.die (coreDie c)).scans.has (c % 640) = false →
        quiet (s.core c) = true → ∃ u, exec (.scanrun d a) s = .next u ∧ u.me.held = some (.scanrun d a) ∧ u.me.pc = s.me.pc ∧
          (u.die (coreDie c)).scans.get? (c % 640) = some (s.cur, s.slot)) ∧
      (3 ≤ v.toNat → bad (.quar a b) v) ∧ (v.toNat < 3 → o.quar = true → exec (.quar a b) s = .next (s.advance 8)) ∧
      (v.toNat < 3 → o.quar = false → ∃ u, exec (.quar a b) s = .next u ∧ past u ∧
        (v = 0#64 → (u.scoreOf c).quar = true ∧ u.mod.map.pending = true) ∧
        (v ≠ 0#64 → u.scoreOf c = { o with watch := v == 1#64 })) ∧
      (∃ u, exec (.suspr d a) s = .next u ∧ past u ∧
        u.me.rg d.toNat = (if d = 0#6 then 0#64 else BitVec.ofNat 64 (statusWord s c))) ∧
      (∀ n, s.logicalNo c = some n → statusWord s c =
        n * 2 ^ 20 + (if o.quar then 2 ^ 17 else 0) + (if o.watch then 2 ^ 16 else 0) + o.score) ∧
      (2 ^ 16 ≤ v.toNat → bad (.susprW d a b) v) ∧
      (v.toNat < 2 ^ 16 → ∃ u, exec (.susprW d a b) s = .next u ∧ past u ∧ (u.scoreOf c).score = v.toNat ∧
        (512 ≤ v.toNat → (u.scoreOf c).watch = true) ∧ (1024 ≤ v.toNat → (u.scoreOf c).quar = true) ∧
        (v.toNat < 1024 → (u.scoreOf c).quar = o.quar) ∧
        u.me.rg d.toNat = (if d = 0#6 then 0#64 else BitVec.ofNat 64 (statusWord (s.putScore c v.toNat) c)))) ∧
    ((8 ≤ w.toNat ∨ s.logicalCore own w.toNat = none) → bad (.errsend a b) w) ∧
    (∀ j, w.toNat < 8 → s.logicalCore own w.toNat = some j → (2 ≤ v.toNat → bad (.errsend a b) v) ∧
      (v.toNat < 2 → ∃ u, exec (.errsend a b) s = .next u ∧ past u ∧ let l := (s.core j).li;
        (u.core j).li.inq.get v.toNat [] = l.inq.get v.toNat [] ++ (l.wire.get v.toNat []).map .word ++ [.errmsg false] ∧
        (u.core j).li.wire.get v.toNat [] = []))) ∧
  -- scans
  (∀ (s : State) (core i k : Nat) (d x : Fld),
    (s.die (coreDie core)).scans.get? (core % 640) = some (i, k) → ((s.core i).ctx k).held = some (.scanrun d x) →
    scanNames i ((s.core i).ctx k) = some core →
    let ends : State → Nat → Prop := fun u r => (u.core core).sp.mem = [] ∧ (u.core core).un.vfile = {} ∧
      (u.core core).un.accs = {} ∧ (u.die (coreDie core)).scans.get? (core % 640) = none ∧
      ((u.core i).ctx k).rg d.toNat = (if d = 0#6 then 0#64 else BitVec.ofNat 64 r) ∧ ((u.core i).ctx k).held = none ∧
      ((u.core i).ctx k).pc = ((s.core i).ctx k).pc + 8#64
    (∃ u, exec (.scanComplete core true) s = .next u ∧ ends u 0 ∧ u.scoreOf core = { s.scoreOf core with score := 256, watch := false }) ∧
    (∃ u, exec (.scanComplete core false) s = .next u ∧ ends u 1 ∧ (u.scoreOf core).quar = true ∧ u.mod.map.pending = true) ∧
    (∀ p e, p = 6 ∨ p = 7 → e ∈ (s.die (coreDie core)).levels.get p [] → e.kind = .original →
      (s.node (coreDie core) e.launch e.node).saved = none → (s.node (coreDie core) e.launch e.node).d.role = roleOf s core →
      (idleCores s (coreDie core) (roleOf s core) fun _ => false) = [] → ∃ u, exec (.scanAbort core) s = .next u ∧ ends u 2 ∧
        u.scoreOf core = s.scoreOf core)) ∧
  (∀ (s : State) (cluster p : Nat), (s.cluster cluster).service = some p → let c := coreOf cluster p
    (s.scoreOf c).watch = true → (s.scoreOf c).quar = false → runningLaunches s = [] →
    (∃ u, exec (.sccServiceScan cluster true) s = .next u ∧ (u.core c).sp.mem = [] ∧
      u.scoreOf c = { s.scoreOf c with score := 256, watch := false }) ∧
    (∃ u, exec (.sccServiceScan cluster false) s = .next u ∧ (u.core c).sp.mem = [] ∧ (u.scoreOf c).quar = true)) ∧
  (∀ (s : State) (die : Nat), ((s.die die).completions < 2 ^ 20 → exec (.scoreDecay die) s = .next s) ∧
    (2 ^ 20 ≤ (s.die die).completions → ∃ u, exec (.scoreDecay die) s = .next u ∧
      (u.die die).completions = (s.die die).completions - 2 ^ 20 ∧ u.mod.mem = s.mod.mem ∧ u.cores = s.cores ∧
      ((s.die die).scores.keys.Nodup → (∀ c ∈ (s.die die).scores.keys, c < 640) → ∀ c < 640,
        let o := s.scoreOf (die * 640 + c)
        let n := u.scoreOf (die * 640 + c)
        n.score = o.score - 1 ∧ n.watch = (o.watch || 513 ≤ o.score) ∧ n.quar = (o.quar || 1025 ≤ o.score)))) ∧
  -- map changes
  (∀ s : State, (s.mod.map.pending = true → s.mod.map.draining = none → runningLaunches s = [] →
      ∃ u, exec .mapChangeInstall s = .next u ∧ u.mod.gen = s.mod.gen + 1#16 ∧
        (∀ q < 512, ∀ p, (u.cluster q).service = some p → (s.cluster q).service ≠ some p →
          let x := (u.core (coreOf q p)).ctx 0; x.live = true ∧ x.pc = 0#64 ∧ x.winV = true ∧ x.winSize = 3#2) ∧
        (∀ i, (∀ q < 512, ∀ p, (u.cluster q).service = some p → (s.cluster q).service ≠ some p → i ≠ coreOf q p) →
          u.core i = s.core i) ∧
        u.mod.map = { pending := false, draining := some s.mod.gen, drainFrom := s.mod.clock } ∧
        ∀ q < 512, let n := newMap (s.cluster q) fun p => (s.scoreOf (coreOf q p)).quar
          (u.cluster q) = { n with before := if n.logical = (s.cluster q).logical then n.before else some (s.cluster q).logical }) ∧
    (s.mod.map.pending = false ∨ s.mod.map.draining.isSome = true ∨ runningLaunches s ≠ [] →
      exec .mapChangeInstall s = .next s) ∧
    (∀ g, s.mod.map.draining = some g → exec .mapDrainComplete s =
      if s.mod.map.drainFrom + 2 ^ 20 ≤ s.mod.clock ∧ genRemains s g = false then
        .next ({ s with clusters := s.clusters.mapVals fun _ c => { c with before := none } }.updMod fun m =>
          { m with map := { m.map with draining := none } })
      else .next s)) ∧
  (∀ (c : Cluster) (quar : Nat → Bool), let n := newMap c quar
    (∀ p ∈ n.logical, quar p = false) ∧ (∀ p, n.service = some p → quar p = false) ∧ (∀ p, n.reserve = some p → quar p = false)) ∧
  -- debug
  (∀ (s : State) (d a b c : Fld),
    let w := s.me.rg a.toNat
    let x := s.me.rg b.toNat
    let v := s.me.rg c.toNat
    let good := w.toNat < 256 ∧ w.toNat % 16 < 10 ∧ w.toNat / 16 < 12 ∧ w.toNat % 16 ≠ corePhys s.cur
    let i := coreOf (coreCluster s.cur) (w.toNat % 16)
    let k := w.toNat / 16
    let y := (s.core i).ctx k
    let bad : Instr → Word → Prop := fun i x => exec i s = .next (s.takeTrap .illegal x)
    (¬ good → ∀ i ∈ [Instr.dhalt a, .drun a, .drdr d a b, .dwrr a b c], bad i w) ∧
    (good →
      (∃ t, exec (.dhalt a) s = .next t ∧ t.me.pc = s.me.pc + 8#64 ∧ (t.core i).ctx k = { y with dbgHalt := y.live || y.dbgHalt }) ∧
      (∃ t, exec (.drun a) s = .next t ∧ t.me.pc = s.me.pc + 8#64 ∧ (t.core i).ctx k = { y with dbgHalt := false }) ∧
      (selector x = none → bad (.drdr d a b) x ∧ bad (.dwrr a b c) x) ∧
      (∀ z, selector x = some z → y.dbgHalt = false → bad (.drdr d a b) w ∧ bad (.dwrr a b c) w) ∧
      (∀ z, selector x = some z → y.dbgHalt = true →
        exec (.drdr d a b) s = .next ((s.updMe (·.wg d.toNat (selectedValue s i k z))).advance 8) ∧
        let lands : (Ctx → Prop) → Prop := fun f =>
          ∃ t, exec (.dwrr a b c) s = .next t ∧ t.me.pc = s.me.pc + 8#64 ∧ f ((t.core i).ctx k)
        (∀ n, z = .g n → lands fun q => q.rg n = (if n = 0 then 0#64 else v)) ∧
        (∀ n, z = .p n → lands fun q => q.rp n = (n == 0 || v.getLsbD 0)) ∧
        (∀ n, z = .k n → lands fun q => q.rk n = (if n = 0 then y.rk 0 else v.setWidth 32)) ∧
        (z = .pc → v.toNat % 4 = 0 → lands fun q => q.pc = v ∧ q.wait = none ∧ q.held = none ∧ q.declared = none) ∧ (z = .pc → v.toNat % 4 ≠ 0 → bad (.dwrr a b c) v) ∧
        (∀ n, z = .sys n → (∀ q, sysWrite (s.core i) k n true v = .ok q → ∃ t, exec (.dwrr a b c) s = .next t ∧ t.core i = q ∧
            t.me.pc = s.me.pc + 8#64) ∧
          ((∀ q, sysWrite (s.core i) k n true v ≠ .ok q) → bad (.dwrr a b c) v)))))

/-! ### The host channel -/

/-- The host message channel (R336 to R344, R350, R352): a message slot written in turn is taken and acknowledged, a duplicate is
dropped, a gap, a bad CHECK and a malformed message are rejected; SYNC sets the channel up; a taken LAUNCH becomes resident or is
refused, in the order in which they were taken; HEALTH and WEAR are answered; a message is written to the ring where the credit allows,
HACK moves the credit; BAR 0 reads as CHSTATE where that lies; and in PARK and SLEEP a host write is discarded and
counted and a read is all ones.
Choices and readings of the model (log 48): that a duplicate and a gap are decided before CHECK, whose rows of R341 overlap; that at most 64 messages wait,
others being dropped and COMPLETE always kept, of which R339 says only up to 64; a message that finds no room for its answer stays in its slot,
SEQ 0 is rejected, a SYNC waits for the end of the boot, what the credit is where HACK lies beyond LASTTX, and that HACK and the message slots
read 0; that the discarded writes count with the aperture faults (log 50). -/
def Obligations.HostMessages : Prop :=
  ∀ (s : State) (fn : Nat),
    let c := s.chan fn
    let at_ : State → Chan := fun u => u.chan fn
    let counted : Out := .next (s.updMod fun m => { m with discarded := m.discarded + 1 })
    let beyond := seqDist c.lastTx c.hackLast
    let stuck := 2 ^ c.evLog < seqDist c.hackLast (nextSeq c.lastTx) ∧ (c.hackLast = 0 ∨ beyond = 0 ∨ 2 ^ 31 ≤ beyond)
    (∀ (slot : Nat) (msg : List Byte) (v : Word), hostCounts s = true →
      exec (.hostSlotWrite fn slot msg) s = counted ∧ exec (.hackWrite fn v) s = counted) ∧
    (∀ (slot : Nat) (msg : List Byte), hostCounts s = false → s.mod.power ≠ .off → s.mod.phase ≠ .romOnly → msg.length = 512 →
      let seq := field msg 0 4
      let want := nextSeq c.lastRx
      (slot = 8 → ∃ u, exec (.hostSlotWrite fn slot msg) s = .next u ∧ (at_ u).taken = c.taken ++ [⟨0, 2, msg, 0⟩]) ∧
      (slot ≠ 8 → c.ready = false ∨ s.hasRoom fn = false → ∃ u, exec (.hostSlotWrite fn slot msg) s = .next u ∧
        (at_ u).slots.get? slot = some msg ∧ (at_ u).lastRx = c.lastRx) ∧
      (slot ≠ 8 → c.ready = true → s.hasRoom fn = true → seq = 0 → exec (.hostSlotWrite fn slot msg) s =
        .next (if checkOk msg then s.reject fn 0 3 else s.reject fn want 2)) ∧
      (slot ≠ 8 → c.ready = true → s.hasRoom fn = true → seq ≠ 0 →
        (seq ≠ want → seq ≤ c.lastRx → exec (.hostSlotWrite fn slot msg) s = .next s) ∧
        (seq ≠ want → c.lastRx < seq → exec (.hostSlotWrite fn slot msg) s = .next (s.reject fn want 1)) ∧
        (seq = want → checkOk msg = false → exec (.hostSlotWrite fn slot msg) s = .next (s.reject fn want 2)) ∧
        (seq = want → checkOk msg = true → ∃ u, exec (.hostSlotWrite fn slot msg) s = .next u ∧ (at_ u).lastRx = seq ∧
          (formOk msg = true → (at_ u).taken = c.taken ++ [⟨seq, field msg 4 2, msgPayload msg, s.mod.launchNext⟩] ∧
            (c.hasArea = true → (at_ u).hostMem.readBytes c.ackAddr 8 = leBytes 4 seq ++ leBytes 4 s.mod.boots)) ∧
          (formOk msg = false → (at_ u).taken = c.taken)))) ∧
    (∀ (seq : Nat) (pkt : List Byte) (m : InMsg), s.mod.phase ≠ .romOnly →
      c.taken.find? (fun m => m.ty == 1 && m.seq == seq && m.payload == pkt) = some m →
      (earlierLaunch s m.order = true → exec (.launch fn seq pkt) s = .next s) ∧
      (earlierLaunch s m.order = false → s.refusal fn pkt = none → ∃ u, exec (.launch fn seq pkt) s = .next u ∧
        (at_ u).taken = c.taken.erase m ∧ u.mod.launches.get? m.order = some { fn := fn, hseq := seq, packet := pkt }) ∧
      (∀ r, earlierLaunch s m.order = false → s.refusal fn pkt = some r → ∃ u, exec (.launch fn seq pkt) s = .next u ∧
        (at_ u).taken = c.taken.erase m ∧ u.mod.launchNext = s.mod.launchNext ∧
        u = (s.updChan fn fun c => { c with taken := c.taken.erase m }).send fn 0x81
          (leBytes 4 (field pkt 0 4) ++ leBytes 4 seq ++ leBytes 2 r ++ leBytes 2 0))) ∧
    (s.mod.phase = .boot → ∀ msg, exec (.sync fn msg) s = .next s) ∧
    (∀ (msg : List Byte) (m : InMsg), s.mod.phase = .ready → c.taken.find? (fun m => m.ty == 2 && m.payload == msg) = some m →
      let p := msgPayload msg
      (syncOk msg = true → ∃ u, exec (.sync fn msg) s = .next u ∧ (at_ u).ready = true ∧ (at_ u).hasArea = true ∧
        (at_ u).evBase = field p 0 8 ∧ (at_ u).evLog = field p 8 1 ∧ (at_ u).ackAddr = field p 16 8 ∧
        (at_ u).hackLast = field p 24 4 ∧ (c.ready = true ∨ c.slots = {} → (at_ u).slots = {}) ∧ (at_ u).msync = false ∧
        (s.mod.launches.keys.Nodup → ∀ l x, s.mod.launches.get? l = some x → x.fn = fn → x.fabric = none → x.st = .done ∨ x.st = .lost →
          x.finalSeq ≠ 0 → x.finalSeq = field p 24 4 → u.mod.launches.get? l = none)) ∧
      (syncOk msg = false → exec (.sync fn msg) s = .next (s.updChan fn fun c => { c with taken := c.taken.erase m }))) ∧
    (∀ m : InMsg, s.mod.phase ≠ .romOnly → c.taken.find? (fun m => m.ty == 3) = some m → exec (.health fn) s =
      .next ((s.updChan fn fun c => { c with taken := c.taken.erase m }).send fn 0x84 s.healthPayload)) ∧
    (∀ (first count : Nat) (m : InMsg), s.mod.phase ≠ .romOnly →
      c.taken.find? (fun m => m.ty == 4 && field m.payload 0 2 == first && field m.payload 2 2 == count) = some m →
      exec (.wear fn first count) s = .next ((s.updChan fn fun c => { c with taken := c.taken.erase m }).send fn 0x85
        ((List.range count).flatMap fun j => State.wearBytes (s.mod.wear.get (first + j) {})))) ∧
    (∀ v : Word, hostCounts s = false → s.mod.power ≠ .off → s.mod.phase ≠ .romOnly → ∃ u, exec (.hackWrite fn v) s = .next u ∧
      (at_ u).hackLast = v.toNat % 2 ^ 32 ∧ u.cores = s.cores ∧ u.mod.mem = s.mod.mem) ∧
    (∀ (m : OutMsg) (rest : List OutMsg), c.waiting = m :: rest → m.seq = none → m.launch = none → c.slots = {} →
      let seq := nextSeq c.lastTx
      (s.mod.phase = .ready → c.hasArea = true → seqDist c.hackLast seq ≤ 2 ^ c.evLog → ∃ u, exec (.moduleMessageSend fn) s = .next u ∧
        (at_ u).waiting = rest ∧ (at_ u).lastTx = seq ∧ (at_ u).msi = c.msi + 1 ∧
        (at_ u).hostMem = c.hostMem.writeBytes (c.evBase + 512 * (seq % 2 ^ c.evLog)) (messageBytes seq m.ty m.payload)) ∧
      (s.mod.phase ≠ .ready ∨ c.hasArea = false ∨ stuck → exec (.moduleMessageSend fn) s = .next s)) ∧
    (∀ (m : OutMsg) (rest : List OutMsg) (seq : Nat), c.waiting = m :: rest → m.seq = some seq → s.mod.phase = .ready → c.hasArea = true →
      seqDist c.hackLast (nextSeq c.lastTx) < seqDist c.hackLast seq → c.slots = {} → ∃ u, exec (.moduleMessageSend fn) s = .next u ∧
        (at_ u).waiting = rest ∧ (at_ u).lastTx = c.lastTx ∧
        (at_ u).hostMem = c.hostMem.writeBytes (c.evBase + 512 * (seq % 2 ^ c.evLog)) (messageBytes seq m.ty m.payload)) ∧
    (∀ (ty : Nat) (p : List Byte), 64 ≤ (c.waiting.filter fun m => m.seq.isNone).length → s.send fn ty p = s) ∧
    (∀ (l : Nat) (p : List Byte), s.mod.phase = .boot → (at_ (s.send fn 0x82 p (some l))).waiting =
      c.waiting ++ [{ ty := 0x82, payload := p, launch := some l }]) ∧
    (let b := (chState s fn).toNat
     (hostCounts s = true → ∀ off, barValue s fn off = BitVec.allOnes 64) ∧
     (hostCounts s = false → barValue s fn 0x1208 = chState s fn ∧ ∀ off, off ≠ 0x1208 → barValue s fn off = 0#64) ∧
     b / 2 ^ 32 = s.mod.boots % 2 ^ 32 ∧ b % 2 ^ 32 = (if c.msync then 128 else 0) + (match s.mod.phase with
       | .boot => 0 | .ready => 1 | .romOnly => 2)) ∧
    (∀ (ty : Nat) (p : List Byte), s.mod.phase ≠ .romOnly → c.waiting = [] → c.hasArea = false ∨ stuck →
      (at_ (s.send fn ty p)).waiting = [{ ty := ty, payload := p }] ∧ (at_ (s.send fn ty p)).hostMem = c.hostMem)

/-! ### Boot, power and failures -/

/-- Boot, reset, failures, wear and power states (R305, R345 to R355, R364): a boot with an acceptable image counts itself, raises SVN,
leaves memory empty and no launch open and starts the service cores, and without one ends in ROMONLY; a reset and a power loss keep the
journal, the fuses and the training records, and a reset the wear counters; a failed die leaves the mask;
persisting and wear ticks change their records alone; PARK keeps the cores and SLEEP drops them, HBM kept, and at its end the service
cores start again and the module is in RUN once every cadence set has been translated.
Choices of the model: COLD_BOOT runs every stage in one step (log 51); DIE_FAIL halts the launches whose mask holds the die, and what
THERMAL_PAUSE does (log 52, log 4); what SLEEP drops, and an entry under way (log 50); that PARK while a SLEEP entry is pending leaves it pending,
that SLEEP turns a pending PARK into a pending SLEEP, and that a PARK or SLEEP asked for while a resume from SLEEP is under way is kept until its
end (log 56, DEDUCED: R364 names no order); power RUN after a module reset (log 18); an event that the state does not allow leaves it as
it is (log 8); the start of a service core's firmware (log 70). -/
def Obligations.PowerAndBoot : Prop :=
  (∀ (s : State) (b : BootInput),
    (s.mod.phase ≠ .boot → exec (.coldBoot b) s = .next s) ∧
    (s.mod.phase = .boot → bootImage s b 0 = true ∨ bootImage s b 1 = true → ∃ u, exec (.coldBoot b) s = .next u ∧
      u.mod.boots = s.mod.boots + 1 ∧ u.mod.phase = .ready ∧ u.mod.power = .run ∧ u.mod.mem.hbm = [] ∧
      (let img := driveImage s b (if bootImage s b 0 then 0 else 1)
       u.mod.running = some img ∧ ∀ k < 64, u.mod.fuses.svn.getLsbD k = (s.mod.fuses.svn.getLsbD k || k < img.version)) ∧
      (s.mod.sec = .manufacture → u.mod.fuses.uds.isSome) ∧ u.mod.fuses.rooth = s.mod.fuses.rooth ∧
      (∀ q < 512, ∀ p, (u.cluster q).service = some p → ((u.core (coreOf q p)).ctx 0).live = true) ∧
      (∀ i, (∀ q < 512, ∀ p, (u.cluster q).service = some p → i ≠ coreOf q p) → u.core i = {}) ∧
      ∀ l x, u.mod.launches.get? l = some x → x.st ≠ .queued ∧ x.st ≠ .running) ∧
    (s.mod.phase = .boot → bootImage s b 0 = false → bootImage s b 1 = false → ∃ u, exec (.coldBoot b) s = .next u ∧
      u.mod.phase = .romOnly ∧ u.mod.power = .run ∧ u.mod.boots = s.mod.boots ∧ u.cores = {}) ∧
    (let kept : State → Prop := fun u => u.cores = {} ∧ u.mod.phase = .boot ∧ u.mod.dbg = .none ∧ u.mod.mem.hbm = [] ∧
       u.mod.launches = s.mod.launches ∧ u.mod.boots = s.mod.boots ∧ u.mod.sec = s.mod.sec ∧ u.mod.fuses = s.mod.fuses ∧
       u.mod.images = s.mod.images ∧ u.mod.training = s.mod.training
     (∃ u, exec .moduleReset s = .next u ∧ kept u ∧ u.mod.wear = s.mod.wear ∧ u.mod.power = (if s.mod.power = .off then .off else .run)) ∧
     (∃ u, exec .powerLoss s = .next u ∧ kept u ∧ u.mod.power = .off)) ∧
    (∀ die < 8, ((s.die die).failed = true → exec (.dieFail die) s = .next s) ∧
      ((s.die die).failed = false → ∃ u, exec (.dieFail die) s = .next u ∧ u.mod.live = s.mod.live &&& ~~~(1#8 <<< die) ∧
        u.mod.map.pending = true ∧ (u.die die).failed = true ∧
        ∀ c, coreDie c = die → (u.core c).run = none ∧ ∀ k, (u.core c).ctx k = {})) ∧
    (∀ die, exec (.thermalPause die) s = .next s) ∧
    (∀ drive, ∃ u, exec (.nvmeDriveFail drive) s = .next u ∧ u.mod.drives = s.mod.drives &&& ~~~(1#2 <<< drive) ∧
      u.cores = s.cores ∧ u.mod.mem = s.mod.mem ∧ u.mod.savedScores = s.mod.savedScores) ∧
    (inRun s = false ∨ s.mod.drives = 0#2 → exec .scorePersist s = .next s ∧ exec .wearPersist s = .next s) ∧
    (inRun s = true → s.mod.drives ≠ 0#2 →
      (∃ t, exec .scorePersist s = .next (s.updMod fun m => { m with savedScores := t }) ∧
        ((∀ d ∈ s.dies.entries, d.2.scores.entries = []) → t = s.mod.savedScores)) ∧
      exec .wearPersist s = .next (s.updMod fun m => { m with savedWear := s.mod.wear })) ∧
    (∀ record temp joules, s.mod.power ≠ .off → ∃ u w, exec (.wearCountTick record temp joules) s = .next u ∧
      u.mod.wear.get? record = some w ∧ (∀ j, j ≠ record → u.mod.wear.get? j = s.mod.wear.get? j) ∧
      let o := s.mod.wear.get record {}
      let band := if temp < 313 then 0 else if temp < 333 then 1 else if temp < 353 then 2 else if temp < 368 then 3 else 4
      w.band.get band 0 = Nat.min (2 ^ 64 - 1) (o.band.get band 0 + 1) ∧ w.energy = Nat.min (2 ^ 64 - 1) (o.energy + joules) ∧
      w.power = o.power ∧ (∀ l, o.lowest = some l → l + 40 ≤ temp → w.thermal = Nat.min (2 ^ 64 - 1) (o.thermal + 1)) ∧
      (∀ l, o.lowest = some l → temp < l + 40 → w.thermal = o.thermal))) ∧
  (∀ s : State, let pow : Power → Bool → State := fun p w => s.updMod fun m => { m with power := p, wantRun := w }
    (s.mod.power = .run ∨ s.mod.power = .parkPending → s.mod.phase = .ready → exec .parkRequest s = .next (pow .parkPending false)) ∧
    (s.mod.power = .sleepPending → exec .parkRequest s = .next (pow .sleepPending false)) ∧
    (s.mod.power = .run ∨ s.mod.power = .park ∨ s.mod.power = .parkPending ∨ s.mod.power = .sleepPending → s.mod.phase = .ready →
      exec .sleepRequest s = .next (pow .sleepPending false)) ∧
    (s.mod.power = .parkPending → runningLaunches s = [] → ∃ u, exec .parkEntry s = .next u ∧
      u.mod.power = (if s.mod.wantRun then .run else .park) ∧ u.cores = s.cores ∧ u.mod.mem = s.mod.mem ∧
      ∀ d < 8, ∀ e ∈ (u.die d).tlb.entries, e.2.dirty = false) ∧
    (s.mod.power = .parkPending → parkReady s = false → exec .parkEntry s = .next s) ∧
    (s.mod.power = .sleepPending → runningLaunches s = [] → s.mod.wantRun = false → ∃ u, exec .sleepEntry s = .next u ∧
      u.mod.power = .sleep ∧ u.cores = {} ∧ u.mod.mem = { s.mod.mem with stale := [], pubs := {}, hands := {} } ∧ u.mod.dbg = .none ∧ u.mod.nonce = none ∧
      ∀ q, (u.cluster q).sram = (s.cluster q).sram ∧ (u.cluster q).logical = (s.cluster q).logical) ∧
    (s.mod.power = .sleepPending → runningLaunches s ≠ [] → exec .sleepEntry s = .next s) ∧
    (s.mod.power = .park → exec .resume s = .next (s.updMod fun m => { m with power := .run, wantRun := false, wantDown := none })) ∧
    (s.mod.power = .sleep → s.mod.waking ≠ [] → let asks : Option Bool → Out := fun w => .next (s.updMod fun m => { m with wantDown := w })
      exec .resume s = asks none ∧ exec .parkRequest s = asks (some false) ∧ exec .sleepRequest s = asks (some true) ∧
      ((s.mod.waking.foldl wakeSet s).mod.waking = [] → (wakeRun s).mod.power = match (s.mod.waking.foldl wakeSet s).mod.wantDown with
        | none => .run
        | some false => .parkPending
        | some true => .sleepPending)) ∧
    (s.mod.power = .sleep → s.mod.waking = [] → ∃ u, exec .resume s = .next u ∧ (u.mod.power = .run ↔ u.mod.waking = [])) ∧
    (s.mod.power = .sleep → s.mod.waking = [] → (∀ d ∈ s.dies.entries, d.2.sets.entries = []) →
      ∃ u, exec .resume s = .next u ∧ u.mod.power = .run ∧ u.mod.mem = s.mod.mem ∧
      (∀ q < 512, ∀ p, (s.cluster q).service = some p → ((u.core (coreOf q p)).ctx 0).live = true) ∧
      ∀ i, (∀ q < 512, ∀ p, (s.cluster q).service = some p → i ≠ coreOf q p) → u.core i = s.core i) ∧
    (s.mod.power = .parkPending ∨ s.mod.power = .sleepPending → exec .resume s = .next (s.updMod fun m => { m with wantRun := true })))

/-! ### Attestation, keys and debug levels -/

/-- The DOE mailbox (R354 to R362): an SPDM request is answered and moves its connection where the responder accepts it, and an accepted
GET_MEASUREMENTS gives the blocks of R356, with what a debug level measures besides (R361), trap notices of a partition with a key domain
without EPC and EVAL; a vendor request outside its function or a session is not accepted; tokens, key domains, firmware and security states
refuse in their order and otherwise have their effect.
Choices of the model: the order in which SPDM requests are accepted, the responder's open answers, and the indices and the layout of the
blocks that a debug level adds (log 15); STATE before BUSY at KEYCREATE, and which requests consume a nonce (log 54). -/
def Obligations.SecurityResults : Prop :=
  ∀ (s : State) (fn : Nat),
    let m := s.mod
    let c := m.spdm.get fn {}
    let out : State → DoeReply → Prop := fun u r => u.mod.doeOut = m.doeOut ++ [(fn, r)]
    let tells : Instr → DoeReply → Prop := fun i r =>
      exec i s = .next (s.updMod fun m => { m with doeOut := m.doeOut ++ [(fn, r)] })
    let word : Nat := (match m.sec with
        | .manufacture => 0 | .secure => 1 | .returned => 2) + 4 * (match m.dbg with
        | .none => 0 | .observe => 1 | .invasive => 2) + (if m.invSeen then 16 else 0) + (if m.obsSeen then 32 else 0)
    let version := m.running.elim m.fuses.svnOf (·.version)
    let blocks : List (Nat × List Byte) := [(1, sha256 Config.bootRom), (2, sha256 (m.running.elim (Config.driveImage 0 version) (·.bytes)) ++ leBytes 8 version),
      (3, sha256 Config.serviceImage), (4, leBytes 8 word)] ++ observed s
    (m.dbg = .none → observed s = []) ∧
    (m.dbg ≠ .none → (observed s).map Prod.fst = [5, 6, 7, 8] ∧
      (7, (List.range 24).flatMap fun k => State.wearBytes (m.wear.get k {})) ∈ observed s ∧
      (8, s.clusters.entries.flatMap fun q => q.2.notices.flatMap noticeBytes) ∈ observed s) ∧
    (∀ core slot epc cause eval epc' eval', noticeBytes (.halt core slot epc cause eval true) = noticeBytes (.halt core slot epc' cause eval' true)) ∧
    (∀ core slot epc cause eval, noticeBytes (.halt core slot epc cause eval false) =
      leBytes 4 core ++ leBytes 4 slot ++ leBytes 8 cause.toNat ++ leBytes 8 epc.toNat ++ leBytes 8 eval.toNat) ∧
    (hostCounts s = true → fn = 16 → c.session = true → ∃ u, exec (.dbgend fn) s = .next u ∧ out u .done ∧ u.mod.dbg = .none ∧
      ∀ i k, ((u.core i).ctx k).dbgHalt = false) ∧
    (hostCounts s = true → ∀ req t img, ∀ i ∈ [Instr.getVersion fn req, .getCapabilities fn req, .negotiateAlgorithms fn req,
      .getDigests fn req, .getCertificate fn req, .challenge fn req, .getMeasurements fn req, .keyExchange fn req, .finish fn req,
      .endSession fn req, .dbgnonce fn, .dbgauth fn t, .keycreate fn, .keydestroy fn, .advance fn t] ++
      (if m.phase = .romOnly then [] else [.fwrecover fn img]), tells i (.refused .busy)) ∧
    (m.phase = .romOnly → fn = 16 → m.power ≠ .off → ∀ img, (imageOk s img = false → tells (.fwrecover fn img) (.refused .badImage)) ∧
      (imageOk s img = true → ∃ u, exec (.fwrecover fn img) s = .next u ∧ out u .done ∧ u.mod.images = [img, img] ∧
        u.mod.phase = .boot ∧ u.cores = {})) ∧
    (hostCounts s = false → m.power ≠ .off → m.phase = .ready →
      (∀ req : List Byte,
        let takes : Instr → Nat → Bool → Spdm → Prop := fun i code ok d => ∃ u, exec i s = .next u ∧
          out u (if code = 6 ∧ ok && Config.spdmAccepts code (connCode c) req then
            .measurements blocks (Config.spdmReply code (connCode c) blocks req) else .spdm (Config.spdmReply code (connCode c) blocks req)) ∧
          u.cores = s.cores ∧ u.mod.mem = m.mem ∧
          u.mod.spdm.get fn {} = if ok && Config.spdmAccepts code (connCode c) req then d else c
        takes (.getVersion fn req) 0 true { version := true } ∧ takes (.getCapabilities fn req) 1 c.version { c with caps := true } ∧
        takes (.negotiateAlgorithms fn req) 2 c.caps { c with algs := true } ∧ takes (.getDigests fn req) 3 c.algs c ∧
        takes (.getCertificate fn req) 4 c.algs c ∧ takes (.challenge fn req) 5 c.algs c ∧
        takes (.getMeasurements fn req) 6 c.algs c ∧ takes (.keyExchange fn req) 7 c.algs { c with keyed := true } ∧
        takes (.finish fn req) 8 c.keyed { c with keyed := false, session := true } ∧
        takes (.endSession fn req) 9 c.session { c with session := false }) ∧
      (∀ t img, (fn ≠ 16 ∨ c.session = false → ∀ i ∈ [Instr.dbgnonce fn, .dbgauth fn t, .dbgend fn, .fwrecover fn img, .advance fn t],
          tells i .notAccepted) ∧
        (16 ≤ fn ∨ c.session = false → tells (.keycreate fn) .notAccepted ∧ tells (.keydestroy fn) .notAccepted)) ∧
      (fn = 16 → c.session = true →
        (∃ u, exec (.dbgnonce fn) s = .next u ∧ out u (.nonce (Config.nonce m.nonces)) ∧
          u.mod.nonce = some (Config.nonce m.nonces) ∧ u.mod.nonces = m.nonces + 1) ∧
        (∃ u, exec (.dbgend fn) s = .next u ∧ out u .done ∧ u.mod.dbg = .none ∧ ∀ i k, ((u.core i).ctx k).dbgHalt = false) ∧
        (∀ t, (tokenOk s t = false → tells (.dbgauth fn t) (.refused .badToken) ∧ tells (.advance fn t) (.refused .badToken)) ∧
          (tokenOk s t = true →
            (t.purpose = .advance → tells (.dbgauth fn t) (.refused .badToken)) ∧
            (t.purpose ≠ .advance → tells (.advance fn t) (.refused .badToken)) ∧
            (t.purpose = .invasive → m.sec = .secure → allAbsent s = false → tells (.dbgauth fn t) (.refused .state)) ∧
            (t.purpose = .observe → m.power ≠ .run → tells (.dbgauth fn t) (.refused .busy)) ∧
            (t.purpose = .observe → m.power = .run → ∃ u, exec (.dbgauth fn t) s = .next u ∧ out u .done ∧ u.mod.dbg = .observe ∧
              u.mod.nonce = none ∧ u.mod.obsSeen = true ∧ u.mod.invSeen = m.invSeen) ∧
            (t.purpose = .invasive → m.sec ≠ .secure ∨ allAbsent s = true → m.power = .run →
              ∃ u, exec (.dbgauth fn t) s = .next u ∧ out u .done ∧ u.mod.dbg = .invasive ∧ u.mod.nonce = none ∧
                u.mod.invSeen = true ∧ u.cores = s.cores) ∧
            (t.purpose = .advance → m.sec = .returned → tells (.advance fn t) (.refused .state)) ∧
            (t.purpose = .advance → m.sec ≠ .returned → ∃ u, exec (.advance fn t) s = .next u ∧ out u .done ∧
              u.mod.sec = (if m.sec = .manufacture then .secure else .returned) ∧ u.mod.nonce = none ∧
              ∀ n < 16, u.mod.mem.keys.get n .absent = .absent))) ∧
        (∀ img, (imageOk s img = false → tells (.fwrecover fn img) (.refused .badImage)) ∧
          (imageOk s img = true → ∃ u, exec (.fwrecover fn img) s = .next u ∧ out u .done ∧ u.mod.images = [img, img] ∧
            u.mod.phase = .boot ∧ u.cores = {}))) ∧
      (fn < 16 → c.session = true →
        let keyed : Instr → KeyDom → Prop := fun i k => ∃ u, exec i s = .next u ∧ out u .done ∧
          u.mod.mem.keys = m.mem.keys.set fn k ∧ ∀ q, ∀ e ∈ (u.cluster q).tlb, e.part ≠ fn
        (m.sec ≠ .secure ∨ m.dbg = .invasive → tells (.keycreate fn) (.refused .state)) ∧
        (m.sec = .secure → m.dbg ≠ .invasive → (s.residents fn ≠ 0 ∨ m.mem.keys.get fn .absent ≠ .absent →
            tells (.keycreate fn) (.refused .busy)) ∧
          (s.residents fn = 0 → m.mem.keys.get fn .absent = .absent → keyed (.keycreate fn) .active)) ∧
        (s.residents fn ≠ 0 → tells (.keydestroy fn) (.refused .busy)) ∧
        (s.residents fn = 0 → keyed (.keydestroy fn) .absent)))

/-! ### The fabric -/

/-- The fabric (R365 to R372): a port that fails takes no traffic until it trains, and with the last of a path its peers' incarnations rise; one
that rises ends the copies and collectives in progress with the peer UNREACHABLE, and every die sweeps the peer's entries, one after the
other; a BOOTS other than the last seen one raises it;
an access to a page not exported is refused with FAULT, one to an exported page is performed on memory, an integrity violation locks the
domain, and one to a core is routed or refused with this module's generation; a launch is taken in FSEQ order, refused with its reason,
repeated on a duplicate and refused on a gap, and then the sender's copy completes. In PARK an access waits, in SLEEP and OFF nothing answers.
Choices of the model: an access is performed on the raw bytes of memory, and every answer of a peer's transaction is one record of fabOut
(log 16); a transaction that arrives clears the mark that the peer does not answer (log 16); what a peer's reduction does here (log 31); a
record whose reserved bytes or REPORT are malformed is refused with FIELD (log 49, DEDUCED); what a peer reads of a write it has not
acquired (log 5). -/
def Obligations.FabricResults : Prop :=
  ∀ (s : State) (p : Nat),
    let sent : Nat → Nat → FabOp → List Byte → FabSent := fun part addr op b => ⟨p, part, addr, op, b, s.mod.addr, s.mod.gen⟩
    let up := s.mod.power ≠ .sleep ∧ s.mod.power ≠ .off
    let awake := inRun s = true ∧ s.mod.phase = .ready ∧ s.pathUp p = true
    (¬ up → ∀ die, ∀ i ∈ [Instr.linkPortFail p, .linkPortRetrain p, .incarnationIncrease p, .incarnationSweep die p], exec i s = .next s) ∧
    (up → ∃ u, exec (.linkPortFail p) s = .next u ∧ u.mod.portsDown.contains p = true ∧
      (∀ q, q ≠ p → u.mod.portsDown.contains q = s.mod.portsDown.contains q) ∧ u.mod.mem = s.mod.mem ∧
      ((∀ q ∈ knownPeers s, s.pathUp q = true → u.pathUp q = true) → u.cores = s.cores ∧ u.mod.peers = s.mod.peers) ∧
      ∀ q ∈ knownPeers s, s.pathUp q = true → u.pathUp q = false →
        ((peer s q).sweep = [] → (peer u q).inc = (peer s q).inc + 1#8 ∧ (peer u q).unreachable = true) ∧
        ((peer s q).sweep ≠ [] → (peer u q).inc = (peer s q).inc ∧ (peer u q).owed = true)) ∧
    (up → exec (.linkPortRetrain p) s = .next (s.updMod fun m => { m with portsDown := m.portsDown.erase p })) ∧
    (∀ moda, s.pathUp moda = true ↔ ∃ port, s.mod.portsDown.contains port = false ∧
      if moda / 1024 = s.mod.addr.toNat / 1024 then port < 36 else 36 ≤ port ∧ port < 40) ∧
    (up → (peer s p).sweep ≠ [] → exec (.incarnationIncrease p) s = .next s) ∧
    (up → (peer s p).sweep = [] → ∃ u, exec (.incarnationIncrease p) s = .next u ∧ (peer u p).inc = (peer s p).inc + 1#8 ∧
      (peer u p).unreachable = true ∧ (peer u p).sweep = [0, 1, 2, 3, 4, 5, 6, 7] ∧ u.mod.mem = s.mod.mem ∧ u.dies = s.dies ∧
      (∀ q, q ≠ p → peer u q = peer s q) ∧
      ∀ (i j : Nat), (∀ m, (s.core i).en.flight[j]? = some (.copy m) → (u.core i).en.flight[j]? = some (.copy
          (if m.started = true ∧ m.status = none ∧ p ∈ copyPeers s i m then { m with status := some 0x12#16, miss := none } else m))) ∧
        ∀ m, let m' : CEntry := .coll (if m.status.isSome = true then m else if namesAny s i m [p] = true then { m with status := some 0x12#16, miss := none }
            else { m with gone := m.gone ++ [p] })
          ((s.core i).en.flight[j]? = some (.coll m) → (u.core i).en.flight[j]? = some m') ∧
          ((s.core i).en.copyQ[j]? = some (.coll m) → (u.core i).en.copyQ[j]? = some m')) ∧
    (∀ b, up → (peer s p).sweep = [] → ∃ u, outsideAct s (.peerBoots p b) = u ∧ (peer u p).boots = some b ∧ (peer u p).unreachable = false ∧
      ((peer s p).boots = none ∨ (peer s p).boots = some b → (peer u p).inc = (peer s p).inc ∧ (peer u p).sweep = []) ∧
      (∀ b', (peer s p).boots = some b' → b' ≠ b → (peer u p).inc = (peer s p).inc + 1#8 ∧ (peer u p).sweep = [0, 1, 2, 3, 4, 5, 6, 7])) ∧
    (up → ∀ die, ((peer s p).sweep.contains die = false → exec (.incarnationSweep die p) s = .next s) ∧
      ((peer s p).sweep.contains die = true → ∃ u, exec (.incarnationSweep die p) s = .next u ∧
        (let left := (peer s p).sweep.erase die
         let rises := (peer s p).owed = true ∧ left = []
         (rises → (peer u p).inc = (peer s p).inc + 1#8) ∧ (¬ rises → (peer u p).inc = (peer s p).inc ∧ (peer u p).sweep = left)) ∧ u.mod.mem = s.mod.mem ∧
        (∀ e ∈ (u.die die).tlb.entries, e.2.remote = true → e.2.moda ≠ p) ∧
        (∀ e ∈ (s.die die).tlb.entries, e.2.remote = true → e.2.moda = p → e.2.dirty = true → e.2.w0 ∈ (u.die die).marked) ∧
        (∀ q, q / 64 = die → ∀ e ∈ (u.cluster q).tlb, e.remote = true → e.moda ≠ p) ∧
        ∀ i, coreDie i = die → ∀ e ∈ (u.core i).en.ropeTlb, e.remote = true → e.moda ≠ p)) ∧
    (∀ (part : Nat) (gen : BitVec 16) (phys : Nat) (acc : RemoteAcc) (seen : List Nat),
      let replies : Nat → List Byte → State → Prop := fun st b u =>
        exec (.remoteAccess p part phys ⟨gen, acc, seen⟩) s = .next u ∧ (peer u p).unreachable = false ∧ (peer u p).gen = some gen ∧
        u.mod.fabOut = s.mod.fabOut ++ [sent part phys (.answer st) b] ∧ u.cores = s.cores
      let m := s.mod.mem
      let secs := State.sectors phys (accBytes acc)
      let bad := secs.any m.poison.contains
      let old := m.hbm.readBytes phys (accBytes acc)
      let sound := ∀ q ∈ secs, m.mute.contains q = false ∧ State.eccOf m q = .clean
      let clear := sound ∧ State.violated m part secs = none ∧ (m.keyOf part ≠ 0 ∨ ∀ q ∈ secs, m.keyAt q = 0)
      (¬ awake → exec (.remoteAccess p part phys ⟨gen, acc, seen⟩) s = .next s) ∧
      (awake → ∀ die cluster core, acc = .toCore die cluster core → ∃ u, replies (if s.mod.live.getLsbD die = true ∧ cluster < 64 ∧
        core < (s.cluster (die * 64 + cluster)).logical.length then 0 else 0x16) [] u ∧ u.mod.mem = m) ∧
      (awake → exportedTo s part phys (accBytes acc) = false → (∀ die cluster core, acc ≠ .toCore die cluster core) → (∀ b, acc ≠ .report b) →
        ∃ u, replies 0x11 [] u ∧ u.mod.mem = m) ∧
      (awake → exportedTo s part phys (accBytes acc) = true →
        (m.keys.get part .absent = .locked → ∃ u, replies 0x15 [] u ∧ u.mod.mem = m) ∧
        (m.keys.get part .absent ≠ .locked →
          (∀ q, sound → State.violated m part secs = some q → remoteReads acc = true → ∃ u, replies 0x15 [] u ∧
            u.mod.mem.keys.get part .absent = .locked ∧ u.mod.mem.hbm = m.hbm) ∧
          (∀ n, acc = .read n → clear → ∃ u, replies (if bad then 4 else 0) (peerSees s (peerRow s p seen) [⟨phys, n, 0⟩] old) u ∧ u.mod.mem = m) ∧
          (m.stale = [] ∨ (∀ x ∈ m.stale, ∃ n ∈ seen, ∃ h, m.hands.get? n = some h ∧ p ∈ h.peers ∧ State.covers h x = true) →
            peerSees s (peerRow s p seen) [⟨phys, accBytes acc, 0⟩] old = old) ∧
          (∀ b, acc = .write b → phys % 64 = 0 → b.length % 64 = 0 → ∃ u, replies 0 [] u ∧
            u.mod.mem.hbm = m.hbm.writeBytes phys b ∧ ∀ q ∈ secs, q ∉ u.mod.mem.poison) ∧
          (∀ v, acc = .atomicAdd v → clear → ∃ u, replies (if bad then 4 else 0) old u ∧
            u.mod.mem.hbm = m.hbm.writeBytes phys (leBytes 8 (leNat old + v.toNat))) ∧
          (∀ op sf df fmode b, acc = .reduce op sf df fmode b → clear → ∃ u, replies (if bad then 4 else 0) [] u ∧
            u.mod.mem.hbm = m.hbm.writeBytes phys ((remoteReduce op sf df fmode old b).take (accBytes acc)))))) ∧
    (∀ part gen record,
      let fseq := field record 64 4
      let addr := field record 72 8
      let pkt := record.take 64
      let last := (peer s p).fseq.get part 0
      let window := sent part 0x1FFFFFF0000 (.answer 0) []
      let takes := inRun s = true ∧ s.pathUp p = true
      let two : Nat → List Byte → List FabSent := fun a b => [sent part (a + 8) .report (b.drop 8), sent part a .report (b.take 8)]
      (¬ takes → exec (.fabricLaunch p part ⟨gen, record⟩) s = .next s) ∧
      (takes → record.length ≠ 128 → ∃ u, exec (.fabricLaunch p part ⟨gen, record⟩) s = .next u ∧ (peer u p).gen = some gen ∧
        u.mod.fabOut = s.mod.fabOut ++ [sent part 0x1FFFFFF0000 (.answer 0x11) []] ∧ u.mod.launches = s.mod.launches) ∧
      (takes → record.length = 128 → ∃ u, exec (.fabricLaunch p part ⟨gen, record⟩) s = .next u ∧ (peer u p).unreachable = false ∧
        (peer u p).gen = some gen ∧ (∃ reports, u.mod.fabOut = s.mod.fabOut ++ reports ++ [window]) ∧
        (fseq = last + 1 → (peer u p).fseq.get part 0 = fseq ∧ ∃ x, u.mod.launches.get? s.mod.launchNext = some x ∧
          x.fn = part ∧ x.packet = pkt ∧ x.fabric = some (p, fseq, addr) ∧
          x.st = (if recordFits record && s.refusal part pkt == none then .queued else .refused) ∧
          field x.final 6 2 = (if recordFits record then (s.refusal part pkt).getD 0 else 1) ∧
          u.mod.fabOut = s.mod.fabOut ++ two addr x.final ++ [window]) ∧
        (fseq ≠ last + 1 → u.mod.launches = s.mod.launches ∧ (peer u p).fseq = (peer s p).fseq) ∧
        (last + 1 < fseq → ∃ b, u.mod.fabOut = s.mod.fabOut ++ two addr b ++ [window] ∧ field b 4 1 = 3 ∧ field b 6 2 = 7) ∧
        (∀ l x a f, fseq ≤ last → fabricOf s p part fseq = some (l, x) → x.fabric = some (p, f, a) →
          u.mod.fabOut = s.mod.fabOut ++ two a x.final ++ [window])))

/-! ### The memories' canonical form -/

/-- Every step keeps every memory in its canonical form: from any state in which HBM, the scratchpads, the code images, the press SRAMs and
what is known of host memory list rising addresses and no cell that holds what an unlisted one reads as, a step leaves them so. -/
def Obligations.StepKeepsMemories : Prop :=
  ∀ s t : State, s.MemoriesWf → step s = .next t → t.MemoriesWf
end

