-- ==== Sys2Proof/Laws/Containers.lean ====
section
/-!
SUPPORT. What the two containers do: reading a table or a memory after a write, and the canonical form of a memory, kept by every
operation on one.
-/
namespace Sys2Proof.Machine

/-! ### Lists of entries -/

theorem getList_putList {α : Type} (k j : Nat) (v : α) (l : List (Nat × α)) :
    getList j (putList k v l) = if j = k then some v else getList j l := by
  induction l with
  | nil => simp [putList, getList]
  | cons e es ih =>
    unfold putList
    by_cases h1 : k = e.1
    · by_cases h2 : j = k <;> simp_all [getList]
    · by_cases h3 : k < e.1
      · simp [h1, h3, getList]
      · simp only [h1, h3, if_false, getList, ih]
        by_cases h2 : j = k
        · simp [h2, h1]
        · simp [h2]

theorem getList_filter_ne {α : Type} (k j : Nat) (l : List (Nat × α)) :
    getList j (l.filter fun e => e.1 != k) = if j = k then none else getList j l := by
  induction l with
  | nil => simp [getList]
  | cons e es ih =>
    by_cases h : e.1 = k
    · simp only [List.filter, h, bne_self_eq_false, ih, getList]
      by_cases h2 : j = k <;> simp [h2]
    · have hb : (e.1 != k) = true := by simp [h]
      simp only [List.filter, hb, getList, ih]
      by_cases h2 : j = e.1
      · simp [h2, h]
      · simp [h2]

theorem getList_filter_mem {α : Type} (p : Nat → Bool) (j : Nat) (l : List (Nat × α)) :
    getList j (l.filter fun e => p e.1) = if p j then getList j l else none := by
  induction l with
  | nil => simp [getList]
  | cons e es ih =>
    by_cases h : p e.1
    · simp only [List.filter, h, getList, ih]
      by_cases h2 : j = e.1
      · simp [h2, h]
      · simp [h2]
    · have hb : p e.1 = false := by simpa using h
      simp only [List.filter, hb, getList, ih]
      by_cases h2 : j = e.1
      · simp [h2, hb]
      · simp [h2]

theorem getList_map {α β : Type} (f : Nat → α → β) (j : Nat) (l : List (Nat × α)) :
    getList j (l.map fun e => (e.1, f e.1 e.2)) = (getList j l).map (f j) := by
  induction l with
  | nil => rfl
  | cons e es ih =>
    simp only [List.map, getList, ih]
    by_cases h : j = e.1 <;> simp [h]

namespace Tab
variable {α : Type}

theorem get?_set (t : Tab α) (k j : Nat) (v : α) : (t.set k v).get? j = if j = k then some v else t.get? j :=
  getList_putList k j v t.entries

theorem get_set (t : Tab α) (k j : Nat) (v d : α) : (t.set k v).get j d = if j = k then v else t.get j d := by
  simp only [get, get?_set]; split <;> rfl

@[simp] theorem get_set_same (t : Tab α) (k : Nat) (v d : α) : (t.set k v).get k d = v := by simp [get_set]

theorem get_set_ne (t : Tab α) {k j : Nat} (v d : α) (h : j ≠ k) : (t.set k v).get j d = t.get j d := by simp [get_set, h]

@[simp] theorem get?_empty (k : Nat) : (({} : Tab α)).get? k = none := rfl

@[simp] theorem get_empty (k : Nat) (d : α) : (({} : Tab α)).get k d = d := rfl

theorem get?_erase (t : Tab α) (k j : Nat) : (t.erase k).get? j = if j = k then none else t.get? j :=
  getList_filter_ne k j t.entries

theorem get?_mapVals (t : Tab α) (f : Nat → α → α) (j : Nat) : (t.mapVals f).get? j = (t.get? j).map (f j) :=
  getList_map f j t.entries

/-- Writing a key twice is writing it the second time. -/
theorem set_set (t : Tab α) (k : Nat) (v w : α) : (t.set k v).set k w = t.set k w := by
  have h : ∀ l : List (Nat × α), putList k w (putList k v l) = putList k w l := by
    intro l
    induction l with
    | nil => simp [putList]
    | cons e es ih =>
      by_cases h1 : k = e.1
      · simp [putList, h1]
      · by_cases h2 : k < e.1
        · simp [putList, h1, h2]
        · simp [putList, h1, h2, ih]
  show (⟨_⟩ : Tab α) = ⟨_⟩
  exact congrArg Tab.mk (h t.entries)

end Tab

/-! ### Memories -/

namespace Mem

theorem read_write (m : Mem) (a b : Nat) (v : Byte) : (m.write a v).read b = if b = a then v else m.read b := by
  unfold write read
  by_cases h : v = unlisted
  · simp only [h, if_true, drop, getList_filter_ne]
    by_cases h2 : b = a <;> simp [h2]
  · simp only [h, if_false, getList_putList]
    by_cases h2 : b = a <;> simp [h2]

/-- After a write of bytes, the bytes stand there and every other byte is as before. -/
theorem read_writeBytes (m : Mem) (a b : Nat) (bs : List Byte) :
    (m.writeBytes a bs).read b = if a ≤ b ∧ b < a + bs.length then bs.getD (b - a) unlisted else m.read b := by
  induction bs generalizing m a with
  | nil =>
    have : ¬ (a ≤ b ∧ b < a + ([] : List Byte).length) := by simp
    rw [if_neg this]; rfl
  | cons c cs ih =>
    simp only [writeBytes, ih, read_write, List.length_cons]
    by_cases h1 : a + 1 ≤ b ∧ b < a + 1 + cs.length
    · rw [if_pos h1, if_pos (by omega)]
      obtain ⟨n, hn⟩ : ∃ n, b - a = n + 1 := ⟨b - a - 1, by omega⟩
      rw [hn, List.getD_cons_succ]
      congr 1; omega
    · rw [if_neg h1]
      by_cases h2 : b = a
      · rw [if_pos h2, if_pos (by omega), h2, Nat.sub_self]; rfl
      · rw [if_neg h2, if_neg (by omega)]

theorem read_writeBytes_outside (m : Mem) (a b : Nat) (bs : List Byte) (h : b < a ∨ a + bs.length ≤ b) :
    (m.writeBytes a bs).read b = m.read b := by
  rw [read_writeBytes, if_neg (by omega)]

theorem readBytes_length (m : Mem) (a n : Nat) : (m.readBytes a n).length = n := by
  induction n generalizing a with
  | zero => rfl
  | succ n ih => simp [readBytes, ih]

/-- A write of bytes is read back. -/
theorem readBytes_writeBytes (m : Mem) (a : Nat) (bs : List Byte) : (m.writeBytes a bs).readBytes a bs.length = bs := by
  have key : ∀ (n i : Nat), i + n ≤ bs.length → (m.writeBytes a bs).readBytes (a + i) n = (bs.drop i).take n := by
    intro n
    induction n with
    | zero => intro i _; simp [readBytes]
    | succ n ih =>
      intro i h
      have hi : i < bs.length := by omega
      rw [readBytes, read_writeBytes, if_pos ⟨by omega, by omega⟩, List.drop_eq_getElem_cons hi, List.take_succ_cons,
        show a + i + 1 = a + (i + 1) by omega, ih (i + 1) (by omega)]
      congr 1
      rw [show a + i - a = i by omega, List.getD_eq_getElem?_getD, List.getElem?_eq_getElem hi]
      rfl
  have := key bs.length 0 (by omega)
  simpa using this

/-! The canonical form. -/

/-- The canonical form as a property of the list: rising addresses, no cell with the unlisted value. -/
theorem wf_iff (m : Mem) : m.wf = true ↔ m.Pairwise (fun c d => c.1 < d.1) ∧ ∀ c ∈ m, c.2 ≠ unlisted := by
  induction m with
  | nil => simp [wf]
  | cons c m ih =>
    cases m with
    | nil => simp [wf, bne_iff_ne]
    | cons d m =>
      simp only [wf, Bool.and_eq_true, bne_iff_ne, decide_eq_true_eq, ih]
      constructor
      · rintro ⟨⟨h1, h2⟩, h3, h4⟩
        refine ⟨List.pairwise_cons.mpr ⟨?_, h3⟩, ?_⟩
        · intro e he
          rcases List.mem_cons.mp he with rfl | he
          · exact h2
          · exact Nat.lt_trans h2 ((List.pairwise_cons.mp h3).1 e he)
        · intro e he
          rcases List.mem_cons.mp he with rfl | he
          · exact h1
          · exact h4 e he
      · rintro ⟨h1, h2⟩
        have h3 := List.pairwise_cons.mp h1
        exact ⟨⟨h2 c (by simp), h3.1 d (by simp)⟩, h3.2, fun e he => h2 e (by simp [List.mem_cons.mp he])⟩

theorem putList_keys (a : Nat) (v : Byte) (m : Mem) (b : Nat) (h : ∀ c ∈ m, b < c.1) (hb : b < a) :
    ∀ c ∈ putList a v m, b < c.1 := by
  induction m with
  | nil => simp [putList, hb]
  | cons e es ih =>
    intro c hc
    unfold putList at hc
    split at hc
    · rcases List.mem_cons.mp hc with rfl | hc
      · exact hb
      · exact h c (by simp [hc])
    · split at hc
      · rcases List.mem_cons.mp hc with rfl | hc
        · exact hb
        · exact h c hc
      · rcases List.mem_cons.mp hc with rfl | hc
        · exact h _ (by simp)
        · exact ih (fun d hd => h d (by simp [hd])) c hc

theorem wf_putList (m : Mem) (a : Nat) (v : Byte) (hm : m.wf = true) (hv : v ≠ unlisted) :
    (show Mem from putList a v m).wf = true := by
  rw [wf_iff] at hm ⊢
  obtain ⟨h1, h2⟩ := hm
  induction m with
  | nil => simp [putList, hv]
  | cons e es ih =>
    have h3 := List.pairwise_cons.mp h1
    unfold putList
    split
    · rename_i he
      exact ⟨List.pairwise_cons.mpr ⟨fun c hc => by simpa [he] using h3.1 c hc, h3.2⟩,
        fun c hc => (List.mem_cons.mp hc).elim (fun h => by simpa [h] using hv) (fun h => h2 c (by simp [h]))⟩
    · split
      · rename_i he hlt
        exact ⟨List.pairwise_cons.mpr ⟨fun c hc => (List.mem_cons.mp hc).elim (fun h => by simpa [h] using hlt)
            (fun h => Nat.lt_trans hlt (h3.1 c h)), h1⟩,
          fun c hc => (List.mem_cons.mp hc).elim (fun h => by simpa [h] using hv) (fun h => h2 c h)⟩
      · rename_i he hlt
        have hi := ih h3.2 (fun c hc => h2 c (by simp [hc]))
        exact ⟨List.pairwise_cons.mpr ⟨putList_keys a v es e.1 h3.1 (by omega), hi.1⟩,
          fun c hc => (List.mem_cons.mp hc).elim (fun h => by simpa [h] using h2 e (by simp)) (fun h => hi.2 c h)⟩

theorem wf_filter (m : Mem) (p : Nat × Byte → Bool) (hm : m.wf = true) : (show Mem from m.filter p).wf = true := by
  rw [wf_iff] at hm ⊢
  exact ⟨hm.1.sublist List.filter_sublist, fun c hc => hm.2 c (List.mem_filter.mp hc).1⟩

theorem wf_drop (m : Mem) (a : Nat) (hm : m.wf = true) : (m.drop a).wf = true := wf_filter m _ hm

theorem wf_write (m : Mem) (a : Nat) (v : Byte) (hm : m.wf = true) : (m.write a v).wf = true := by
  unfold write
  split
  · exact wf_drop m a hm
  · exact wf_putList m a v hm ‹_›

theorem wf_writeBytes (m : Mem) (a : Nat) (bs : List Byte) (hm : m.wf = true) : (m.writeBytes a bs).wf = true := by
  induction bs generalizing m a with
  | nil => exact hm
  | cons b bs ih => exact ih _ _ (wf_write m a b hm)

theorem wf_writeLE (m : Mem) (a n v : Nat) (hm : m.wf = true) : (m.writeLE a n v).wf = true := wf_writeBytes m a _ hm

theorem wf_zeroRange (m : Mem) (a n : Nat) (hm : m.wf = true) : (m.zeroRange a n).wf = true := wf_filter m _ hm

theorem read_zeroRange (m : Mem) (a n b : Nat) :
    (m.zeroRange a n).read b = if a ≤ b ∧ b < a + n then unlisted else m.read b := by
  have h := getList_filter_mem (fun k => !(a ≤ k && k < a + n)) b m
  unfold zeroRange read
  rw [h]
  by_cases h2 : a ≤ b ∧ b < a + n
  · simp [h2]
  · rw [if_neg h2]
    have : (!(decide (a ≤ b) && decide (b < a + n))) = true := by simp; omega
    simp [this]

end Mem
end Sys2Proof.Machine
end

