-- ==== Sys2Proof/Laws/State.lean ====
section
/-!
SUPPORT. What each update of the state leaves and changes: one lemma per field per update, and the reads of a core and of a context
after an update of one.
-/
namespace Sys2Proof.Machine

/-! ### The state -/

@[simp] theorem State.setCore_clusters (s : State) (i : CoreId) (c : Core) : (s.setCore i c).clusters = s.clusters := rfl
@[simp] theorem State.setCore_dies (s : State) (i : CoreId) (c : Core) : (s.setCore i c).dies = s.dies := rfl
@[simp] theorem State.setCore_mod (s : State) (i : CoreId) (c : Core) : (s.setCore i c).mod = s.mod := rfl
@[simp] theorem State.setCore_cur (s : State) (i : CoreId) (c : Core) : (s.setCore i c).cur = s.cur := rfl
@[simp] theorem State.setCore_slot (s : State) (i : CoreId) (c : Core) : (s.setCore i c).slot = s.slot := rfl
@[simp] theorem State.setCore_agenda (s : State) (i : CoreId) (c : Core) : (s.setCore i c).agenda = s.agenda := rfl
@[simp] theorem State.setCore_free (s : State) (i : CoreId) (c : Core) : (s.setCore i c).free = s.free := rfl
@[simp] theorem State.updCore_clusters (s : State) (i : CoreId) (f : Core → Core) : (s.updCore i f).clusters = s.clusters := rfl
@[simp] theorem State.updCore_dies (s : State) (i : CoreId) (f : Core → Core) : (s.updCore i f).dies = s.dies := rfl
@[simp] theorem State.updCore_mod (s : State) (i : CoreId) (f : Core → Core) : (s.updCore i f).mod = s.mod := rfl
@[simp] theorem State.updCore_cur (s : State) (i : CoreId) (f : Core → Core) : (s.updCore i f).cur = s.cur := rfl
@[simp] theorem State.updCore_slot (s : State) (i : CoreId) (f : Core → Core) : (s.updCore i f).slot = s.slot := rfl
@[simp] theorem State.updCore_agenda (s : State) (i : CoreId) (f : Core → Core) : (s.updCore i f).agenda = s.agenda := rfl
@[simp] theorem State.updCore_free (s : State) (i : CoreId) (f : Core → Core) : (s.updCore i f).free = s.free := rfl
@[simp] theorem State.setCluster_cores (s : State) (q : Nat) (c : Cluster) : (s.setCluster q c).cores = s.cores := rfl
@[simp] theorem State.setCluster_dies (s : State) (q : Nat) (c : Cluster) : (s.setCluster q c).dies = s.dies := rfl
@[simp] theorem State.setCluster_mod (s : State) (q : Nat) (c : Cluster) : (s.setCluster q c).mod = s.mod := rfl
@[simp] theorem State.setCluster_cur (s : State) (q : Nat) (c : Cluster) : (s.setCluster q c).cur = s.cur := rfl
@[simp] theorem State.setCluster_slot (s : State) (q : Nat) (c : Cluster) : (s.setCluster q c).slot = s.slot := rfl
@[simp] theorem State.setCluster_agenda (s : State) (q : Nat) (c : Cluster) : (s.setCluster q c).agenda = s.agenda := rfl
@[simp] theorem State.setCluster_free (s : State) (q : Nat) (c : Cluster) : (s.setCluster q c).free = s.free := rfl
@[simp] theorem State.updCluster_cores (s : State) (q : Nat) (f : Cluster → Cluster) : (s.updCluster q f).cores = s.cores := rfl
@[simp] theorem State.updCluster_dies (s : State) (q : Nat) (f : Cluster → Cluster) : (s.updCluster q f).dies = s.dies := rfl
@[simp] theorem State.updCluster_mod (s : State) (q : Nat) (f : Cluster → Cluster) : (s.updCluster q f).mod = s.mod := rfl
@[simp] theorem State.updCluster_cur (s : State) (q : Nat) (f : Cluster → Cluster) : (s.updCluster q f).cur = s.cur := rfl
@[simp] theorem State.updCluster_slot (s : State) (q : Nat) (f : Cluster → Cluster) : (s.updCluster q f).slot = s.slot := rfl
@[simp] theorem State.updCluster_agenda (s : State) (q : Nat) (f : Cluster → Cluster) : (s.updCluster q f).agenda = s.agenda := rfl
@[simp] theorem State.updCluster_free (s : State) (q : Nat) (f : Cluster → Cluster) : (s.updCluster q f).free = s.free := rfl
@[simp] theorem State.setDie_cores (s : State) (d : Nat) (x : Die) : (s.setDie d x).cores = s.cores := rfl
@[simp] theorem State.setDie_clusters (s : State) (d : Nat) (x : Die) : (s.setDie d x).clusters = s.clusters := rfl
@[simp] theorem State.setDie_mod (s : State) (d : Nat) (x : Die) : (s.setDie d x).mod = s.mod := rfl
@[simp] theorem State.setDie_cur (s : State) (d : Nat) (x : Die) : (s.setDie d x).cur = s.cur := rfl
@[simp] theorem State.setDie_slot (s : State) (d : Nat) (x : Die) : (s.setDie d x).slot = s.slot := rfl
@[simp] theorem State.setDie_agenda (s : State) (d : Nat) (x : Die) : (s.setDie d x).agenda = s.agenda := rfl
@[simp] theorem State.setDie_free (s : State) (d : Nat) (x : Die) : (s.setDie d x).free = s.free := rfl
@[simp] theorem State.updDie_cores (s : State) (d : Nat) (f : Die → Die) : (s.updDie d f).cores = s.cores := rfl
@[simp] theorem State.updDie_clusters (s : State) (d : Nat) (f : Die → Die) : (s.updDie d f).clusters = s.clusters := rfl
@[simp] theorem State.updDie_mod (s : State) (d : Nat) (f : Die → Die) : (s.updDie d f).mod = s.mod := rfl
@[simp] theorem State.updDie_cur (s : State) (d : Nat) (f : Die → Die) : (s.updDie d f).cur = s.cur := rfl
@[simp] theorem State.updDie_slot (s : State) (d : Nat) (f : Die → Die) : (s.updDie d f).slot = s.slot := rfl
@[simp] theorem State.updDie_agenda (s : State) (d : Nat) (f : Die → Die) : (s.updDie d f).agenda = s.agenda := rfl
@[simp] theorem State.updDie_free (s : State) (d : Nat) (f : Die → Die) : (s.updDie d f).free = s.free := rfl
@[simp] theorem State.updMod_cores (s : State) (f : Module → Module) : (s.updMod f).cores = s.cores := rfl
@[simp] theorem State.updMod_clusters (s : State) (f : Module → Module) : (s.updMod f).clusters = s.clusters := rfl
@[simp] theorem State.updMod_dies (s : State) (f : Module → Module) : (s.updMod f).dies = s.dies := rfl
@[simp] theorem State.updMod_cur (s : State) (f : Module → Module) : (s.updMod f).cur = s.cur := rfl
@[simp] theorem State.updMod_slot (s : State) (f : Module → Module) : (s.updMod f).slot = s.slot := rfl
@[simp] theorem State.updMod_agenda (s : State) (f : Module → Module) : (s.updMod f).agenda = s.agenda := rfl
@[simp] theorem State.updMod_free (s : State) (f : Module → Module) : (s.updMod f).free = s.free := rfl
@[simp] theorem State.updMod_mod (s : State) (f : Module → Module) : (s.updMod f).mod = f s.mod := rfl
@[simp] theorem State.updMem_cores (s : State) (f : Memory → Memory) : (s.updMem f).cores = s.cores := rfl
@[simp] theorem State.updMem_clusters (s : State) (f : Memory → Memory) : (s.updMem f).clusters = s.clusters := rfl
@[simp] theorem State.updMem_dies (s : State) (f : Memory → Memory) : (s.updMem f).dies = s.dies := rfl
@[simp] theorem State.updMem_cur (s : State) (f : Memory → Memory) : (s.updMem f).cur = s.cur := rfl
@[simp] theorem State.updMem_slot (s : State) (f : Memory → Memory) : (s.updMem f).slot = s.slot := rfl
@[simp] theorem State.updMem_agenda (s : State) (f : Memory → Memory) : (s.updMem f).agenda = s.agenda := rfl
@[simp] theorem State.updMem_free (s : State) (f : Memory → Memory) : (s.updMem f).free = s.free := rfl
@[simp] theorem State.updMem_mem (s : State) (f : Memory → Memory) : (s.updMem f).mod.mem = f s.mod.mem := rfl
@[simp] theorem State.tell_cores (s : State) (i : CoreId) (n : Notice) : (s.tell i n).cores = s.cores := rfl
@[simp] theorem State.tell_dies (s : State) (i : CoreId) (n : Notice) : (s.tell i n).dies = s.dies := rfl
@[simp] theorem State.tell_mod (s : State) (i : CoreId) (n : Notice) : (s.tell i n).mod = s.mod := rfl
@[simp] theorem State.tell_cur (s : State) (i : CoreId) (n : Notice) : (s.tell i n).cur = s.cur := rfl
@[simp] theorem State.tell_slot (s : State) (i : CoreId) (n : Notice) : (s.tell i n).slot = s.slot := rfl
@[simp] theorem State.tell_agenda (s : State) (i : CoreId) (n : Notice) : (s.tell i n).agenda = s.agenda := rfl
@[simp] theorem State.tell_free (s : State) (i : CoreId) (n : Notice) : (s.tell i n).free = s.free := rfl
@[simp] theorem State.takeFree_cores (s : State) : (s.takeFree).cores = s.cores := rfl
@[simp] theorem State.takeFree_clusters (s : State) : (s.takeFree).clusters = s.clusters := rfl
@[simp] theorem State.takeFree_dies (s : State) : (s.takeFree).dies = s.dies := rfl
@[simp] theorem State.takeFree_mod (s : State) : (s.takeFree).mod = s.mod := rfl
@[simp] theorem State.takeFree_cur (s : State) : (s.takeFree).cur = s.cur := rfl
@[simp] theorem State.takeFree_slot (s : State) : (s.takeFree).slot = s.slot := rfl
@[simp] theorem State.takeFree_agenda (s : State) : (s.takeFree).agenda = s.agenda := rfl
@[simp] theorem State.takeFree_free (s : State) : s.takeFree.free = s.free + 1 := rfl
@[simp] theorem State.updMe_clusters (s : State) (f : Ctx → Ctx) : (s.updMe f).clusters = s.clusters := rfl
@[simp] theorem State.updMe_dies (s : State) (f : Ctx → Ctx) : (s.updMe f).dies = s.dies := rfl
@[simp] theorem State.updMe_mod (s : State) (f : Ctx → Ctx) : (s.updMe f).mod = s.mod := rfl
@[simp] theorem State.updMe_cur (s : State) (f : Ctx → Ctx) : (s.updMe f).cur = s.cur := rfl
@[simp] theorem State.updMe_slot (s : State) (f : Ctx → Ctx) : (s.updMe f).slot = s.slot := rfl
@[simp] theorem State.updMe_agenda (s : State) (f : Ctx → Ctx) : (s.updMe f).agenda = s.agenda := rfl
@[simp] theorem State.updMe_free (s : State) (f : Ctx → Ctx) : (s.updMe f).free = s.free := rfl
@[simp] theorem State.updHere_clusters (s : State) (f : Core → Core) : (s.updHere f).clusters = s.clusters := rfl
@[simp] theorem State.updHere_dies (s : State) (f : Core → Core) : (s.updHere f).dies = s.dies := rfl
@[simp] theorem State.updHere_mod (s : State) (f : Core → Core) : (s.updHere f).mod = s.mod := rfl
@[simp] theorem State.updHere_cur (s : State) (f : Core → Core) : (s.updHere f).cur = s.cur := rfl
@[simp] theorem State.updHere_slot (s : State) (f : Core → Core) : (s.updHere f).slot = s.slot := rfl
@[simp] theorem State.updHere_agenda (s : State) (f : Core → Core) : (s.updHere f).agenda = s.agenda := rfl
@[simp] theorem State.updHere_free (s : State) (f : Core → Core) : (s.updHere f).free = s.free := rfl
@[simp] theorem State.advance_clusters (s : State) (n : Nat) : (s.advance n).clusters = s.clusters := rfl
@[simp] theorem State.advance_dies (s : State) (n : Nat) : (s.advance n).dies = s.dies := rfl
@[simp] theorem State.advance_mod (s : State) (n : Nat) : (s.advance n).mod = s.mod := rfl
@[simp] theorem State.advance_cur (s : State) (n : Nat) : (s.advance n).cur = s.cur := rfl
@[simp] theorem State.advance_slot (s : State) (n : Nat) : (s.advance n).slot = s.slot := rfl
@[simp] theorem State.advance_agenda (s : State) (n : Nat) : (s.advance n).agenda = s.agenda := rfl
@[simp] theorem State.advance_free (s : State) (n : Nat) : (s.advance n).free = s.free := rfl
@[simp] theorem State.jump_clusters (s : State) (t : Word) : (s.jump t).clusters = s.clusters := rfl
@[simp] theorem State.jump_dies (s : State) (t : Word) : (s.jump t).dies = s.dies := rfl
@[simp] theorem State.jump_mod (s : State) (t : Word) : (s.jump t).mod = s.mod := rfl
@[simp] theorem State.jump_cur (s : State) (t : Word) : (s.jump t).cur = s.cur := rfl
@[simp] theorem State.jump_slot (s : State) (t : Word) : (s.jump t).slot = s.slot := rfl
@[simp] theorem State.jump_agenda (s : State) (t : Word) : (s.jump t).agenda = s.agenda := rfl
@[simp] theorem State.jump_free (s : State) (t : Word) : (s.jump t).free = s.free := rfl

/-! ### Cores, contexts, clusters and dies read after an update -/

theorem State.core_setCore (s : State) (i j : CoreId) (c : Core) :
    (s.setCore i c).core j = if j = i then c else s.core j := Tab.get_set ..
@[simp] theorem State.core_setCore_same (s : State) (i : CoreId) (c : Core) : (s.setCore i c).core i = c := by
  simp [State.core_setCore]
theorem State.core_setCore_ne (s : State) {i j : CoreId} (c : Core) (h : j ≠ i) : (s.setCore i c).core j = s.core j := by
  simp [State.core_setCore, h]
theorem State.core_updCore (s : State) (i j : CoreId) (f : Core → Core) :
    (s.updCore i f).core j = if j = i then f (s.core i) else s.core j := Tab.get_set ..
@[simp] theorem State.core_updCore_same (s : State) (i : CoreId) (f : Core → Core) :
    (s.updCore i f).core i = f (s.core i) := by simp [State.core_updCore]
@[simp] theorem State.here_setCore (s : State) (c : Core) : (s.setCore s.cur c).here = c := by simp [State.here]
@[simp] theorem State.here_updHere (s : State) (f : Core → Core) : (s.updHere f).here = f s.here := by
  simp [State.here, State.updHere]
@[simp] theorem State.here_updMe (s : State) (f : Ctx → Ctx) : (s.updMe f).here = s.here.updCtx s.slot f := by
  simp [State.here, State.updMe]
@[simp] theorem Core.ctx_setCtx_same (c : Core) (k : Nat) (x : Ctx) : (c.setCtx k x).ctx k = x := Tab.get_set_same ..
theorem Core.ctx_setCtx (c : Core) (k j : Nat) (x : Ctx) : (c.setCtx k x).ctx j = if j = k then x else c.ctx j :=
  Tab.get_set ..
@[simp] theorem Core.ctx_updCtx_same (c : Core) (k : Nat) (f : Ctx → Ctx) : (c.updCtx k f).ctx k = f (c.ctx k) :=
  Tab.get_set_same ..
theorem Core.ctx_updCtx (c : Core) (k j : Nat) (f : Ctx → Ctx) : (c.updCtx k f).ctx j = if j = k then f (c.ctx k) else c.ctx j :=
  Tab.get_set ..
@[simp] theorem State.me_updMe (s : State) (f : Ctx → Ctx) : (s.updMe f).me = f s.me := by simp [State.me]
@[simp] theorem State.me_setCore (s : State) (c : Core) : (s.setCore s.cur c).me = c.ctx s.slot := by simp [State.me]
theorem State.core_updMe (s : State) (f : Ctx → Ctx) (j : CoreId) (h : j ≠ s.cur) : (s.updMe f).core j = s.core j := by
  simp [State.updMe, State.core_updCore, h]
@[simp] theorem State.me_advance (s : State) (n : Nat) :
    (s.advance n).me = { s.me with pc := s.me.pc + BitVec.ofNat 64 n, wait := none, held := none, heldOn := none, declared := none } := by
  simp [State.advance]
@[simp] theorem State.me_jump (s : State) (t : Word) :
    (s.jump t).me = { s.me with pc := t, wait := none, held := none, heldOn := none, declared := none } := by
  simp [State.jump]
@[simp] theorem State.setCore_setCore (s : State) (i : CoreId) (c d : Core) : (s.setCore i c).setCore i d = s.setCore i d := by
  simp [State.setCore, Tab.set_set]
@[simp] theorem Core.setCtx_setCtx (c : Core) (k : Nat) (x y : Ctx) : (c.setCtx k x).setCtx k y = c.setCtx k y := by
  simp [Core.setCtx, Tab.set_set]
theorem State.cluster_setCluster (s : State) (q j : Nat) (c : Cluster) :
    (s.setCluster q c).cluster j = if j = q then c else s.cluster j := Tab.get_set ..
theorem State.cluster_updCluster (s : State) (q j : Nat) (f : Cluster → Cluster) :
    (s.updCluster q f).cluster j = if j = q then f (s.cluster q) else s.cluster j := Tab.get_set ..
@[simp] theorem State.cluster_updCluster_same (s : State) (q : Nat) (f : Cluster → Cluster) :
    (s.updCluster q f).cluster q = f (s.cluster q) := by simp [State.cluster_updCluster]
theorem State.die_updDie (s : State) (d j : Nat) (f : Die → Die) :
    (s.updDie d f).die j = if j = d then f (s.die d) else s.die j := Tab.get_set ..
@[simp] theorem State.die_updDie_same (s : State) (d : Nat) (f : Die → Die) : (s.updDie d f).die d = f (s.die d) := by
  simp [State.die_updDie]
@[simp] theorem State.core_updCluster (s : State) (q : Nat) (f : Cluster → Cluster) (j : CoreId) :
    (s.updCluster q f).core j = s.core j := rfl
@[simp] theorem State.core_updDie (s : State) (d : Nat) (f : Die → Die) (j : CoreId) : (s.updDie d f).core j = s.core j := rfl
@[simp] theorem State.core_updMod (s : State) (f : Module → Module) (j : CoreId) : (s.updMod f).core j = s.core j := rfl
@[simp] theorem State.core_updMem (s : State) (f : Memory → Memory) (j : CoreId) : (s.updMem f).core j = s.core j := rfl
@[simp] theorem State.cluster_updCore (s : State) (i : CoreId) (f : Core → Core) (q : Nat) :
    (s.updCore i f).cluster q = s.cluster q := rfl
@[simp] theorem State.cluster_setCore (s : State) (i : CoreId) (c : Core) (q : Nat) : (s.setCore i c).cluster q = s.cluster q := rfl
@[simp] theorem State.cluster_updMe (s : State) (f : Ctx → Ctx) (q : Nat) : (s.updMe f).cluster q = s.cluster q := rfl
@[simp] theorem State.die_updCore (s : State) (i : CoreId) (f : Core → Core) (d : Nat) : (s.updCore i f).die d = s.die d := rfl
@[simp] theorem State.die_setCore (s : State) (i : CoreId) (c : Core) (d : Nat) : (s.setCore i c).die d = s.die d := rfl

/-! ### A core -/

@[simp] theorem Core.setCtx_run (c : Core) (k : Nat) (x : Ctx) : (c.setCtx k x).run = c.run := rfl
@[simp] theorem Core.setCtx_code (c : Core) (k : Nat) (x : Ctx) : (c.setCtx k x).code = c.code := rfl
@[simp] theorem Core.setCtx_codeLen (c : Core) (k : Nat) (x : Ctx) : (c.setCtx k x).codeLen = c.codeLen := rfl
@[simp] theorem Core.setCtx_ending (c : Core) (k : Nat) (x : Ctx) : (c.setCtx k x).ending = c.ending := rfl
@[simp] theorem Core.setCtx_un (c : Core) (k : Nat) (x : Ctx) : (c.setCtx k x).un = c.un := rfl
@[simp] theorem Core.setCtx_sp (c : Core) (k : Nat) (x : Ctx) : (c.setCtx k x).sp = c.sp := rfl
@[simp] theorem Core.setCtx_en (c : Core) (k : Nat) (x : Ctx) : (c.setCtx k x).en = c.en := rfl
@[simp] theorem Core.setCtx_li (c : Core) (k : Nat) (x : Ctx) : (c.setCtx k x).li = c.li := rfl
@[simp] theorem Core.updCtx_run (c : Core) (k : Nat) (f : Ctx → Ctx) : (c.updCtx k f).run = c.run := rfl
@[simp] theorem Core.updCtx_code (c : Core) (k : Nat) (f : Ctx → Ctx) : (c.updCtx k f).code = c.code := rfl
@[simp] theorem Core.updCtx_codeLen (c : Core) (k : Nat) (f : Ctx → Ctx) : (c.updCtx k f).codeLen = c.codeLen := rfl
@[simp] theorem Core.updCtx_ending (c : Core) (k : Nat) (f : Ctx → Ctx) : (c.updCtx k f).ending = c.ending := rfl
@[simp] theorem Core.updCtx_un (c : Core) (k : Nat) (f : Ctx → Ctx) : (c.updCtx k f).un = c.un := rfl
@[simp] theorem Core.updCtx_sp (c : Core) (k : Nat) (f : Ctx → Ctx) : (c.updCtx k f).sp = c.sp := rfl
@[simp] theorem Core.updCtx_en (c : Core) (k : Nat) (f : Ctx → Ctx) : (c.updCtx k f).en = c.en := rfl
@[simp] theorem Core.updCtx_li (c : Core) (k : Nat) (f : Ctx → Ctx) : (c.updCtx k f).li = c.li := rfl
@[simp] theorem Core.updSp_run (c : Core) (f : Spad → Spad) : (c.updSp f).run = c.run := rfl
@[simp] theorem Core.updSp_code (c : Core) (f : Spad → Spad) : (c.updSp f).code = c.code := rfl
@[simp] theorem Core.updSp_codeLen (c : Core) (f : Spad → Spad) : (c.updSp f).codeLen = c.codeLen := rfl
@[simp] theorem Core.updSp_ending (c : Core) (f : Spad → Spad) : (c.updSp f).ending = c.ending := rfl
@[simp] theorem Core.updSp_bar (c : Core) (f : Spad → Spad) : (c.updSp f).bar = c.bar := rfl
@[simp] theorem Core.updSp_un (c : Core) (f : Spad → Spad) : (c.updSp f).un = c.un := rfl
@[simp] theorem Core.updSp_sp (c : Core) (f : Spad → Spad) : (c.updSp f).sp = f c.sp := rfl
@[simp] theorem Core.updSp_en (c : Core) (f : Spad → Spad) : (c.updSp f).en = c.en := rfl
@[simp] theorem Core.updSp_li (c : Core) (f : Spad → Spad) : (c.updSp f).li = c.li := rfl
@[simp] theorem Core.updEn_run (c : Core) (f : Engines → Engines) : (c.updEn f).run = c.run := rfl
@[simp] theorem Core.updEn_code (c : Core) (f : Engines → Engines) : (c.updEn f).code = c.code := rfl
@[simp] theorem Core.updEn_codeLen (c : Core) (f : Engines → Engines) : (c.updEn f).codeLen = c.codeLen := rfl
@[simp] theorem Core.updEn_ending (c : Core) (f : Engines → Engines) : (c.updEn f).ending = c.ending := rfl
@[simp] theorem Core.updEn_bar (c : Core) (f : Engines → Engines) : (c.updEn f).bar = c.bar := rfl
@[simp] theorem Core.updEn_un (c : Core) (f : Engines → Engines) : (c.updEn f).un = c.un := rfl
@[simp] theorem Core.updEn_sp (c : Core) (f : Engines → Engines) : (c.updEn f).sp = c.sp := rfl
@[simp] theorem Core.updEn_en (c : Core) (f : Engines → Engines) : (c.updEn f).en = f c.en := rfl
@[simp] theorem Core.updEn_li (c : Core) (f : Engines → Engines) : (c.updEn f).li = c.li := rfl
@[simp] theorem Core.updLi_run (c : Core) (f : Links → Links) : (c.updLi f).run = c.run := rfl
@[simp] theorem Core.updLi_code (c : Core) (f : Links → Links) : (c.updLi f).code = c.code := rfl
@[simp] theorem Core.updLi_codeLen (c : Core) (f : Links → Links) : (c.updLi f).codeLen = c.codeLen := rfl
@[simp] theorem Core.updLi_ending (c : Core) (f : Links → Links) : (c.updLi f).ending = c.ending := rfl
@[simp] theorem Core.updLi_bar (c : Core) (f : Links → Links) : (c.updLi f).bar = c.bar := rfl
@[simp] theorem Core.updLi_un (c : Core) (f : Links → Links) : (c.updLi f).un = c.un := rfl
@[simp] theorem Core.updLi_sp (c : Core) (f : Links → Links) : (c.updLi f).sp = c.sp := rfl
@[simp] theorem Core.updLi_en (c : Core) (f : Links → Links) : (c.updLi f).en = c.en := rfl
@[simp] theorem Core.updLi_li (c : Core) (f : Links → Links) : (c.updLi f).li = f c.li := rfl
@[simp] theorem Core.updBar_run (c : Core) (f : Barrel → Barrel) : (c.updBar f).run = c.run := rfl
@[simp] theorem Core.updBar_code (c : Core) (f : Barrel → Barrel) : (c.updBar f).code = c.code := rfl
@[simp] theorem Core.updBar_codeLen (c : Core) (f : Barrel → Barrel) : (c.updBar f).codeLen = c.codeLen := rfl
@[simp] theorem Core.updBar_ending (c : Core) (f : Barrel → Barrel) : (c.updBar f).ending = c.ending := rfl
@[simp] theorem Core.updBar_bar (c : Core) (f : Barrel → Barrel) : (c.updBar f).bar = f c.bar := rfl
@[simp] theorem Core.updBar_un (c : Core) (f : Barrel → Barrel) : (c.updBar f).un = c.un := rfl
@[simp] theorem Core.updBar_sp (c : Core) (f : Barrel → Barrel) : (c.updBar f).sp = c.sp := rfl
@[simp] theorem Core.updBar_en (c : Core) (f : Barrel → Barrel) : (c.updBar f).en = c.en := rfl
@[simp] theorem Core.updBar_li (c : Core) (f : Barrel → Barrel) : (c.updBar f).li = c.li := rfl
@[simp] theorem Core.updUn_run (c : Core) (f : Units → Units) : (c.updUn f).run = c.run := rfl
@[simp] theorem Core.updUn_code (c : Core) (f : Units → Units) : (c.updUn f).code = c.code := rfl
@[simp] theorem Core.updUn_codeLen (c : Core) (f : Units → Units) : (c.updUn f).codeLen = c.codeLen := rfl
@[simp] theorem Core.updUn_ending (c : Core) (f : Units → Units) : (c.updUn f).ending = c.ending := rfl
@[simp] theorem Core.updUn_bar (c : Core) (f : Units → Units) : (c.updUn f).bar = c.bar := rfl
@[simp] theorem Core.updUn_un (c : Core) (f : Units → Units) : (c.updUn f).un = f c.un := rfl
@[simp] theorem Core.updUn_sp (c : Core) (f : Units → Units) : (c.updUn f).sp = c.sp := rfl
@[simp] theorem Core.updUn_en (c : Core) (f : Units → Units) : (c.updUn f).en = c.en := rfl
@[simp] theorem Core.updUn_li (c : Core) (f : Units → Units) : (c.updUn f).li = c.li := rfl
@[simp] theorem Core.wphys_run (c : Core) (n : Nat) (v : VReg) : (c.wphys n v).run = c.run := rfl
@[simp] theorem Core.wphys_code (c : Core) (n : Nat) (v : VReg) : (c.wphys n v).code = c.code := rfl
@[simp] theorem Core.wphys_codeLen (c : Core) (n : Nat) (v : VReg) : (c.wphys n v).codeLen = c.codeLen := rfl
@[simp] theorem Core.wphys_ending (c : Core) (n : Nat) (v : VReg) : (c.wphys n v).ending = c.ending := rfl
@[simp] theorem Core.wphys_bar (c : Core) (n : Nat) (v : VReg) : (c.wphys n v).bar = c.bar := rfl
@[simp] theorem Core.wphys_sp (c : Core) (n : Nat) (v : VReg) : (c.wphys n v).sp = c.sp := rfl
@[simp] theorem Core.wphys_en (c : Core) (n : Nat) (v : VReg) : (c.wphys n v).en = c.en := rfl
@[simp] theorem Core.wphys_li (c : Core) (n : Nat) (v : VReg) : (c.wphys n v).li = c.li := rfl
@[simp] theorem Core.wv_run (c : Core) (k n : Nat) (v : VReg) : (c.wv k n v).run = c.run := rfl
@[simp] theorem Core.wv_code (c : Core) (k n : Nat) (v : VReg) : (c.wv k n v).code = c.code := rfl
@[simp] theorem Core.wv_codeLen (c : Core) (k n : Nat) (v : VReg) : (c.wv k n v).codeLen = c.codeLen := rfl
@[simp] theorem Core.wv_ending (c : Core) (k n : Nat) (v : VReg) : (c.wv k n v).ending = c.ending := rfl
@[simp] theorem Core.wv_bar (c : Core) (k n : Nat) (v : VReg) : (c.wv k n v).bar = c.bar := rfl
@[simp] theorem Core.wv_sp (c : Core) (k n : Nat) (v : VReg) : (c.wv k n v).sp = c.sp := rfl
@[simp] theorem Core.wv_en (c : Core) (k n : Nat) (v : VReg) : (c.wv k n v).en = c.en := rfl
@[simp] theorem Core.wv_li (c : Core) (k n : Nat) (v : VReg) : (c.wv k n v).li = c.li := rfl
@[simp] theorem Core.release_run (c : Core) (k : Nat) : (c.release k).run = c.run := rfl
@[simp] theorem Core.release_code (c : Core) (k : Nat) : (c.release k).code = c.code := rfl
@[simp] theorem Core.release_codeLen (c : Core) (k : Nat) : (c.release k).codeLen = c.codeLen := rfl
@[simp] theorem Core.release_ending (c : Core) (k : Nat) : (c.release k).ending = c.ending := rfl
@[simp] theorem Core.release_bar (c : Core) (k : Nat) : (c.release k).bar = c.bar := rfl
@[simp] theorem Core.release_un (c : Core) (k : Nat) : (c.release k).un = c.un := rfl
@[simp] theorem Core.release_en (c : Core) (k : Nat) : (c.release k).en = c.en := rfl
@[simp] theorem Core.release_li (c : Core) (k : Nat) : (c.release k).li = c.li := rfl
@[simp] theorem Core.acquire_run (c : Core) (k : Nat) (r : Row) : (c.acquire k r).run = c.run := rfl
@[simp] theorem Core.acquire_code (c : Core) (k : Nat) (r : Row) : (c.acquire k r).code = c.code := rfl
@[simp] theorem Core.acquire_codeLen (c : Core) (k : Nat) (r : Row) : (c.acquire k r).codeLen = c.codeLen := rfl
@[simp] theorem Core.acquire_ending (c : Core) (k : Nat) (r : Row) : (c.acquire k r).ending = c.ending := rfl
@[simp] theorem Core.acquire_bar (c : Core) (k : Nat) (r : Row) : (c.acquire k r).bar = c.bar := rfl
@[simp] theorem Core.acquire_un (c : Core) (k : Nat) (r : Row) : (c.acquire k r).un = c.un := rfl
@[simp] theorem Core.acquire_en (c : Core) (k : Nat) (r : Row) : (c.acquire k r).en = c.en := rfl
@[simp] theorem Core.acquire_li (c : Core) (k : Nat) (r : Row) : (c.acquire k r).li = c.li := rfl
@[simp] theorem Core.setHandle_run (c : Core) (h : Nat) (x : Handle) : (c.setHandle h x).run = c.run := rfl
@[simp] theorem Core.setHandle_code (c : Core) (h : Nat) (x : Handle) : (c.setHandle h x).code = c.code := rfl
@[simp] theorem Core.setHandle_codeLen (c : Core) (h : Nat) (x : Handle) : (c.setHandle h x).codeLen = c.codeLen := rfl
@[simp] theorem Core.setHandle_ending (c : Core) (h : Nat) (x : Handle) : (c.setHandle h x).ending = c.ending := rfl
@[simp] theorem Core.setHandle_un (c : Core) (h : Nat) (x : Handle) : (c.setHandle h x).un = c.un := rfl
@[simp] theorem Core.setHandle_en (c : Core) (h : Nat) (x : Handle) : (c.setHandle h x).en = c.en := rfl
@[simp] theorem Core.setHandle_li (c : Core) (h : Nat) (x : Handle) : (c.setHandle h x).li = c.li := rfl
@[simp] theorem Core.updSp_ctx (c : Core) (f : Spad → Spad) (j : Nat) : (c.updSp f).ctx j = c.ctx j := rfl
@[simp] theorem Core.updEn_ctx (c : Core) (f : Engines → Engines) (j : Nat) : (c.updEn f).ctx j = c.ctx j := rfl
@[simp] theorem Core.updLi_ctx (c : Core) (f : Links → Links) (j : Nat) : (c.updLi f).ctx j = c.ctx j := rfl
@[simp] theorem Core.updUn_ctx (c : Core) (f : Units → Units) (j : Nat) : (c.updUn f).ctx j = c.ctx j := rfl
@[simp] theorem Core.wphys_ctx (c : Core) (n : Nat) (v : VReg) (j : Nat) : (c.wphys n v).ctx j = c.ctx j := rfl
@[simp] theorem Core.wv_ctx (c : Core) (k n : Nat) (v : VReg) (j : Nat) : (c.wv k n v).ctx j = c.ctx j := rfl
@[simp] theorem Core.release_ctx (c : Core) (k : Nat) (j : Nat) : (c.release k).ctx j = c.ctx j := rfl
@[simp] theorem Core.acquire_ctx (c : Core) (k : Nat) (r : Row) (j : Nat) : (c.acquire k r).ctx j = c.ctx j := rfl
@[simp] theorem Core.setCtx_bar_last (c : Core) (k : Nat) (x : Ctx) : (c.setCtx k x).bar.last = c.bar.last := rfl
@[simp] theorem Core.updCtx_bar_last (c : Core) (k : Nat) (f : Ctx → Ctx) : (c.updCtx k f).bar.last = c.bar.last := rfl
@[simp] theorem Core.setCtx_bar_forks (c : Core) (k : Nat) (x : Ctx) : (c.setCtx k x).bar.forks = c.bar.forks := rfl
@[simp] theorem Core.updCtx_bar_forks (c : Core) (k : Nat) (f : Ctx → Ctx) : (c.updCtx k f).bar.forks = c.bar.forks := rfl
@[simp] theorem Core.setCtx_bar_jcnt (c : Core) (k : Nat) (x : Ctx) : (c.setCtx k x).bar.jcnt = c.bar.jcnt := rfl
@[simp] theorem Core.updCtx_bar_jcnt (c : Core) (k : Nat) (f : Ctx → Ctx) : (c.updCtx k f).bar.jcnt = c.bar.jcnt := rfl
@[simp] theorem Core.setCtx_bar_jrel (c : Core) (k : Nat) (x : Ctx) : (c.setCtx k x).bar.jrel = c.bar.jrel := rfl
@[simp] theorem Core.updCtx_bar_jrel (c : Core) (k : Nat) (f : Ctx → Ctx) : (c.updCtx k f).bar.jrel = c.bar.jrel := rfl
@[simp] theorem Core.setCtx_bar_wdlim (c : Core) (k : Nat) (x : Ctx) : (c.setCtx k x).bar.wdlim = c.bar.wdlim := rfl
@[simp] theorem Core.updCtx_bar_wdlim (c : Core) (k : Nat) (f : Ctx → Ctx) : (c.updCtx k f).bar.wdlim = c.bar.wdlim := rfl
@[simp] theorem Core.setCtx_bar_cycle (c : Core) (k : Nat) (x : Ctx) : (c.setCtx k x).bar.cycle = c.bar.cycle := rfl
@[simp] theorem Core.updCtx_bar_cycle (c : Core) (k : Nat) (f : Ctx → Ctx) : (c.updCtx k f).bar.cycle = c.bar.cycle := rfl
@[simp] theorem Core.setCtx_bar_amtab (c : Core) (k : Nat) (x : Ctx) : (c.setCtx k x).bar.amtab = c.bar.amtab := rfl
@[simp] theorem Core.updCtx_bar_amtab (c : Core) (k : Nat) (f : Ctx → Ctx) : (c.updCtx k f).bar.amtab = c.bar.amtab := rfl

/-! ### A context -/

@[simp] theorem Ctx.wg_live (x : Ctx) (r : Nat) (v : Word) : (x.wg r v).live = x.live := by unfold Ctx.wg; split <;> rfl
@[simp] theorem Ctx.wg_pc (x : Ctx) (r : Nat) (v : Word) : (x.wg r v).pc = x.pc := by unfold Ctx.wg; split <;> rfl
@[simp] theorem Ctx.wg_p (x : Ctx) (r : Nat) (v : Word) : (x.wg r v).p = x.p := by unfold Ctx.wg; split <;> rfl
@[simp] theorem Ctx.wg_k (x : Ctx) (r : Nat) (v : Word) : (x.wg r v).k = x.k := by unfold Ctx.wg; split <;> rfl
@[simp] theorem Ctx.wg_winV (x : Ctx) (r : Nat) (v : Word) : (x.wg r v).winV = x.winV := by unfold Ctx.wg; split <;> rfl
@[simp] theorem Ctx.wg_winSize (x : Ctx) (r : Nat) (v : Word) : (x.wg r v).winSize = x.winSize := by unfold Ctx.wg; split <;> rfl
@[simp] theorem Ctx.wg_winBase (x : Ctx) (r : Nat) (v : Word) : (x.wg r v).winBase = x.winBase := by unfold Ctx.wg; split <;> rfl
@[simp] theorem Ctx.wg_fmode (x : Ctx) (r : Nat) (v : Word) : (x.wg r v).fmode = x.fmode := by unfold Ctx.wg; split <;> rfl
@[simp] theorem Ctx.wg_tvec (x : Ctx) (r : Nat) (v : Word) : (x.wg r v).tvec = x.tvec := by unfold Ctx.wg; split <;> rfl
@[simp] theorem Ctx.wg_epc (x : Ctx) (r : Nat) (v : Word) : (x.wg r v).epc = x.epc := by unfold Ctx.wg; split <;> rfl
@[simp] theorem Ctx.wg_ecause (x : Ctx) (r : Nat) (v : Word) : (x.wg r v).ecause = x.ecause := by unfold Ctx.wg; split <;> rfl
@[simp] theorem Ctx.wg_eval (x : Ctx) (r : Nat) (v : Word) : (x.wg r v).eval = x.eval := by unfold Ctx.wg; split <;> rfl
@[simp] theorem Ctx.wg_wdcnt (x : Ctx) (r : Nat) (v : Word) : (x.wg r v).wdcnt = x.wdcnt := by unfold Ctx.wg; split <;> rfl
@[simp] theorem Ctx.wg_rotSel (x : Ctx) (r : Nat) (v : Word) : (x.wg r v).rotSel = x.rotSel := by unfold Ctx.wg; split <;> rfl
@[simp] theorem Ctx.wg_cdSel (x : Ctx) (r : Nat) (v : Word) : (x.wg r v).cdSel = x.cdSel := by unfold Ctx.wg; split <;> rfl
@[simp] theorem Ctx.wg_wait (x : Ctx) (r : Nat) (v : Word) : (x.wg r v).wait = x.wait := by unfold Ctx.wg; split <;> rfl
@[simp] theorem Ctx.wg_held (x : Ctx) (r : Nat) (v : Word) : (x.wg r v).held = x.held := by unfold Ctx.wg; split <;> rfl
@[simp] theorem Ctx.wg_heldOn (x : Ctx) (r : Nat) (v : Word) : (x.wg r v).heldOn = x.heldOn := by unfold Ctx.wg; split <;> rfl
@[simp] theorem Ctx.wg_declared (x : Ctx) (r : Nat) (v : Word) : (x.wg r v).declared = x.declared := by unfold Ctx.wg; split <;> rfl
@[simp] theorem Ctx.wg_dbgHalt (x : Ctx) (r : Nat) (v : Word) : (x.wg r v).dbgHalt = x.dbgHalt := by unfold Ctx.wg; split <;> rfl
@[simp] theorem Ctx.wp_live (x : Ctx) (r : Nat) (v : Bool) : (x.wp r v).live = x.live := by unfold Ctx.wp; split <;> rfl
@[simp] theorem Ctx.wp_pc (x : Ctx) (r : Nat) (v : Bool) : (x.wp r v).pc = x.pc := by unfold Ctx.wp; split <;> rfl
@[simp] theorem Ctx.wp_g (x : Ctx) (r : Nat) (v : Bool) : (x.wp r v).g = x.g := by unfold Ctx.wp; split <;> rfl
@[simp] theorem Ctx.wp_k (x : Ctx) (r : Nat) (v : Bool) : (x.wp r v).k = x.k := by unfold Ctx.wp; split <;> rfl
@[simp] theorem Ctx.wp_winV (x : Ctx) (r : Nat) (v : Bool) : (x.wp r v).winV = x.winV := by unfold Ctx.wp; split <;> rfl
@[simp] theorem Ctx.wp_winSize (x : Ctx) (r : Nat) (v : Bool) : (x.wp r v).winSize = x.winSize := by unfold Ctx.wp; split <;> rfl
@[simp] theorem Ctx.wp_winBase (x : Ctx) (r : Nat) (v : Bool) : (x.wp r v).winBase = x.winBase := by unfold Ctx.wp; split <;> rfl
@[simp] theorem Ctx.wp_fmode (x : Ctx) (r : Nat) (v : Bool) : (x.wp r v).fmode = x.fmode := by unfold Ctx.wp; split <;> rfl
@[simp] theorem Ctx.wp_tvec (x : Ctx) (r : Nat) (v : Bool) : (x.wp r v).tvec = x.tvec := by unfold Ctx.wp; split <;> rfl
@[simp] theorem Ctx.wp_epc (x : Ctx) (r : Nat) (v : Bool) : (x.wp r v).epc = x.epc := by unfold Ctx.wp; split <;> rfl
@[simp] theorem Ctx.wp_ecause (x : Ctx) (r : Nat) (v : Bool) : (x.wp r v).ecause = x.ecause := by unfold Ctx.wp; split <;> rfl
@[simp] theorem Ctx.wp_eval (x : Ctx) (r : Nat) (v : Bool) : (x.wp r v).eval = x.eval := by unfold Ctx.wp; split <;> rfl
@[simp] theorem Ctx.wp_wdcnt (x : Ctx) (r : Nat) (v : Bool) : (x.wp r v).wdcnt = x.wdcnt := by unfold Ctx.wp; split <;> rfl
@[simp] theorem Ctx.wp_rotSel (x : Ctx) (r : Nat) (v : Bool) : (x.wp r v).rotSel = x.rotSel := by unfold Ctx.wp; split <;> rfl
@[simp] theorem Ctx.wp_cdSel (x : Ctx) (r : Nat) (v : Bool) : (x.wp r v).cdSel = x.cdSel := by unfold Ctx.wp; split <;> rfl
@[simp] theorem Ctx.wp_wait (x : Ctx) (r : Nat) (v : Bool) : (x.wp r v).wait = x.wait := by unfold Ctx.wp; split <;> rfl
@[simp] theorem Ctx.wp_held (x : Ctx) (r : Nat) (v : Bool) : (x.wp r v).held = x.held := by unfold Ctx.wp; split <;> rfl
@[simp] theorem Ctx.wp_heldOn (x : Ctx) (r : Nat) (v : Bool) : (x.wp r v).heldOn = x.heldOn := by unfold Ctx.wp; split <;> rfl
@[simp] theorem Ctx.wp_declared (x : Ctx) (r : Nat) (v : Bool) : (x.wp r v).declared = x.declared := by unfold Ctx.wp; split <;> rfl
@[simp] theorem Ctx.wp_dbgHalt (x : Ctx) (r : Nat) (v : Bool) : (x.wp r v).dbgHalt = x.dbgHalt := by unfold Ctx.wp; split <;> rfl
@[simp] theorem Ctx.wk_live (x : Ctx) (r : Nat) (v : Lane) : (x.wk r v).live = x.live := by unfold Ctx.wk; split <;> rfl
@[simp] theorem Ctx.wk_pc (x : Ctx) (r : Nat) (v : Lane) : (x.wk r v).pc = x.pc := by unfold Ctx.wk; split <;> rfl
@[simp] theorem Ctx.wk_g (x : Ctx) (r : Nat) (v : Lane) : (x.wk r v).g = x.g := by unfold Ctx.wk; split <;> rfl
@[simp] theorem Ctx.wk_p (x : Ctx) (r : Nat) (v : Lane) : (x.wk r v).p = x.p := by unfold Ctx.wk; split <;> rfl
@[simp] theorem Ctx.wk_winV (x : Ctx) (r : Nat) (v : Lane) : (x.wk r v).winV = x.winV := by unfold Ctx.wk; split <;> rfl
@[simp] theorem Ctx.wk_winSize (x : Ctx) (r : Nat) (v : Lane) : (x.wk r v).winSize = x.winSize := by unfold Ctx.wk; split <;> rfl
@[simp] theorem Ctx.wk_winBase (x : Ctx) (r : Nat) (v : Lane) : (x.wk r v).winBase = x.winBase := by unfold Ctx.wk; split <;> rfl
@[simp] theorem Ctx.wk_fmode (x : Ctx) (r : Nat) (v : Lane) : (x.wk r v).fmode = x.fmode := by unfold Ctx.wk; split <;> rfl
@[simp] theorem Ctx.wk_tvec (x : Ctx) (r : Nat) (v : Lane) : (x.wk r v).tvec = x.tvec := by unfold Ctx.wk; split <;> rfl
@[simp] theorem Ctx.wk_epc (x : Ctx) (r : Nat) (v : Lane) : (x.wk r v).epc = x.epc := by unfold Ctx.wk; split <;> rfl
@[simp] theorem Ctx.wk_ecause (x : Ctx) (r : Nat) (v : Lane) : (x.wk r v).ecause = x.ecause := by unfold Ctx.wk; split <;> rfl
@[simp] theorem Ctx.wk_eval (x : Ctx) (r : Nat) (v : Lane) : (x.wk r v).eval = x.eval := by unfold Ctx.wk; split <;> rfl
@[simp] theorem Ctx.wk_wdcnt (x : Ctx) (r : Nat) (v : Lane) : (x.wk r v).wdcnt = x.wdcnt := by unfold Ctx.wk; split <;> rfl
@[simp] theorem Ctx.wk_rotSel (x : Ctx) (r : Nat) (v : Lane) : (x.wk r v).rotSel = x.rotSel := by unfold Ctx.wk; split <;> rfl
@[simp] theorem Ctx.wk_cdSel (x : Ctx) (r : Nat) (v : Lane) : (x.wk r v).cdSel = x.cdSel := by unfold Ctx.wk; split <;> rfl
@[simp] theorem Ctx.wk_wait (x : Ctx) (r : Nat) (v : Lane) : (x.wk r v).wait = x.wait := by unfold Ctx.wk; split <;> rfl
@[simp] theorem Ctx.wk_held (x : Ctx) (r : Nat) (v : Lane) : (x.wk r v).held = x.held := by unfold Ctx.wk; split <;> rfl
@[simp] theorem Ctx.wk_heldOn (x : Ctx) (r : Nat) (v : Lane) : (x.wk r v).heldOn = x.heldOn := by unfold Ctx.wk; split <;> rfl
@[simp] theorem Ctx.wk_declared (x : Ctx) (r : Nat) (v : Lane) : (x.wk r v).declared = x.declared := by unfold Ctx.wk; split <;> rfl
@[simp] theorem Ctx.wk_dbgHalt (x : Ctx) (r : Nat) (v : Lane) : (x.wk r v).dbgHalt = x.dbgHalt := by unfold Ctx.wk; split <;> rfl
@[simp] theorem Ctx.rg_zero (x : Ctx) : x.rg 0 = 0#64 := rfl
@[simp] theorem Ctx.rk_zero (x : Ctx) : x.rk 0 = 0xFFFFFFFF#32 := rfl
@[simp] theorem Ctx.rp_zero (x : Ctx) : x.rp 0 = true := rfl
/-- A scalar register after a write of one: g0 stays 0 (R66). -/
theorem Ctx.rg_wg (x : Ctx) (r q : Nat) (v : Word) : (x.wg r v).rg q = if q = r ∧ r ≠ 0 then v else x.rg q := by
  unfold Ctx.wg Ctx.rg
  by_cases h : r = 0
  · simp [h]
  · by_cases h2 : q = 0
    · simp [h2, h, Ne.symm h]
    · by_cases h3 : q = r <;> simp [h, h2, h3, Tab.get_set]
/-- A lane mask after a write of one: k0 stays all lanes (R66). -/
theorem Ctx.rk_wk (x : Ctx) (r q : Nat) (v : Lane) : (x.wk r v).rk q = if q = r ∧ r ≠ 0 then v else x.rk q := by
  unfold Ctx.wk Ctx.rk
  by_cases h : r = 0
  · simp [h]
  · by_cases h2 : q = 0
    · simp [h2, h, Ne.symm h]
    · by_cases h3 : q = r <;> simp [h, h2, h3, Tab.get_set]
@[simp] theorem Ctx.rg_wp (x : Ctx) (r q : Nat) (v : Bool) : (x.wp r v).rg q = x.rg q := by simp [Ctx.rg]
@[simp] theorem Ctx.rg_wk (x : Ctx) (r q : Nat) (v : Lane) : (x.wk r v).rg q = x.rg q := by simp [Ctx.rg]
@[simp] theorem Ctx.rk_wg (x : Ctx) (r q : Nat) (v : Word) : (x.wg r v).rk q = x.rk q := by simp [Ctx.rk]
@[simp] theorem Ctx.rk_wp (x : Ctx) (r q : Nat) (v : Bool) : (x.wp r v).rk q = x.rk q := by simp [Ctx.rk]
@[simp] theorem Ctx.rp_wg (x : Ctx) (r q : Nat) (v : Word) : (x.wg r v).rp q = x.rp q := by simp [Ctx.rp]
@[simp] theorem Ctx.rp_wk (x : Ctx) (r q : Nat) (v : Lane) : (x.wk r v).rp q = x.rp q := by simp [Ctx.rp]
/-- A predicate after a write of one of the eight: p0 stays true (R66). -/
theorem Ctx.rp_wp (x : Ctx) (r q : Nat) (v : Bool) (hr : r < 8) :
    (x.wp r v).rp q = if q = r ∧ r ≠ 0 then v else x.rp q := by
  unfold Ctx.wp Ctx.rp
  by_cases h : r = 0
  · simp [h]
  · by_cases h2 : q = 0
    · simp [h2, h, Ne.symm h]
    · simp only [h, if_false, ne_eq, not_false_eq_true, and_true]
      have h0 : (q == 0) = false := by simp [h2]
      rw [h0]
      by_cases h8 : q < 8
      · cases v <;> by_cases h3 : q = r <;> simp_all <;> omega
      · have h3 : q ≠ r := by omega
        have hq : 8 ≤ q := by omega
        cases v <;> simp [h3, hq, BitVec.getLsbD_of_ge]

end Sys2Proof.Machine
end

