-- ==== Sys2Proof/Laws/Memories.lean ====
section
/-!
SUPPORT. The canonical form of the memories, carried through the updates of the state: an update of one core, cluster, host channel
or of the module keeps it where what it puts in has it.
-/
namespace Sys2Proof.Machine

/-! ### Tables -/

theorem mem_putList {α : Type} {k : Nat} {v : α} {l : List (Nat × α)} {e : Nat × α} (h : e ∈ putList k v l) :
    e = (k, v) ∨ e ∈ l := by
  induction l with
  | nil => simpa [putList] using h
  | cons x xs ih =>
    simp only [putList] at h
    split at h
    · rcases List.mem_cons.mp h with h | h
      · exact .inl h
      · exact .inr (List.mem_cons_of_mem _ h)
    · split at h
      · rcases List.mem_cons.mp h with h | h
        · exact .inl h
        · exact .inr h
      · rcases List.mem_cons.mp h with h | h
        · exact .inr (h ▸ List.mem_cons_self ..)
        · exact (ih h).imp id (List.mem_cons_of_mem _)

theorem mem_of_getList {α : Type} {k : Nat} {v : α} {l : List (Nat × α)} (h : getList k l = some v) : (k, v) ∈ l := by
  induction l with
  | nil => cases h
  | cons x xs ih =>
    simp only [getList] at h
    split at h
    · cases h; rename_i hk; simp [hk]
    · exact List.mem_cons_of_mem _ (ih h)

/-- A property of every entry is kept by writing one that has it. -/
theorem Tab.forall_set {α : Type} {P : α → Prop} {t : Tab α} (k : Nat) {v : α} (h : ∀ e ∈ t.entries, P e.2) (hv : P v) :
    ∀ e ∈ (t.set k v).entries, P e.2 := by
  intro e he
  rcases mem_putList he with rfl | he
  · exact hv
  · exact h e he

/-- A property of every entry, and of the default, holds of a read. -/
theorem Tab.get_of_forall {α : Type} {P : α → Prop} {t : Tab α} (k : Nat) {d : α} (h : ∀ e ∈ t.entries, P e.2) (hd : P d) :
    P (t.get k d) := by
  unfold Tab.get Tab.get?
  cases hg : getList k t.entries with
  | none => exact hd
  | some v => exact h _ (mem_of_getList hg)

theorem Tab.forall_mapVals {α : Type} {P : α → Prop} {t : Tab α} {f : Nat → α → α} (h : ∀ e ∈ t.entries, P e.2)
    (hf : ∀ k v, P v → P (f k v)) : ∀ e ∈ (t.mapVals f).entries, P e.2 := by
  intro e he
  obtain ⟨x, hx, rfl⟩ := List.mem_map.mp he
  exact hf _ _ (h x hx)

theorem Tab.forall_filterVals {α : Type} {P : α → Prop} {t : Tab α} {p : Nat → α → Bool} (h : ∀ e ∈ t.entries, P e.2) :
    ∀ e ∈ (t.filterVals p).entries, P e.2 := fun e he => h e (List.mem_filter.mp he).1

theorem Tab.forall_erase {α : Type} {P : α → Prop} {t : Tab α} {k : Nat} (h : ∀ e ∈ t.entries, P e.2) :
    ∀ e ∈ (t.erase k).entries, P e.2 := fun e he => h e (List.mem_filter.mp he).1

/-! ### The state -/

/-- The memories of one core have their canonical form. -/
def Core.MemWf (c : Core) : Prop := c.sp.mem.wf = true ∧ c.code.wf = true

theorem Core.memWf_default : Core.MemWf {} := ⟨rfl, rfl⟩

theorem State.MemoriesWf.core {s : State} (h : s.MemoriesWf) (i : CoreId) : (s.core i).MemWf :=
  Tab.get_of_forall (P := Core.MemWf) i h.2.1 Core.memWf_default

theorem State.MemoriesWf.cluster {s : State} (h : s.MemoriesWf) (q : Nat) : (s.cluster q).sram.wf = true :=
  Tab.get_of_forall (P := fun c : Cluster => c.sram.wf = true) q h.2.2.1 rfl

theorem State.MemoriesWf.setCore {s : State} (h : s.MemoriesWf) (i : CoreId) {c : Core} (hc : c.MemWf) :
    (s.setCore i c).MemoriesWf :=
  ⟨h.1, Tab.forall_set (P := Core.MemWf) i h.2.1 hc, h.2.2⟩

theorem State.MemoriesWf.updCore {s : State} (h : s.MemoriesWf) (i : CoreId) {f : Core → Core}
    (hf : (s.core i).MemWf → (f (s.core i)).MemWf) : (s.updCore i f).MemoriesWf := h.setCore i (hf (h.core i))

theorem State.MemoriesWf.setCluster {s : State} (h : s.MemoriesWf) (q : Nat) {c : Cluster} (hc : c.sram.wf = true) :
    (s.setCluster q c).MemoriesWf :=
  ⟨h.1, h.2.1, Tab.forall_set (P := fun c : Cluster => c.sram.wf = true) q h.2.2.1 hc, h.2.2.2⟩

theorem State.MemoriesWf.updCluster {s : State} (h : s.MemoriesWf) (q : Nat) {f : Cluster → Cluster}
    (hf : (f (s.cluster q)).sram = (s.cluster q).sram) : (s.updCluster q f).MemoriesWf :=
  h.setCluster q (hf ▸ h.cluster q)

theorem State.MemoriesWf.setDie {s : State} (h : s.MemoriesWf) (d : Nat) (x : Die) : (s.setDie d x).MemoriesWf := h
theorem State.MemoriesWf.updDie {s : State} (h : s.MemoriesWf) (d : Nat) (f : Die → Die) : (s.updDie d f).MemoriesWf := h
theorem State.MemoriesWf.tell {s : State} (h : s.MemoriesWf) (i : CoreId) (n : Notice) : (s.tell i n).MemoriesWf :=
  h.updCluster _ rfl
theorem State.MemoriesWf.takeFree {s : State} (h : s.MemoriesWf) : s.takeFree.MemoriesWf := h

theorem State.MemoriesWf.updMod {s : State} (h : s.MemoriesWf) {f : Module → Module} (hm : (f s.mod).mem.hbm = s.mod.mem.hbm)
    (hc : (f s.mod).chans = s.mod.chans) : (s.updMod f).MemoriesWf :=
  ⟨hm ▸ h.1, h.2.1, h.2.2.1, fun e he => h.2.2.2 e (hc ▸ he)⟩

theorem State.MemoriesWf.updMem {s : State} (h : s.MemoriesWf) {f : Memory → Memory} (hf : (f s.mod.mem).hbm.wf = true) :
    (s.updMem f).MemoriesWf := ⟨hf, h.2⟩

theorem State.MemoriesWf.updMe {s : State} (h : s.MemoriesWf) (f : Ctx → Ctx) : (s.updMe f).MemoriesWf := h.updCore _ id
theorem State.MemoriesWf.advance {s : State} (h : s.MemoriesWf) (n : Nat) : (s.advance n).MemoriesWf := h.updMe _
theorem State.MemoriesWf.jump {s : State} (h : s.MemoriesWf) (t : Word) : (s.jump t).MemoriesWf := h.updMe _
theorem State.MemoriesWf.trapReturn {s : State} (h : s.MemoriesWf) (t : Word) : (s.trapReturn t).MemoriesWf := h.updMe _

/-! ### Writes that others have not acquired (R298) -/

/-- Keeping what stood before a write changes no byte of HBM. -/
@[simp] theorem State.noteWrite_hbm (m : Memory) (w : Party) (part va : Nat) (ps : List Piece) : (State.noteWrite m w part va ps).hbm = m.hbm := by
  unfold State.noteWrite; split <;> rfl

/-- An address that no kept write names reads as it stands. -/
theorem State.olderByte_fresh {hs : Tab Handover} {w : Party} {e pa : Nat} {l : List Stale} (b : Byte) (h : ∀ x ∈ l, x.pa ≠ pa) :
    olderByte hs w e pa l b = b := by
  induction l with
  | nil => rfl
  | cons x xs ih =>
    simp only [olderByte, if_pos (h x (List.mem_cons_self ..))]
    exact ih fun y hy => h y (List.mem_cons_of_mem _ hy)

/-- A party that has acquired the newest write of a byte reads it as it stands (R298). -/
theorem State.olderByte_known {hs : Tab Handover} {w : Party} {e : Nat} {x : Stale} {l : List Stale} (b : Byte)
    (h : w.row.knows w.core x.core x.no = true) : olderByte hs w e x.pa (x :: l) b = b := by simp [State.olderByte, State.acquired, h]

/-- A party that has acquired a numbered release reads what it orders as it stands (R377, R378). -/
theorem State.olderByte_handed {hs : Tab Handover} {w : Party} {e n : Nat} {h : Handover} {x : Stale} {l : List Stale} (b : Byte)
    (hn : (n, h) ∈ hs.entries) (hw : w.row.has (Row.via n) = true) (hc : State.covers h x = true) :
    olderByte hs w e x.pa (x :: l) b = b := by
  have : State.acquired hs w x = true := by
    simp only [State.acquired, Bool.or_eq_true, List.any_eq_true, Bool.and_eq_true]
    exact .inr ⟨_, hn, hw, hc⟩
  simp [State.olderByte, this]

/-- The race check of a read says nothing where no granule races (R124). -/
theorem Core.raceCheck_ok {c : Core} {k : Nat} {rs : List (Nat × Nat)} (h : c.sp.readRace k rs = none) : c.raceCheck k rs = .ok () := by
  simp [Core.raceCheck, h]

/-- A store to a scratchpad keeps its canonical form. -/
theorem Spad.store_wf {sp : Spad} (h : sp.mem.wf = true) (a : Nat) (bs : List Byte) : (sp.store a bs).mem.wf = true :=
  Mem.wf_writeBytes _ _ _ h

/-! ### What an attempt has met (R288) -/

/-- An attempt that leaves memory as it was has met nothing. -/
theorem State.metErrors_of_mem {s v : State} (h : v.mod.mem = s.mod.mem) : s.metErrors v = s := by
  have hp : (s.mod.mem.flips.map (·.1)).eraseDups.filter (fun q =>
      State.eccOf s.mod.mem q == .uncorrectable && !(s.mod.mem.flips.any fun f => f.1 == q) && !s.mod.mem.poison.contains q) = [] := by
    rw [List.filter_eq_nil_iff]
    intro q hq
    have : (s.mod.mem.flips.any fun f => f.1 == q) = true := by
      obtain ⟨f, hf, rfl⟩ := List.mem_map.mp (List.mem_eraseDups.mp hq)
      exact List.any_eq_true.mpr ⟨f, hf, by simp⟩
    simp [this]
  simp only [State.metErrors, h]
  show (s.updMem fun _ => { s.mod.mem with poison := s.mod.mem.poison ++ _ }) = s
  rw [hp, List.append_nil]
  rfl

/-- What an attempt has met touches nothing but the module's memory. -/
@[simp] theorem State.metErrors_core (s v : State) (i : CoreId) : (s.metErrors v).core i = s.core i := rfl
@[simp] theorem State.metErrors_hbm (s v : State) : (s.metErrors v).mod.mem.hbm = s.mod.mem.hbm := rfl
@[simp] theorem State.metErrors_me (s v : State) : (s.metErrors v).me = s.me := rfl

/-! ### A copy's landings (R219, R380) -/

/-- An attempt begun again has landed nothing and read nothing; what the copy is stays. -/
@[simp] theorem Copy.again_landed (m : Copy) : m.again.landed = [] := rfl
@[simp] theorem Copy.again_read (m : Copy) : m.again.read = [] := rfl
@[simp] theorem Copy.again_tid (m : Copy) : m.again.tid = m.tid := rfl
@[simp] theorem Copy.again_sh (m : Copy) : m.again.sh = m.sh := rfl
@[simp] theorem Copy.again_status (m : Copy) : m.again.status = m.status := rfl
@[simp] theorem Copy.again_replays (m : Copy) : m.again.replays = m.replays := rfl

/-- The completion of a command's writes changes who acquires them and no byte. -/
@[simp] theorem State.stampWrites_core (s : State) (c : CoreId) (n : Nat) (i : CoreId) : (s.stampWrites c n).core i = s.core i := rfl
@[simp] theorem State.stampWrites_hbm (s : State) (c : CoreId) (n : Nat) : (s.stampWrites c n).mod.mem.hbm = s.mod.mem.hbm := rfl
@[simp] theorem State.stampWrites_dies (s : State) (c : CoreId) (n : Nat) : (s.stampWrites c n).dies = s.dies := rfl
@[simp] theorem State.stampWrites_clusters (s : State) (c : CoreId) (n : Nat) : (s.stampWrites c n).clusters = s.clusters := rfl

/-- A turn that lands units of a copy which is not under way changes nothing. -/
theorem State.landUnits_none {s : State} {core tid : Nat} (h : (s.core core).copyOf tid = none) (ks : List Nat) (t : CoreId) :
    landUnits s core tid ks t = s := by
  simp [landUnits, h]

end Sys2Proof.Machine
end

