-- ==== Sys2Proof/Laws/Ops.lean ====
section
/-!
SUPPORT. What the shared scalar operations can do: reads and writes of plain g registers, the channel check where no channel is
named, and the three ways a trap goes.
-/
namespace Sys2Proof.Machine

theorem State.isIn_plain {f : Fld} (h : f.toNat < 32) : State.isIn f = false := by
  simp only [State.isIn, Bool.or_eq_false_iff, beq_eq_false_iff_ne]; omega

theorem State.isOut_plain {f : Fld} (h : f.toNat < 32) : State.isOut f = false := by
  simp only [State.isOut, Bool.or_eq_false_iff, beq_eq_false_iff_ne]; omega

/-- Where no scalar field names a channel the channel check passes (R75). -/
theorem State.chanCheck_plain (s : State) (rs ws : List Fld) (hr : Plain rs) (hw : Plain ws) : s.chanCheck rs ws = none := by
  have h1 : rs.any State.isIn = false := by
    simp only [List.any_eq_false]; intro f hf; simp [State.isIn_plain (hr f hf)]
  have h2 : ws.any State.isOut = false := by
    simp only [List.any_eq_false]; intro f hf; simp [State.isOut_plain (hw f hf)]
  simp [State.chanCheck, h1, h2]

theorem State.getScalar_plain (s : State) {f : Fld} (h : f.toNat < 32) : s.getScalar f = (s.me.rg f.toNat, s) := by
  simp [State.getScalar, State.isIn_plain h]

theorem State.putScalar_plain (s : State) {f : Fld} (v : Word) (h : f.toNat < 32) :
    s.putScalar f v = s.updMe (·.wg f.toNat v) := by
  simp [State.putScalar, State.isOut_plain h]

/-- A scalar instruction of two sources over plain registers (R75). -/
theorem State.scalar2_plain (s : State) {d a b : Fld} (f : Word → Word → Word) (h : Plain [d, a, b]) :
    s.scalar2 d a b f = (s.updMe (·.wg d.toNat (f (s.me.rg a.toNat) (s.me.rg b.toNat)))).advance 8 := by
  have hd := h d (by simp)
  have ha := h a (by simp)
  have hb := h b (by simp)
  have hc : s.chanCheck [a, b] [d] = none :=
    s.chanCheck_plain _ _ (by intro x hx; exact h x (List.mem_cons_of_mem _ hx)) (by intro x hx; simp at hx; subst hx; exact hd)
  simp [State.scalar2, hc, State.getScalar_plain, State.putScalar_plain, ha, hb, hd]

/-- A scalar instruction of one source over plain registers (R75). -/
theorem State.scalar1_plain (s : State) (len : Nat) {d a : Fld} (f : Word → Word) (h : Plain [d, a]) :
    s.scalar1 len d a f = (s.updMe (·.wg d.toNat (f (s.me.rg a.toNat)))).advance len := by
  have hd := h d (by simp)
  have ha := h a (by simp)
  have hc : s.chanCheck [a] [d] = none :=
    s.chanCheck_plain _ _ (by intro x hx; exact h x (List.mem_cons_of_mem _ hx)) (by intro x hx; simp at hx; subst hx; exact hd)
  simp [State.scalar1, hc, State.getScalar_plain, State.putScalar_plain, ha, hd]

/-- A scalar instruction without a source, over a plain register (R84). -/
theorem State.scalar0_plain (s : State) (len : Nat) {d : Fld} (v : Word) (h : d.toNat < 32) :
    s.scalar0 len d v = (s.updMe (·.wg d.toNat v)).advance len := by
  have hc : s.chanCheck [] [d] = none :=
    s.chanCheck_plain _ _ (by intro x hx; cases hx) (by intro x hx; simp at hx; subst hx; exact h)
  simp [State.scalar0, hc, State.putScalar_plain, h]

/-- A comparison over plain registers (R81). -/
theorem State.compare2_plain (s : State) {d a b : Fld} (f : Word → Word → Bool) (h : Plain [a, b]) :
    s.compare2 d a b f = (s.updMe (·.wp d.toNat (f (s.me.rg a.toNat) (s.me.rg b.toNat)))).advance 8 := by
  have ha := h a (by simp)
  have hb := h b (by simp)
  have hc : s.chanCheck [a, b] [] = none := s.chanCheck_plain _ _ h (by intro x hx; cases hx)
  simp [State.compare2, hc, State.getScalar_plain, ha, hb]

/-- A trap in a context with a trap vector (R72). -/
theorem State.takeTrap_vectored (s : State) (c : Cause) (v : Word) (hk : s.slot ≠ 11) (ht : s.me.tvec ≠ 0#64) :
    s.takeTrap c v = s.updMe fun x =>
      { x with epc := s.me.pc, ecause := BitVec.ofNat 64 (causeCode c), eval := v, tvec := 0#64, pc := x.tvec, wait := none,
               held := none, heldOn := none, declared := none } := by
  simp [State.takeTrap, State.takeTrapAt, hk, ht]

/-- A trap in a context without one ends the node (R72). -/
theorem State.takeTrap_halts (s : State) (c : Cause) (v : Word) (hk : s.slot ≠ 11) (ht : s.me.tvec = 0#64) :
    s.takeTrap c v =
      (s.tell s.cur (.halt s.cur s.slot s.me.pc (BitVec.ofNat 64 (causeCode c)) v (s.secretRun s.cur))).haltNode s.cur (causeCode c)
        (c == .channel && (s.tell s.cur (.halt s.cur s.slot s.me.pc (BitVec.ofNat 64 (causeCode c)) v (s.secretRun s.cur))).killNear s.cur (v.toNat % 4)) := by
  simp [State.takeTrap, State.takeTrapAt, hk, ht]

/-- A trap in the service slot abandons its handler (R72). -/
theorem State.takeTrap_service (s : State) (c : Cause) (v : Word) (hk : s.slot = 11) :
    s.takeTrap c v =
      (s.tell s.cur (.halt s.cur 11 s.me.pc (BitVec.ofNat 64 (causeCode c)) v (s.secretRun s.cur))).endHandler s.cur 2 (causeCode c) v := by
  simp [State.takeTrap, State.takeTrapAt, hk]

end Sys2Proof.Machine
end

