-- ==== Sys2Proof/Laws/PerInstr.lean ====
section
/-!
SUPPORT. What decoding the encoded fields of an instruction gives: the instruction, shown constructor by constructor.
-/
namespace Sys2Proof.Laws

/-- A field that lies in the low part of an append is a field of that part. -/
theorem extract_append_low {m n : Nat} (a : BitVec m) (b : BitVec n) (s k : Nat) (h : s + k ≤ n) :
    (a ++ b).extractLsb' s k = b.extractLsb' s k := by
  ext i hi
  simp only [BitVec.getElem_extractLsb', BitVec.getLsbD_append]
  rw [if_pos (by omega)]

/-- A field that lies in the high part of an append is a field of that part. -/
theorem extract_append_high {m n : Nat} (a : BitVec m) (b : BitVec n) (s k : Nat) (h : n ≤ s) :
    (a ++ b).extractLsb' s k = a.extractLsb' (s - n) k := by
  ext i hi
  simp only [BitVec.getElem_extractLsb', BitVec.getLsbD_append]
  rw [if_neg (by omega)]
  congr 1
  omega

/-- A field of a zero word is zero. -/
theorem extract_zero (n s k : Nat) : (0#n).extractLsb' s k = 0#k := by
  ext i hi
  simp

/-- The field that is the whole word. -/
theorem extract_all {n : Nat} (b : BitVec n) : b.extractLsb' 0 n = b := by
  ext i hi
  simp only [BitVec.getElem_extractLsb', Nat.zero_add, BitVec.getLsbD_eq_getElem hi]


/-- C and MOD are read back from X (R29). -/
theorem splitRrr_xV (c : Fld) (m : VMod) : splitRrr (xV c m) = ⟨0#5, m, c⟩ := by
  cases m
  simp (disch := decide) only [splitRrr, xV, joinRrr, extract_append_low (m := 19) (n := 6),
    extract_append_high (m := 19) (n := 6), extract_append_low (m := 16) (n := 3), extract_append_high (m := 16) (n := 3),
    extract_append_low (m := 13) (n := 3), extract_append_high (m := 13) (n := 3), extract_append_low (m := 12) (n := 1),
    extract_append_high (m := 12) (n := 1), extract_append_low (m := 9) (n := 3), extract_append_high (m := 9) (n := 3),
    extract_append_low (m := 6) (n := 3), extract_append_high (m := 6) (n := 3), extract_append_low (m := 5) (n := 1),
    extract_append_high (m := 5) (n := 1), extract_all, extract_zero, Nat.reduceAdd, Nat.reduceSub]

/-- The fields of F-MEM are read back from X (R32). -/
theorem splitMem_xM (aop : BitVec 4) (f : MemForm) (off : BitVec 16) : splitMem (xM aop f off) = ⟨aop, f, off⟩ := by
  cases f
  simp (disch := decide) only [splitMem, xM, joinMem, extract_append_low (m := 9) (n := 16),
    extract_append_high (m := 9) (n := 16), extract_append_low (m := 7) (n := 2), extract_append_high (m := 7) (n := 2),
    extract_append_low (m := 6) (n := 1), extract_append_high (m := 6) (n := 1), extract_append_low (m := 4) (n := 2),
    extract_append_high (m := 4) (n := 2), extract_all, Nat.reduceAdd, Nat.reduceSub]

/-- The engine descriptor is read back from its word (R35). -/
theorem splitDesc_joinDesc (e : EDesc) : splitDesc (joinDesc e) = (0#2, e) := by
  cases e
  simp (disch := decide) only [splitDesc, joinDesc, extract_append_low (m := 60) (n := 4),
    extract_append_high (m := 60) (n := 4), extract_append_low (m := 59) (n := 1), extract_append_high (m := 59) (n := 1),
    extract_append_low (m := 55) (n := 4), extract_append_high (m := 55) (n := 4), extract_append_low (m := 54) (n := 1),
    extract_append_high (m := 54) (n := 1), extract_append_low (m := 53) (n := 1), extract_append_high (m := 53) (n := 1),
    extract_append_low (m := 48) (n := 5), extract_append_high (m := 48) (n := 5), extract_append_low (m := 42) (n := 6),
    extract_append_high (m := 42) (n := 6), extract_append_low (m := 32) (n := 10), extract_append_high (m := 32) (n := 10),
    extract_append_low (m := 31) (n := 1), extract_append_high (m := 31) (n := 1), extract_append_low (m := 30) (n := 1),
    extract_append_high (m := 30) (n := 1), extract_append_low (m := 28) (n := 2), extract_append_high (m := 28) (n := 2),
    extract_append_low (m := 26) (n := 2), extract_append_high (m := 26) (n := 2), extract_append_low (m := 23) (n := 3),
    extract_append_high (m := 23) (n := 3), extract_append_low (m := 20) (n := 3), extract_append_high (m := 20) (n := 3),
    extract_append_low (m := 19) (n := 1), extract_append_high (m := 19) (n := 1), extract_append_low (m := 2) (n := 17),
    extract_append_high (m := 2) (n := 17), extract_all, extract_zero, Nat.reduceAdd, Nat.reduceSub]

/-- Word 0's fields are read back from word 0 (R25). -/
theorem splitWord_joinWord (f : Fields) : splitWord (joinWord f) = f := by
  cases f
  simp (disch := decide) only [splitWord, joinWord, extract_append_low (m := 62) (n := 2),
    extract_append_high (m := 62) (n := 2), extract_append_low (m := 56) (n := 6), extract_append_high (m := 56) (n := 6),
    extract_append_low (m := 52) (n := 4), extract_append_high (m := 52) (n := 4), extract_append_low (m := 46) (n := 6),
    extract_append_high (m := 46) (n := 6), extract_append_low (m := 40) (n := 6), extract_append_high (m := 40) (n := 6),
    extract_append_low (m := 34) (n := 6), extract_append_high (m := 34) (n := 6), extract_append_low (m := 25) (n := 9),
    extract_append_high (m := 25) (n := 9), extract_all, Nat.reduceAdd, Nat.reduceSub]

/-- A field of C in X (R29). -/
theorem xV_low (c : Fld) (m : VMod) (s k : Nat) (h : s + k ≤ 6) : (xV c m).extractLsb' s k = c.extractLsb' s k := by
  rw [xV, joinRrr, extract_append_low (m := 19) (n := 6) _ _ _ _ h]

/-- The fields of a well-formed instruction decode to it (R25 to R41); PAD, POOL and the events have no fields. -/
def RoundTrip.Statement (i : Instr) : Prop :=
  ∀ f hi, i.wf = true → i.fields = some (f, hi) → decodeFields f hi = some i

namespace RoundTrip

theorem pad : Statement (.pad) := by
  intro f hi w h
  cases h

theorem pool x0 : Statement (.pool x0) := by
  intro f hi w h
  cases h

theorem nop : Statement (.nop) := by
  intro f hi w h
  cases h
  rfl

theorem trap imm : Statement (.trap imm) := by
  intro f hi w h
  cases h
  rfl

theorem bkpt imm : Statement (.bkpt imm) := by
  intro f hi w h
  cases h
  rfl

theorem eret a : Statement (.eret a) := by
  intro f hi w h
  cases h
  rfl

theorem sysr d num : Statement (.sysr d num) := by
  intro f hi w h
  cases h
  simp (disch := decide) [decodeFields, mkFields, ifZero, a0, b0, decodeSys, extract_append_low (m := 13) (n := 12),
    extract_append_high (m := 13) (n := 12), Nat.reduceAdd]

theorem sysw num a : Statement (.sysw num a) := by
  intro f hi w h
  cases h
  have hw : (a.sc && sysListed num && num != 96#12) = true := w
  have hn : num ≠ 96#12 := by simpa using (Bool.and_eq_true_iff.mp hw).2
  simp (disch := decide) [decodeFields, mkFields, ifZero, d0, b0, decodeSys, extract_append_low (m := 13) (n := 12),
    extract_append_high (m := 13) (n := 12), Nat.reduceAdd, hn]

theorem stopstClear a : Statement (.stopstClear a) := by
  intro f hi w h
  cases h
  simp [decodeFields, mkFields, ifZero, d0, b0, decodeSys, Nat.reduceAdd]

theorem evpop d c : Statement (.evpop d c) := by
  intro f hi w h
  cases h
  simp (disch := decide) [decodeFields, mkFields, ifZero, onlyC, a0, b0, xC, decodeSys,
    extract_append_low (m := 19) (n := 6), extract_append_high (m := 19) (n := 6), Nat.reduceAdd]

theorem evwait : Statement (.evwait) := by
  intro f hi w h
  cases h
  rfl

theorem add d a b : Statement (.add d a b) := by
  intro f hi w h
  cases h
  rfl

theorem sub d a b : Statement (.sub d a b) := by
  intro f hi w h
  cases h
  rfl

theorem and d a b : Statement (.and d a b) := by
  intro f hi w h
  cases h
  rfl

theorem or d a b : Statement (.or d a b) := by
  intro f hi w h
  cases h
  rfl

theorem xor d a b : Statement (.xor d a b) := by
  intro f hi w h
  cases h
  rfl

theorem andn d a b : Statement (.andn d a b) := by
  intro f hi w h
  cases h
  rfl

theorem shl d a b : Statement (.shl d a b) := by
  intro f hi w h
  cases h
  rfl

theorem shr d a b : Statement (.shr d a b) := by
  intro f hi w h
  cases h
  rfl

theorem sar d a b : Statement (.sar d a b) := by
  intro f hi w h
  cases h
  rfl

theorem rol d a b : Statement (.rol d a b) := by
  intro f hi w h
  cases h
  rfl

theorem ror d a b : Statement (.ror d a b) := by
  intro f hi w h
  cases h
  rfl

theorem min d a b : Statement (.min d a b) := by
  intro f hi w h
  cases h
  rfl

theorem max d a b : Statement (.max d a b) := by
  intro f hi w h
  cases h
  rfl

theorem minu d a b : Statement (.minu d a b) := by
  intro f hi w h
  cases h
  rfl

theorem maxu d a b : Statement (.maxu d a b) := by
  intro f hi w h
  cases h
  rfl

theorem sel d a b c : Statement (.sel d a b c) := by
  intro f hi w h
  cases h
  simp (disch := decide) [decodeFields, mkFields, onlyC, xC, decodeAlu, extract_append_low (m := 19) (n := 6),
    extract_append_high (m := 19) (n := 6), Nat.reduceAdd]

theorem abs d a : Statement (.abs d a) := by
  intro f hi w h
  cases h
  rfl

theorem addi d a imm : Statement (.addi d a imm) := by
  intro f hi w h
  cases h
  rfl

theorem andi d a imm : Statement (.andi d a imm) := by
  intro f hi w h
  cases h
  rfl

theorem ori d a imm : Statement (.ori d a imm) := by
  intro f hi w h
  cases h
  rfl

theorem xori d a imm : Statement (.xori d a imm) := by
  intro f hi w h
  cases h
  rfl

theorem shli d a sh : Statement (.shli d a sh) := by
  intro f hi w h
  cases h
  simp (disch := decide) [decodeFields, mkFields, ifZero, b0, xC, decodeAlui, extract_append_low (m := 19) (n := 6),
    extract_append_high (m := 19) (n := 6), Nat.reduceAdd]

theorem shri d a sh : Statement (.shri d a sh) := by
  intro f hi w h
  cases h
  simp (disch := decide) [decodeFields, mkFields, ifZero, b0, xC, decodeAlui, extract_append_low (m := 19) (n := 6),
    extract_append_high (m := 19) (n := 6), Nat.reduceAdd]

theorem sari d a sh : Statement (.sari d a sh) := by
  intro f hi w h
  cases h
  simp (disch := decide) [decodeFields, mkFields, ifZero, b0, xC, decodeAlui, extract_append_low (m := 19) (n := 6),
    extract_append_high (m := 19) (n := 6), Nat.reduceAdd]

theorem mul d a b : Statement (.mul d a b) := by
  intro f hi w h
  cases h
  rfl

theorem mulh d a b : Statement (.mulh d a b) := by
  intro f hi w h
  cases h
  rfl

theorem mulhu d a b : Statement (.mulhu d a b) := by
  intro f hi w h
  cases h
  rfl

theorem div d a b : Statement (.div d a b) := by
  intro f hi w h
  cases h
  rfl

theorem divu d a b : Statement (.divu d a b) := by
  intro f hi w h
  cases h
  rfl

theorem rem d a b : Statement (.rem d a b) := by
  intro f hi w h
  cases h
  rfl

theorem remu d a b : Statement (.remu d a b) := by
  intro f hi w h
  cases h
  rfl

theorem cmp cc d a b : Statement (.cmp cc d a b) := by
  intro f hi w h
  cases h
  simp (disch := decide) [decodeFields, mkFields, onlyC, xC, decodeCmp, extract_append_low (m := 19) (n := 6),
    extract_append_high (m := 19) (n := 6), Nat.reduceAdd]

theorem cmpi cc d a imm : Statement (.cmpi cc d a imm) := by
  intro f hi w h
  cases h
  simp (disch := decide) [decodeFields, mkFields, ifZero, b0, decodeCmp, extract_append_low (m := 21) (n := 4),
    extract_append_high (m := 21) (n := 4), Nat.reduceAdd]

theorem pand d a b : Statement (.pand d a b) := by
  intro f hi w h
  cases h
  rfl

theorem por d a b : Statement (.por d a b) := by
  intro f hi w h
  cases h
  rfl

theorem pxor d a b : Statement (.pxor d a b) := by
  intro f hi w h
  cases h
  rfl

theorem pandn d a b : Statement (.pandn d a b) := by
  intro f hi w h
  cases h
  rfl

theorem pnot d a : Statement (.pnot d a) := by
  intro f hi w h
  cases h
  rfl

theorem pset a : Statement (.pset a) := by
  intro f hi w h
  cases h
  rfl

theorem pget d : Statement (.pget d) := by
  intro f hi w h
  cases h
  rfl

theorem clz d a : Statement (.clz d a) := by
  intro f hi w h
  cases h
  rfl

theorem ctz d a : Statement (.ctz d a) := by
  intro f hi w h
  cases h
  rfl

theorem popc d a : Statement (.popc d a) := by
  intro f hi w h
  cases h
  rfl

theorem bswap d a : Statement (.bswap d a) := by
  intro f hi w h
  cases h
  rfl

theorem bfx d a pos wm1 : Statement (.bfx d a pos wm1) := by
  intro f hi w h
  cases h
  simp (disch := decide) [decodeFields, mkFields, ifZero, b0, decodeBit, extract_append_low (m := 19) (n := 6),
    extract_append_high (m := 19) (n := 6), extract_append_low (m := 13) (n := 6), extract_append_high (m := 13) (n := 6),
    Nat.reduceAdd, Nat.reduceSub]

theorem bfxu d a pos wm1 : Statement (.bfxu d a pos wm1) := by
  intro f hi w h
  cases h
  simp (disch := decide) [decodeFields, mkFields, ifZero, b0, decodeBit, extract_append_low (m := 19) (n := 6),
    extract_append_high (m := 19) (n := 6), extract_append_low (m := 13) (n := 6), extract_append_high (m := 13) (n := 6),
    Nat.reduceAdd, Nat.reduceSub]

theorem bfi d a pos wm1 : Statement (.bfi d a pos wm1) := by
  intro f hi w h
  cases h
  simp (disch := decide) [decodeFields, mkFields, ifZero, b0, decodeBit, extract_append_low (m := 19) (n := 6),
    extract_append_high (m := 19) (n := 6), extract_append_low (m := 13) (n := 6), extract_append_high (m := 13) (n := 6),
    Nat.reduceAdd, Nat.reduceSub]

theorem movi d imm : Statement (.movi d imm) := by
  intro f hi w h
  cases h
  simp (disch := decide) [decodeFields, mkFields, rrr, ifZero, a0, b0, decodeConst, extract_append_low (m := 32) (n := 32),
    Nat.reduceAdd]

theorem movhi d imm : Statement (.movhi d imm) := by
  intro f hi w h
  cases h
  simp (disch := decide) [decodeFields, mkFields, rrr, ifZero, a0, b0, decodeConst, extract_append_low (m := 32) (n := 32),
    Nat.reduceAdd]

theorem ldl d imm : Statement (.ldl d imm) := by
  intro f hi w h
  cases h
  simp (disch := decide) [decodeFields, mkFields, rrr, ifZero, a0, b0, decodeConst, extract_append_low (m := 32) (n := 32),
    Nat.reduceAdd]

theorem addpc d imm : Statement (.addpc d imm) := by
  intro f hi w h
  cases h
  simp (disch := decide) [decodeFields, mkFields, rrr, ifZero, a0, b0, decodeConst, extract_append_low (m := 32) (n := 32),
    Nat.reduceAdd]

theorem vldl d ty imm : Statement (.vldl d ty imm) := by
  intro f hi w h
  cases h
  simp (disch := decide) [decodeFields, mkFields, ifZero, a0, b0, decodeConst, extract_append_low (m := 19) (n := 6),
    extract_append_high (m := 19) (n := 6), extract_append_low (m := 16) (n := 3), extract_append_high (m := 16) (n := 3),
    extract_append_low (m := 32) (n := 32), Nat.reduceAdd, Nat.reduceSub]

theorem ld d a f off : Statement (.ld d a f off) := by
  intro f hi w h
  cases h
  simp [decodeFields, mkFields, ifZero, b0, splitMem_xM, decodeLoad]

theorem ldx d a ix f : Statement (.ldx d a ix f) := by
  intro f hi w h
  cases h
  simp (disch := decide) [decodeFields, mkFields, ifZero, b0, splitMem_xM, decodeLoad,
    extract_append_low (m := 10) (n := 6), extract_append_high (m := 10) (n := 6), Nat.reduceAdd]

theorem st b a f off : Statement (.st b a f off) := by
  intro f hi w h
  cases h
  simp [decodeFields, mkFields, ifZero, d0, splitMem_xM, decodeStore]

theorem stx b a ix f : Statement (.stx b a ix f) := by
  intro f hi w h
  cases h
  simp (disch := decide) [decodeFields, mkFields, ifZero, d0, splitMem_xM, decodeStore,
    extract_append_low (m := 10) (n := 6), extract_append_high (m := 10) (n := 6), Nat.reduceAdd]

theorem amo aop d b a f off : Statement (.amo aop d b a f off) := by
  intro f hi w h
  cases h
  simp [decodeFields, mkFields, splitMem_xM, decodeAtom]

theorem cas d b a f off : Statement (.cas d b a f off) := by
  intro f hi w h
  cases h
  simp [decodeFields, mkFields, ifZero, splitMem_xM, decodeAtom]

theorem fence kind scope : Statement (.fence kind scope) := by
  intro f hi w h
  cases h
  simp (disch := decide) [decodeFields, mkFields, ifZero, d0, a0, b0, decodeOrder, extract_append_low (m := 22) (n := 3),
    extract_append_high (m := 22) (n := 3), extract_append_low (m := 20) (n := 2), extract_append_high (m := 20) (n := 2),
    Nat.reduceAdd, Nat.reduceSub]

theorem br off : Statement (.br off) := by
  intro f hi w h
  cases h
  rfl

theorem call off : Statement (.call off) := by
  intro f hi w h
  cases h
  rfl

theorem loop d off : Statement (.loop d off) := by
  intro f hi w h
  cases h
  rfl

theorem jmpr a : Statement (.jmpr a) := by
  intro f hi w h
  cases h
  rfl

theorem callr a : Statement (.callr a) := by
  intro f hi w h
  cases h
  rfl

theorem ret : Statement (.ret) := by
  intro f hi w h
  cases h
  rfl

theorem yield : Statement (.yield) := by
  intro f hi w h
  cases h
  rfl

theorem hstart pp d a sz off : Statement (.hstart pp d a sz off) := by
  intro f hi w h
  cases h
  simp (disch := decide) [decodeFields, mkFields, decodeContext, extract_append_low (m := 22) (n := 3),
    extract_append_high (m := 22) (n := 3), Nat.reduceAdd]

theorem hend : Statement (.hend) := by
  intro f hi w h
  cases h
  rfl

theorem hwait a : Statement (.hwait a) := by
  intro f hi w h
  cases h
  rfl

theorem hkill a : Statement (.hkill a) := by
  intro f hi w h
  cases h
  rfl

theorem fork d a n off : Statement (.fork d a n off) := by
  intro f hi w h
  cases h
  rfl

theorem join n : Statement (.join n) := by
  intro f hi w h
  cases h
  rfl

theorem joinw n : Statement (.joinw n) := by
  intro f hi w h
  cases h
  rfl

theorem vadd d a b m : Statement (.vadd d a b m) := by
  intro f hi w h
  cases h
  simp [decodeFields, mkFields, ifZero, vec, splitRrr_xV, decodeVfp]

theorem vsub d a b m : Statement (.vsub d a b m) := by
  intro f hi w h
  cases h
  simp [decodeFields, mkFields, ifZero, vec, splitRrr_xV, decodeVfp]

theorem vmul d a b m : Statement (.vmul d a b m) := by
  intro f hi w h
  cases h
  simp [decodeFields, mkFields, ifZero, vec, splitRrr_xV, decodeVfp]

theorem vfma d a b c m : Statement (.vfma d a b c m) := by
  intro f hi w h
  cases h
  simp [decodeFields, mkFields, ifZero, vec, splitRrr_xV, decodeVfp]

theorem vfms d a b c m : Statement (.vfms d a b c m) := by
  intro f hi w h
  cases h
  simp [decodeFields, mkFields, ifZero, vec, splitRrr_xV, decodeVfp]

theorem vfnma d a b c m : Statement (.vfnma d a b c m) := by
  intro f hi w h
  cases h
  simp [decodeFields, mkFields, ifZero, vec, splitRrr_xV, decodeVfp]

theorem vmin d a b m : Statement (.vmin d a b m) := by
  intro f hi w h
  cases h
  simp [decodeFields, mkFields, ifZero, vec, splitRrr_xV, decodeVfp]

theorem vmax d a b m : Statement (.vmax d a b m) := by
  intro f hi w h
  cases h
  simp [decodeFields, mkFields, ifZero, vec, splitRrr_xV, decodeVfp]

theorem vabs d a m : Statement (.vabs d a m) := by
  intro f hi w h
  cases h
  simp [decodeFields, mkFields, ifZero, vec, b0, splitRrr_xV, decodeVfp]

theorem vneg d a m : Statement (.vneg d a m) := by
  intro f hi w h
  cases h
  simp [decodeFields, mkFields, ifZero, vec, b0, splitRrr_xV, decodeVfp]

theorem vand d a b m : Statement (.vand d a b m) := by
  intro f hi w h
  cases h
  simp [decodeFields, mkFields, ifZero, vec, splitRrr_xV, decodeVbit]

theorem vor d a b m : Statement (.vor d a b m) := by
  intro f hi w h
  cases h
  simp [decodeFields, mkFields, ifZero, vec, splitRrr_xV, decodeVbit]

theorem vxor d a b m : Statement (.vxor d a b m) := by
  intro f hi w h
  cases h
  simp [decodeFields, mkFields, ifZero, vec, splitRrr_xV, decodeVbit]

theorem vshl d a b m : Statement (.vshl d a b m) := by
  intro f hi w h
  cases h
  simp [decodeFields, mkFields, ifZero, vec, splitRrr_xV, decodeVbit]

theorem vshr d a b m : Statement (.vshr d a b m) := by
  intro f hi w h
  cases h
  simp [decodeFields, mkFields, ifZero, vec, splitRrr_xV, decodeVbit]

theorem vsar d a b m : Statement (.vsar d a b m) := by
  intro f hi w h
  cases h
  simp [decodeFields, mkFields, ifZero, vec, splitRrr_xV, decodeVbit]

theorem vcmp cc d a b m : Statement (.vcmp cc d a b m) := by
  intro f hi w h
  cases h
  simp [decodeFields, mkFields, ifZero, vec, splitRrr_xV, decodeVmask]

theorem vsel d a b c m : Statement (.vsel d a b c m) := by
  intro f hi w h
  cases h
  simp [decodeFields, mkFields, ifZero, vec, splitRrr_xV, decodeVmask]

theorem kand d a b : Statement (.kand d a b) := by
  intro f hi w h
  cases h
  rfl

theorem kor d a b : Statement (.kor d a b) := by
  intro f hi w h
  cases h
  rfl

theorem kxor d a b : Statement (.kxor d a b) := by
  intro f hi w h
  cases h
  rfl

theorem knot d a : Statement (.knot d a) := by
  intro f hi w h
  cases h
  rfl

theorem kmovToMask d a : Statement (.kmovToMask d a) := by
  intro f hi w h
  cases h
  rfl

theorem kmovFromMask d a : Statement (.kmovFromMask d a) := by
  intro f hi w h
  cases h
  rfl

theorem vcvt src d a pd pa m : Statement (.vcvt src d a pd pa m) := by
  intro f hi w h
  cases h
  simp (disch := decide) [decodeFields, mkFields, ifZero, vec, splitRrr_xV, decodeVcvt,
    extract_append_low (m := 4) (n := 2), extract_append_high (m := 4) (n := 2), extract_append_low (m := 2) (n := 2),
    extract_append_high (m := 2) (n := 2), Nat.reduceAdd, Nat.reduceSub]

theorem vrcp d a m : Statement (.vrcp d a m) := by
  intro f hi w h
  cases h
  simp [decodeFields, mkFields, ifZero, vec, b0, splitRrr_xV, decodeVsfu]

theorem vrsq d a m : Statement (.vrsq d a m) := by
  intro f hi w h
  cases h
  simp [decodeFields, mkFields, ifZero, vec, b0, splitRrr_xV, decodeVsfu]

theorem vexp2 d a m : Statement (.vexp2 d a m) := by
  intro f hi w h
  cases h
  simp [decodeFields, mkFields, ifZero, vec, b0, splitRrr_xV, decodeVsfu]

theorem vlog2 d a m : Statement (.vlog2 d a m) := by
  intro f hi w h
  cases h
  simp [decodeFields, mkFields, ifZero, vec, b0, splitRrr_xV, decodeVsfu]

theorem vtanh d a m : Statement (.vtanh d a m) := by
  intro f hi w h
  cases h
  simp [decodeFields, mkFields, ifZero, vec, b0, splitRrr_xV, decodeVsfu]

theorem vbcast d a m : Statement (.vbcast d a m) := by
  intro f hi w h
  cases h
  simp [decodeFields, mkFields, ifZero, vec, b0, splitRrr_xV, decodeVperm]

theorem vext d a b m : Statement (.vext d a b m) := by
  intro f hi w h
  cases h
  simp [decodeFields, mkFields, ifZero, vec, splitRrr_xV, decodeVperm]

theorem vins d a b m : Statement (.vins d a b m) := by
  intro f hi w h
  cases h
  simp [decodeFields, mkFields, ifZero, vec, splitRrr_xV, decodeVperm]

theorem vperm d a b m : Statement (.vperm d a b m) := by
  intro f hi w h
  cases h
  simp [decodeFields, mkFields, ifZero, vec, splitRrr_xV, decodeVperm]

theorem vrot d a b m : Statement (.vrot d a b m) := by
  intro f hi w h
  cases h
  simp [decodeFields, mkFields, ifZero, vec, splitRrr_xV, decodeVperm]

theorem vredadd d a m : Statement (.vredadd d a m) := by
  intro f hi w h
  cases h
  simp [decodeFields, mkFields, ifZero, vec, b0, splitRrr_xV, decodeVperm]

theorem vredmax d a m : Statement (.vredmax d a m) := by
  intro f hi w h
  cases h
  simp [decodeFields, mkFields, ifZero, vec, b0, splitRrr_xV, decodeVperm]

theorem vredmin d a m : Statement (.vredmin d a m) := by
  intro f hi w h
  cases h
  simp [decodeFields, mkFields, ifZero, vec, b0, splitRrr_xV, decodeVperm]

theorem vscan d a m : Statement (.vscan d a m) := by
  intro f hi w h
  cases h
  simp [decodeFields, mkFields, ifZero, vec, b0, splitRrr_xV, decodeVperm]

theorem vld d a m : Statement (.vld d a m) := by
  intro f hi w h
  cases h
  simp [decodeFields, mkFields, ifZero, vec, b0, splitRrr_xV, decodeVmem]

theorem vst b a m : Statement (.vst b a m) := by
  intro f hi w h
  cases h
  simp [decodeFields, mkFields, ifZero, vec, d0, splitRrr_xV, decodeVmem]

theorem vlds d a b m : Statement (.vlds d a b m) := by
  intro f hi w h
  cases h
  simp [decodeFields, mkFields, ifZero, vec, splitRrr_xV, decodeVmem]

theorem vsts b a c m : Statement (.vsts b a c m) := by
  intro f hi w h
  cases h
  simp [decodeFields, mkFields, ifZero, vec, d0, splitRrr_xV, decodeVmem]

theorem vgath d a b m : Statement (.vgath d a b m) := by
  intro f hi w h
  cases h
  simp [decodeFields, mkFields, ifZero, vec, splitRrr_xV, decodeVmem]

theorem vscat b a c m : Statement (.vscat b a c m) := by
  intro f hi w h
  cases h
  simp [decodeFields, mkFields, ifZero, vec, d0, splitRrr_xV, decodeVmem]

theorem vsmax d a b m : Statement (.vsmax d a b m) := by
  intro f hi w h
  cases h
  simp [decodeFields, mkFields, ifZero, vec, splitRrr_xV, decodeVattn]

theorem vsexpP d a b m : Statement (.vsexpP d a b m) := by
  intro f hi w h
  cases h
  simp (disch := decide) [decodeFields, mkFields, ifZero, vec, splitRrr_xV, xV_low, decodeVattn]

theorem vsexpAcc d a m : Statement (.vsexpAcc d a m) := by
  intro f hi w h
  cases h
  simp (disch := decide) [decodeFields, mkFields, ifZero, vec, b0, splitRrr_xV, xV_low, decodeVattn]

theorem vsexpNorm d a b m : Statement (.vsexpNorm d a b m) := by
  intro f hi w h
  cases h
  simp (disch := decide) [decodeFields, mkFields, ifZero, vec, splitRrr_xV, xV_low, decodeVattn]

theorem rotapp d a b band m : Statement (.rotapp d a b band m) := by
  intro f hi w h
  cases h
  simp [decodeFields, mkFields, ifZero, vec, splitRrr_xV, decodeVattn]

theorem rotcfg t a : Statement (.rotcfg t a) := by
  intro f hi w h
  cases h
  simp (disch := decide) [decodeFields, mkFields, ifZero, d0, b0, decodeVattn, extract_append_low (m := 22) (n := 3),
    extract_append_high (m := 22) (n := 3), Nat.reduceAdd]

theorem latch a grp m e : Statement (.latch a grp m e) := by
  intro f hi w h
  cases h
  simp [decodeFields, mkFields, ifZero, vec, d0, b0, splitRrr_xV, splitDesc_joinDesc, decodeMtile]

theorem gath d a b grp m e : Statement (.gath d a b grp m e) := by
  intro f hi w h
  cases h
  simp [decodeFields, mkFields, ifZero, vec, splitRrr_xV, splitDesc_joinDesc, decodeMtile]

theorem mepi a m e : Statement (.mepi a m e) := by
  intro f hi w h
  cases h
  simp [decodeFields, mkFields, ifZero, vec, d0, b0, splitRrr_xV, splitDesc_joinDesc, decodeMtile]

theorem tmm a b m e : Statement (.tmm a b m e) := by
  intro f hi w h
  cases h
  simp [decodeFields, mkFields, ifZero, vec, d0, splitRrr_xV, splitDesc_joinDesc, decodeMtile]

theorem mma d a b m : Statement (.mma d a b m) := by
  intro f hi w h
  cases h
  simp [decodeFields, mkFields, ifZero, vec, splitRrr_xV, decodeMmac]

theorem pmma d a b m : Statement (.pmma d a b m) := by
  intro f hi w h
  cases h
  simp [decodeFields, mkFields, ifZero, vec, splitRrr_xV, decodeMmac]

theorem mzero d : Statement (.mzero d) := by
  intro f hi w h
  cases h
  rfl

theorem mrd d a b h : Statement (.mrd d a b h) := by
  intro f hi w h
  cases h
  simp (disch := decide) [decodeFields, mkFields, ifZero, decodeMmac, extract_append_low (m := 24) (n := 1),
    extract_append_high (m := 24) (n := 1), Nat.reduceAdd]

theorem mwr d a b h m : Statement (.mwr d a b h m) := by
  intro f hi w h
  cases h
  simp (disch := decide) [decodeFields, mkFields, ifZero, vec, splitRrr_xV, xV_low, decodeMmac,
    extract_append_low (m := 5) (n := 1), extract_append_high (m := 5) (n := 1), Nat.reduceAdd]

theorem mcfg pa pb ga gb : Statement (.mcfg pa pb ga gb) := by
  intro f hi w h
  cases h
  simp (disch := decide) [decodeFields, mkFields, ifZero, d0, a0, b0, decodeMmac, extract_append_low (m := 23) (n := 2),
    extract_append_high (m := 23) (n := 2), extract_append_low (m := 21) (n := 2), extract_append_high (m := 21) (n := 2),
    extract_append_low (m := 15) (n := 6), extract_append_high (m := 15) (n := 6), extract_append_low (m := 9) (n := 6),
    extract_append_high (m := 9) (n := 6), Nat.reduceAdd, Nat.reduceSub]

theorem hinit h a sz n : Statement (.hinit h a sz n) := by
  intro f hi w h
  cases h
  simp (disch := decide) [decodeFields, mkFields, ifZero, d0, decodeHandle, extract_append_low (m := 19) (n := 6),
    extract_append_high (m := 19) (n := 6), extract_append_low (m := 6) (n := 13), extract_append_high (m := 6) (n := 13),
    Nat.reduceAdd, Nat.reduceSub]

theorem hwaitf h n : Statement (.hwaitf h n) := by
  intro f hi w h
  cases h
  simp (disch := decide) [decodeFields, mkFields, ifZero, d0, a0, decodeHandle, extract_append_low (m := 18) (n := 7),
    extract_append_high (m := 18) (n := 7), Nat.reduceAdd]

theorem hwaite h n : Statement (.hwaite h n) := by
  intro f hi w h
  cases h
  simp (disch := decide) [decodeFields, mkFields, ifZero, d0, a0, decodeHandle, extract_append_low (m := 18) (n := 7),
    extract_append_high (m := 18) (n := 7), Nat.reduceAdd]

theorem hadv h n : Statement (.hadv h n) := by
  intro f hi w h
  cases h
  simp (disch := decide) [decodeFields, mkFields, ifZero, d0, a0, decodeHandle, extract_append_low (m := 18) (n := 7),
    extract_append_high (m := 18) (n := 7), Nat.reduceAdd]

theorem hpub h n : Statement (.hpub h n) := by
  intro f hi w h
  cases h
  simp (disch := decide) [decodeFields, mkFields, ifZero, d0, a0, decodeHandle, extract_append_low (m := 18) (n := 7),
    extract_append_high (m := 18) (n := 7), Nat.reduceAdd]

theorem hexp h a sd : Statement (.hexp h a sd) := by
  intro f hi w h
  cases h
  simp (disch := decide) [decodeFields, mkFields, ifZero, d0, xC, decodeHandle, extract_append_low (m := 19) (n := 6),
    extract_append_high (m := 19) (n := 6), Nat.reduceAdd]

theorem hst d h sd : Statement (.hst d h sd) := by
  intro f hi w h
  cases h
  simp (disch := decide) [decodeFields, mkFields, ifZero, a0, xC, decodeHandle, extract_append_low (m := 19) (n := 6),
    extract_append_high (m := 19) (n := 6), Nat.reduceAdd]

theorem gset gd a : Statement (.gset gd a) := by
  intro f hi w h
  cases h
  rfl

theorem gclr gd : Statement (.gclr gd) := by
  intro f hi w h
  cases h
  rfl

theorem gst d gd : Statement (.gst d gd) := by
  intro f hi w h
  cases h
  rfl

theorem lookup d a : Statement (.lookup d a) := by
  intro f hi w h
  cases h
  rfl

theorem tagw a b : Statement (.tagw a b) := by
  intro f hi w h
  cases h
  rfl

theorem taginvSlot a : Statement (.taginvSlot a) := by
  intro f hi w h
  cases h
  rfl

theorem taginvLine a : Statement (.taginvLine a) := by
  intro f hi w h
  cases h
  rfl

theorem rnew d a b c sl : Statement (.rnew d a b c sl) := by
  intro f hi w h
  cases h
  simp (disch := decide) [decodeFields, mkFields, cSlot, decodeRopeEdit, extract_append_low (m := 19) (n := 6),
    extract_append_high (m := 19) (n := 6), extract_append_low (m := 17) (n := 2), extract_append_high (m := 17) (n := 2),
    Nat.reduceAdd, Nat.reduceSub]

theorem rcat d a b c : Statement (.rcat d a b c) := by
  intro f hi w h
  cases h
  simp (disch := decide) [decodeFields, mkFields, onlyC, xC, decodeRopeEdit, extract_append_low (m := 19) (n := 6),
    extract_append_high (m := 19) (n := 6), Nat.reduceAdd]

theorem rsplit d a b c : Statement (.rsplit d a b c) := by
  intro f hi w h
  cases h
  simp (disch := decide) [decodeFields, mkFields, onlyC, xC, decodeRopeEdit, extract_append_low (m := 19) (n := 6),
    extract_append_high (m := 19) (n := 6), Nat.reduceAdd]

theorem rsplice d a b c : Statement (.rsplice d a b c) := by
  intro f hi w h
  cases h
  simp (disch := decide) [decodeFields, mkFields, onlyC, xC, decodeRopeEdit, extract_append_low (m := 19) (n := 6),
    extract_append_high (m := 19) (n := 6), Nat.reduceAdd]

theorem rapp d a b c sl : Statement (.rapp d a b c sl) := by
  intro f hi w h
  cases h
  simp (disch := decide) [decodeFields, mkFields, cSlot, decodeRopeEdit, extract_append_low (m := 19) (n := 6),
    extract_append_high (m := 19) (n := 6), extract_append_low (m := 17) (n := 2), extract_append_high (m := 17) (n := 2),
    Nat.reduceAdd, Nat.reduceSub]

theorem ridx d a b : Statement (.ridx d a b) := by
  intro f hi w h
  cases h
  rfl

theorem rsum d a b sl : Statement (.rsum d a b sl) := by
  intro f hi w h
  cases h
  simp (disch := decide) [decodeFields, mkFields, ifZero, decodeRopeQuery, extract_append_low (m := 23) (n := 2),
    extract_append_high (m := 23) (n := 2), Nat.reduceAdd]

theorem rlen d a : Statement (.rlen d a) := by
  intro f hi w h
  cases h
  rfl

theorem rwalk d a b : Statement (.rwalk d a b) := by
  intro f hi w h
  cases h
  rfl

theorem rvalidChk d a b sl : Statement (.rvalidChk d a b sl) := by
  intro f hi w h
  cases h
  simp (disch := decide) [decodeFields, mkFields, ifZero, decodeRopeQuery, extract_append_low (m := 23) (n := 2),
    extract_append_high (m := 23) (n := 2), Nat.reduceAdd, Nat.reduceSub]

theorem rvalidFix d a b sl : Statement (.rvalidFix d a b sl) := by
  intro f hi w h
  cases h
  simp (disch := decide) [decodeFields, mkFields, ifZero, decodeRopeQuery, extract_append_low (m := 23) (n := 2),
    extract_append_high (m := 23) (n := 2), Nat.reduceAdd, Nat.reduceSub]

theorem rtake d a : Statement (.rtake d a) := by
  intro f hi w h
  cases h
  rfl

theorem rpub d a b : Statement (.rpub d a b) := by
  intro f hi w h
  cases h
  simp [decodeFields, mkFields, decodeRopeRef, ifZero]

theorem rpubCmp d a b c : Statement (.rpubCmp d a b c) := by
  intro f hi w h
  cases h
  simp (disch := decide) [decodeFields, mkFields, decodeRopeRef, extract_append_low (m := 19) (n := 6),
    extract_append_high (m := 19) (n := 6), Nat.reduceAdd]

theorem rrel a : Statement (.rrel a) := by
  intro f hi w h
  cases h
  rfl

theorem rdecl sl a : Statement (.rdecl sl a) := by
  intro f hi w h
  cases h
  simp (disch := decide) [decodeFields, mkFields, ifZero, d0, b0, decodeRopeRef, extract_append_low (m := 23) (n := 2),
    extract_append_high (m := 23) (n := 2), Nat.reduceAdd]

theorem amsend a b c : Statement (.amsend a b c) := by
  intro f hi w h
  cases h
  simp (disch := decide) [decodeFields, mkFields, ifZero, onlyC, d0, xC, decodeAmsg, extract_append_low (m := 19) (n := 6),
    extract_append_high (m := 19) (n := 6), Nat.reduceAdd]

theorem amreply a : Statement (.amreply a) := by
  intro f hi w h
  cases h
  rfl

theorem amret : Statement (.amret) := by
  intro f hi w h
  cases h
  rfl

theorem rsst wc a b c : Statement (.rsst wc a b c) := by
  intro f hi w h
  cases h
  simp (disch := decide) [decodeFields, mkFields, ifZero, d0, decodeAmsg, extract_append_low (m := 19) (n := 6),
    extract_append_high (m := 19) (n := 6), extract_append_low (m := 16) (n := 3), extract_append_high (m := 16) (n := 3),
    Nat.reduceAdd, Nat.reduceSub]

theorem ramo aop sz a b c : Statement (.ramo aop sz a b c) := by
  intro f hi w h
  cases h
  simp (disch := decide) [decodeFields, mkFields, ifZero, d0, decodeAmsg, extract_append_low (m := 19) (n := 6),
    extract_append_high (m := 19) (n := 6), extract_append_low (m := 15) (n := 4), extract_append_high (m := 15) (n := 4),
    extract_append_low (m := 14) (n := 1), extract_append_high (m := 14) (n := 1), Nat.reduceAdd, Nat.reduceSub]

theorem role d : Statement (.role d) := by
  intro f hi w h
  cases h
  rfl

theorem recast a c : Statement (.recast a c) := by
  intro f hi w h
  cases h
  simp (disch := decide) [decodeFields, mkFields, ifZero, d0, b0, decodeRole, extract_append_low (m := 22) (n := 3),
    extract_append_high (m := 22) (n := 3), Nat.reduceAdd]

theorem cew ix a : Statement (.cew ix a) := by
  intro f hi w h
  cases h
  simp (disch := decide) [decodeFields, mkFields, ifZero, d0, b0, decodeCopy, extract_append_low (m := 21) (n := 4),
    extract_append_high (m := 21) (n := 4), Nat.reduceAdd]

theorem cer d ix : Statement (.cer d ix) := by
  intro f hi w h
  cases h
  simp (disch := decide) [decodeFields, mkFields, ifZero, a0, b0, decodeCopy, extract_append_low (m := 21) (n := 4),
    extract_append_high (m := 21) (n := 4), Nat.reduceAdd]

theorem celaunch d : Statement (.celaunch d) := by
  intro f hi w h
  cases h
  rfl

theorem cewait d a : Statement (.cewait d a) := by
  intro f hi w h
  cases h
  rfl

theorem cepoll d a : Statement (.cepoll d a) := by
  intro f hi w h
  cases h
  rfl

theorem prq p d a : Statement (.prq p d a) := by
  intro f hi w h
  cases h
  simp (disch := decide) [decodeFields, mkFields, ifZero, b0, decodePress, extract_append_low (m := 22) (n := 3),
    extract_append_high (m := 22) (n := 3), Nat.reduceAdd]

theorem prget d a : Statement (.prget d a) := by
  intro f hi w h
  cases h
  rfl

theorem tkpair p d a b : Statement (.tkpair p d a b) := by
  intro f hi w h
  cases h
  simp (disch := decide) [decodeFields, mkFields, ifZero, decodePress, extract_append_low (m := 22) (n := 3),
    extract_append_high (m := 22) (n := 3), Nat.reduceAdd]

theorem tkhash p d a b : Statement (.tkhash p d a b) := by
  intro f hi w h
  cases h
  simp (disch := decide) [decodeFields, mkFields, ifZero, decodePress, extract_append_low (m := 22) (n := 3),
    extract_append_high (m := 22) (n := 3), Nat.reduceAdd]

theorem tkemit p d a b : Statement (.tkemit p d a b) := by
  intro f hi w h
  cases h
  simp (disch := decide) [decodeFields, mkFields, ifZero, decodePress, extract_append_low (m := 22) (n := 3),
    extract_append_high (m := 22) (n := 3), Nat.reduceAdd]

theorem tkemitFlush p d b : Statement (.tkemitFlush p d b) := by
  intro f hi w h
  cases h
  simp (disch := decide) [decodeFields, mkFields, ifZero, a0, decodePress, extract_append_low (m := 22) (n := 3),
    extract_append_high (m := 22) (n := 3), Nat.reduceAdd]

theorem stopld i a b : Statement (.stopld i a b) := by
  intro f hi w h
  cases h
  simp (disch := decide) [decodeFields, mkFields, ifZero, d0, decodePress, extract_append_low (m := 21) (n := 4),
    extract_append_high (m := 21) (n := 4), Nat.reduceAdd]

theorem vmaskl d a b c m : Statement (.vmaskl d a b c m) := by
  intro f hi w h
  cases h
  simp [decodeFields, mkFields, ifZero, vec, splitRrr_xV, decodePress]

theorem nspawn d a : Statement (.nspawn d a) := by
  intro f hi w h
  cases h
  rfl

theorem nend : Statement (.nend) := by
  intro f hi w h
  cases h
  rfl

theorem ndepAdd d a : Statement (.ndepAdd d a) := by
  intro f hi w h
  cases h
  rfl

theorem ndepSub d a : Statement (.ndepSub d a) := by
  intro f hi w h
  cases h
  rfl

theorem nprio d a b : Statement (.nprio d a b) := by
  intro f hi w h
  cases h
  rfl

theorem nqry d a q : Statement (.nqry d a q) := by
  intro f hi w h
  cases h
  simp (disch := decide) [decodeFields, mkFields, ifZero, b0, decodeGraph, extract_append_low (m := 21) (n := 4),
    extract_append_high (m := 21) (n := 4), Nat.reduceAdd]

theorem cddef d a k : Statement (.cddef d a k) := by
  intro f hi w h
  cases h
  simp (disch := decide) [decodeFields, mkFields, ifZero, b0, decodeCadence, extract_append_low (m := 22) (n := 3),
    extract_append_high (m := 22) (n := 3), Nat.reduceAdd]

theorem cdsweep d a : Statement (.cdsweep d a) := by
  intro f hi w h
  cases h
  rfl

theorem cdnext d : Statement (.cdnext d) := by
  intro f hi w h
  cases h
  rfl

theorem cdpost a b : Statement (.cdpost a b) := by
  intro f hi w h
  cases h
  rfl

theorem cdread d a : Statement (.cdread d a) := by
  intro f hi w h
  cases h
  rfl

theorem cdpin a b : Statement (.cdpin a b) := by
  intro f hi w h
  cases h
  rfl

theorem sealCore a : Statement (.sealCore a) := by
  intro f hi w h
  cases h
  rfl

theorem errsend a b : Statement (.errsend a b) := by
  intro f hi w h
  cases h
  rfl

theorem scanrun d a : Statement (.scanrun d a) := by
  intro f hi w h
  cases h
  rfl

theorem quar a b : Statement (.quar a b) := by
  intro f hi w h
  cases h
  rfl

theorem suspr d a : Statement (.suspr d a) := by
  intro f hi w h
  cases h
  rfl

theorem susprW d a b : Statement (.susprW d a b) := by
  intro f hi w h
  cases h
  rfl

theorem tlbw a b : Statement (.tlbw a b) := by
  intro f hi w h
  cases h
  rfl

theorem tlbinv d a b m : Statement (.tlbinv d a b m) := by
  intro f hi w h
  cases h
  simp (disch := decide) [decodeFields, mkFields, ifZero, decodeXlat, extract_append_low (m := 23) (n := 2),
    extract_append_high (m := 23) (n := 2), Nat.reduceAdd]

theorem harvest d c a : Statement (.harvest d c a) := by
  intro f hi w h
  cases h
  simp (disch := decide) [decodeFields, mkFields, ifZero, onlyC, b0, xC, decodeXlat, extract_append_low (m := 19) (n := 6),
    extract_append_high (m := 19) (n := 6), Nat.reduceAdd]

theorem tlbr d c a : Statement (.tlbr d c a) := by
  intro f hi w h
  cases h
  simp (disch := decide) [decodeFields, mkFields, ifZero, onlyC, b0, xC, decodeXlat, extract_append_low (m := 19) (n := 6),
    extract_append_high (m := 19) (n := 6), Nat.reduceAdd]

theorem clred d a : Statement (.clred d a) := by
  intro f hi w h
  cases h
  rfl

theorem clgat d a : Statement (.clgat d a) := by
  intro f hi w h
  cases h
  rfl

theorem clbar d a : Statement (.clbar d a) := by
  intro f hi w h
  cases h
  rfl

theorem clwait d a : Statement (.clwait d a) := by
  intro f hi w h
  cases h
  rfl

theorem dhalt a : Statement (.dhalt a) := by
  intro f hi w h
  cases h
  rfl

theorem drun a : Statement (.drun a) := by
  intro f hi w h
  cases h
  rfl

theorem drdr d a b : Statement (.drdr d a b) := by
  intro f hi w h
  cases h
  rfl

theorem dwrr a b c : Statement (.dwrr a b c) := by
  intro f hi w h
  cases h
  simp (disch := decide) [decodeFields, mkFields, ifZero, onlyC, d0, xC, decodeDebug, extract_append_low (m := 19) (n := 6),
    extract_append_high (m := 19) (n := 6), Nat.reduceAdd]

theorem wdogExpiry x0 x1 : Statement (.wdogExpiry x0 x1) := by
  intro f hi w h
  cases h

theorem contextWaitEnd x0 x1 : Statement (.contextWaitEnd x0 x1) := by
  intro f hi w h
  cases h

theorem heldInstructionComplete x0 x1 : Statement (.heldInstructionComplete x0 x1) := by
  intro f hi w h
  cases h

theorem channelWordArrival x0 x1 : Statement (.channelWordArrival x0 x1) := by
  intro f hi w h
  cases h

theorem channelCreditReturn x0 x1 : Statement (.channelCreditReturn x0 x1) := by
  intro f hi w h
  cases h

theorem engineQueueHeadStart x0 x1 : Statement (.engineQueueHeadStart x0 x1) := by
  intro f hi w h
  cases h

theorem matrixStep x0 : Statement (.matrixStep x0) := by
  intro f hi w h
  cases h

theorem copyEnd x0 x1 x2 : Statement (.copyEnd x0 x1 x2) := by
  intro f hi w h
  cases h

theorem reductionApplyPhase x0 x1 : Statement (.reductionApplyPhase x0 x1) := by
  intro f hi w h
  cases h

theorem eventRecordEnter x0 : Statement (.eventRecordEnter x0) := by
  intro f hi w h
  cases h

theorem pressRequestComplete x0 x1 : Statement (.pressRequestComplete x0 x1) := by
  intro f hi w h
  cases h

theorem ropeEditCommit x0 : Statement (.ropeEditCommit x0) := by
  intro f hi w h
  cases h

theorem amArrival x0 : Statement (.amArrival x0) := by
  intro f hi w h
  cases h

theorem amHandlerStart x0 : Statement (.amHandlerStart x0) := by
  intro f hi w h
  cases h

theorem builtinStore x0 : Statement (.builtinStore x0) := by
  intro f hi w h
  cases h

theorem builtinAtomic x0 : Statement (.builtinAtomic x0) := by
  intro f hi w h
  cases h

theorem builtinLoad x0 : Statement (.builtinLoad x0) := by
  intro f hi w h
  cases h

theorem amReplyArrival x0 : Statement (.amReplyArrival x0) := by
  intro f hi w h
  cases h

theorem tasteRetain x0 : Statement (.tasteRetain x0) := by
  intro f hi w h
  cases h

theorem ropeEditStart x0 : Statement (.ropeEditStart x0) := by
  intro f hi w h
  cases h

theorem dryNotice x0 x1 : Statement (.dryNotice x0 x1) := by
  intro f hi w h
  cases h

theorem copyReplay x0 x1 x2 : Statement (.copyReplay x0 x1 x2) := by
  intro f hi w h
  cases h

theorem refcntUpdateArrival x0 : Statement (.refcntUpdateArrival x0) := by
  intro f hi w h
  cases h

theorem reclaimEngineStep x0 : Statement (.reclaimEngineStep x0) := by
  intro f hi w h
  cases h

theorem ropeCacheDrop x0 : Statement (.ropeCacheDrop x0) := by
  intro f hi w h
  cases h

theorem poolReturn x0 : Statement (.poolReturn x0) := by
  intro f hi w h
  cases h

theorem nodeRestart x0 x1 x2 x3 : Statement (.nodeRestart x0 x1 x2 x3) := by
  intro f hi w h
  cases h

theorem twinCompare x0 x1 x2 : Statement (.twinCompare x0 x1 x2) := by
  intro f hi w h
  cases h

theorem twinSilenceTimeout x0 x1 x2 : Statement (.twinSilenceTimeout x0 x1 x2) := by
  intro f hi w h
  cases h

theorem launchHandout : Statement (.launchHandout) := by
  intro f hi w h
  cases h

theorem passDispatch x0 : Statement (.passDispatch x0) := by
  intro f hi w h
  cases h

theorem tileArrival x0 : Statement (.tileArrival x0) := by
  intro f hi w h
  cases h

theorem dieReport x0 x1 : Statement (.dieReport x0 x1) := by
  intro f hi w h
  cases h

theorem scoreDecay x0 : Statement (.scoreDecay x0) := by
  intro f hi w h
  cases h

theorem scanAbort x0 : Statement (.scanAbort x0) := by
  intro f hi w h
  cases h

theorem scanComplete x0 x1 : Statement (.scanComplete x0 x1) := by
  intro f hi w h
  cases h

theorem sccServiceScan x0 x1 : Statement (.sccServiceScan x0 x1) := by
  intro f hi w h
  cases h

theorem mapChangeInstall : Statement (.mapChangeInstall) := by
  intro f hi w h
  cases h

theorem mapDrainComplete : Statement (.mapDrainComplete) := by
  intro f hi w h
  cases h

theorem translationRequest x0 : Statement (.translationRequest x0) := by
  intro f hi w h
  cases h

theorem translationAnswer x0 x1 : Statement (.translationAnswer x0 x1) := by
  intro f hi w h
  cases h

theorem harvestTimerExpiry x0 : Statement (.harvestTimerExpiry x0) := by
  intro f hi w h
  cases h

theorem memoryRefresh x0 x1 : Statement (.memoryRefresh x0 x1) := by
  intro f hi w h
  cases h

theorem incarnationIncrease x0 : Statement (.incarnationIncrease x0) := by
  intro f hi w h
  cases h

theorem incarnationSweep x0 x1 : Statement (.incarnationSweep x0 x1) := by
  intro f hi w h
  cases h

theorem remoteAccess x0 x1 x2 x3 : Statement (.remoteAccess x0 x1 x2 x3) := by
  intro f hi w h
  cases h

theorem fabricLaunch x0 x1 x2 : Statement (.fabricLaunch x0 x1 x2) := by
  intro f hi w h
  cases h

theorem collectiveComplete x0 x1 x2 : Statement (.collectiveComplete x0 x1 x2) := by
  intro f hi w h
  cases h

theorem collectiveTimeout x0 x1 : Statement (.collectiveTimeout x0 x1) := by
  intro f hi w h
  cases h

theorem linkPortFail x0 : Statement (.linkPortFail x0) := by
  intro f hi w h
  cases h

theorem hostSlotWrite x0 x1 x2 : Statement (.hostSlotWrite x0 x1 x2) := by
  intro f hi w h
  cases h

theorem launch x0 x1 x2 : Statement (.launch x0 x1 x2) := by
  intro f hi w h
  cases h

theorem sync x0 x1 : Statement (.sync x0 x1) := by
  intro f hi w h
  cases h

theorem health x0 : Statement (.health x0) := by
  intro f hi w h
  cases h

theorem wear x0 x1 x2 : Statement (.wear x0 x1 x2) := by
  intro f hi w h
  cases h

theorem hackWrite x0 x1 : Statement (.hackWrite x0 x1) := by
  intro f hi w h
  cases h

theorem moduleMessageSend x0 : Statement (.moduleMessageSend x0) := by
  intro f hi w h
  cases h

theorem apertureWrite x0 x1 x2 : Statement (.apertureWrite x0 x1 x2) := by
  intro f hi w h
  cases h

theorem apertureRead x0 x1 x2 : Statement (.apertureRead x0 x1 x2) := by
  intro f hi w h
  cases h

theorem coldBoot x0 : Statement (.coldBoot x0) := by
  intro f hi w h
  cases h

theorem moduleReset : Statement (.moduleReset) := by
  intro f hi w h
  cases h

theorem dieFail x0 : Statement (.dieFail x0) := by
  intro f hi w h
  cases h

theorem thermalPause x0 : Statement (.thermalPause x0) := by
  intro f hi w h
  cases h

theorem nvmeDriveFail x0 : Statement (.nvmeDriveFail x0) := by
  intro f hi w h
  cases h

theorem powerLoss : Statement (.powerLoss) := by
  intro f hi w h
  cases h

theorem scorePersist : Statement (.scorePersist) := by
  intro f hi w h
  cases h

theorem wearPersist : Statement (.wearPersist) := by
  intro f hi w h
  cases h

theorem wearCountTick x0 x1 x2 : Statement (.wearCountTick x0 x1 x2) := by
  intro f hi w h
  cases h

theorem parkRequest : Statement (.parkRequest) := by
  intro f hi w h
  cases h

theorem parkEntry : Statement (.parkEntry) := by
  intro f hi w h
  cases h

theorem sleepRequest : Statement (.sleepRequest) := by
  intro f hi w h
  cases h

theorem sleepEntry : Statement (.sleepEntry) := by
  intro f hi w h
  cases h

theorem resume : Statement (.resume) := by
  intro f hi w h
  cases h

theorem getVersion x0 x1 : Statement (.getVersion x0 x1) := by
  intro f hi w h
  cases h

theorem getCapabilities x0 x1 : Statement (.getCapabilities x0 x1) := by
  intro f hi w h
  cases h

theorem negotiateAlgorithms x0 x1 : Statement (.negotiateAlgorithms x0 x1) := by
  intro f hi w h
  cases h

theorem getDigests x0 x1 : Statement (.getDigests x0 x1) := by
  intro f hi w h
  cases h

theorem getCertificate x0 x1 : Statement (.getCertificate x0 x1) := by
  intro f hi w h
  cases h

theorem challenge x0 x1 : Statement (.challenge x0 x1) := by
  intro f hi w h
  cases h

theorem getMeasurements x0 x1 : Statement (.getMeasurements x0 x1) := by
  intro f hi w h
  cases h

theorem keyExchange x0 x1 : Statement (.keyExchange x0 x1) := by
  intro f hi w h
  cases h

theorem finish x0 x1 : Statement (.finish x0 x1) := by
  intro f hi w h
  cases h

theorem endSession x0 x1 : Statement (.endSession x0 x1) := by
  intro f hi w h
  cases h

theorem dbgnonce x0 : Statement (.dbgnonce x0) := by
  intro f hi w h
  cases h

theorem dbgauth x0 x1 : Statement (.dbgauth x0 x1) := by
  intro f hi w h
  cases h

theorem dbgend x0 : Statement (.dbgend x0) := by
  intro f hi w h
  cases h

theorem keycreate x0 : Statement (.keycreate x0) := by
  intro f hi w h
  cases h

theorem keydestroy x0 : Statement (.keydestroy x0) := by
  intro f hi w h
  cases h

theorem fwrecover x0 x1 : Statement (.fwrecover x0 x1) := by
  intro f hi w h
  cases h

theorem advance x0 x1 : Statement (.advance x0 x1) := by
  intro f hi w h
  cases h

theorem linkPortRetrain x0 : Statement (.linkPortRetrain x0) := by
  intro f hi w h
  cases h

end RoundTrip
end Sys2Proof.Laws
end

