-- ==== Sys2Proof/Tests/Slice0.lean ====
section
/-!
SUPPORT. Tests: words of the spec decoded, ill-formed terms refused, small steps with results worked out from the rules by hand, and for
each statement with hypotheses a state and operands that meet them.
-/
open Sys2Proof Sys2Proof.Machine

namespace Sys2Proof.Tests

-- One test after another: a test that the kernel evaluates otherwise keeps a thread until every theorem before it has been checked.
set_option Elab.async false

/-! ### Small states -/

/-- A context of a slot with some scalars. -/
def ctxG (g : List (Nat × Word)) : Ctx := { live := true, winV := true, winSize := 3#2, g := ⟨g⟩ }
/-- A core whose control context holds some scalars. -/
def coreG (g : List (Nat × Word)) : Core := { bar := { ctxs := ⟨[(0, ctxG g)]⟩ } }
/-- A module in RUN whose core 0 is given, its control context on turn. -/
def stC (c : Core) : State := { cores := ⟨[(0, c)]⟩, mod := { power := .run, phase := .ready } }
/-- A module in RUN whose core 0 has a control context with some scalars. -/
def stG (g : List (Nat × Word)) : State := stC (coreG g)
/-- The same on the service core of cluster 0. -/
def stS (g : List (Nat × Word)) : State :=
  { cores := ⟨[(9, coreG g)]⟩, cur := 9, mod := { power := .run, phase := .ready } }
/-- A core whose code image holds an instruction. -/
def coreI (i : Instr) : Core := { coreG [] with code := Mem.writeBytes [] 0 (encodeBytes 0#4 i), codeLen := 32 }
/-- A state whose agenda gives slot 0 of core 0 the turn. -/
def turnS (c : Core) : State := { stC c with agenda := [.issue 0 0] }
/-- A run of node 0 of launch 0. -/
def run0 : Run := { launch := 0, node := 0, kind := .original, wire := 0x803DE000#32, part := 0, gen := 0#16, tasted := false, twin := false }
/-- A scalar of core 0's control context after an outcome; 0 where it is no next state. -/
def gOf (o : Out) (r : Nat) : Word :=
  match o with
  | .next t => t.me.rg r
  | _ => 0xDEAD#64
/-- A predicate after an outcome. -/
def pOf (o : Out) (r : Nat) : Bool :=
  match o with
  | .next t => t.me.rp r
  | _ => false
/-- The pc after an outcome. -/
def pcOf (o : Out) : Word :=
  match o with
  | .next t => t.me.pc
  | _ => 0xDEAD#64
/-- ECAUSE and EVAL after an outcome. -/
def trapOf (o : Out) : Word × Word :=
  match o with
  | .next t => (t.me.ecause, t.me.eval)
  | _ => (0#64, 0#64)

/-! ### Words of the spec, decoded: the encoding examples of the rules, bit by bit from their field tables -/

/-- R77: `SUB g3, g4, g5`. -/
theorem test_word_sub : decode false false (leBytes 8 0x0000000045103004) = .ok ⟨0#4, .sub 3#6 4#6 5#6⟩ := by rfl
/-- R80: `(!p2) CMP.ltu p1, g6, g7`. -/
theorem test_word_cmp : decode false false (leBytes 8 0x0000020007181A10) = .ok ⟨0b1010#4, .cmp 4#6 1#6 6#6 7#6⟩ := by rfl
/-- R80: `CMPI.lt p2, g9, -3`. -/
theorem test_word_cmpi : decode false false (leBytes 8 0xFFFFE90040242010) = .ok ⟨0#4, .cmpi 2#4 2#6 9#6 (-3)⟩ := by rfl
/-- R82: `BFX g4, g5, 8, 12`. -/
theorem test_word_bfx : decode false false (leBytes 8 0x0001640100144014) = .ok ⟨0#4, .bfx 4#6 5#6 8#6 11#6⟩ := by rfl
/-- R84: `MOVHI g5, 0x0123_4567`, word 0 and IMM32. -/
theorem test_word_movhi :
    decode false false (leBytes 8 0x0000000040005019 ++ leBytes 4 0x01234567) = .ok ⟨0#4, .movhi 5#6 0x01234567#32⟩ := by rfl
/-- R87: `LDX.s32 g8, (g30, g2), ord=acq`. -/
theorem test_word_ldx :
    decode false false (leBytes 8 0x070001004078801C) = .ok ⟨0#4, .ldx 8#6 30#6 2#6 ⟨2#2, 1#1, 1#2⟩⟩ := by rfl
/-- R92: `TRAP 0x42`. -/
theorem test_word_trap : decode false false (leBytes 8 0x0000210040000000) = .ok ⟨0#4, .trap 0x42#25⟩ := by rfl
/-- R94: `SYSR g4, EVAL`. -/
theorem test_word_sysr : decode false false (leBytes 8 0x0000098100004000) = .ok ⟨0#4, .sysr 4#6 0x013#12⟩ := by rfl
/-- R99: `CALL func`, 32 instructions' words on. -/
theorem test_word_call : decode false false (leBytes 8 0x000010004000002C) = .ok ⟨0#4, .call 32#25⟩ := by rfl
/-- R102: `HSTART p1, g5, g6, worker, 12`. -/
theorem test_word_hstart : decode false false (leBytes 8 0x0001C08041185034) = .ok ⟨0#4, .hstart 1#3 5#6 6#6 1#6 112#22⟩ := by rfl
/-- R140: `VCVT.f32.e4m3.rne.sat v4, v2, 1, 0`. -/
theorem test_word_vcvt :
    decode false false (leBytes 8 0x0008A0000408404C) = .ok ⟨0#4, .vcvt 0#6 4#6 2#6 1#2 0#2 ⟨5#3, 0#3, 1#1, 0#3, 0#3, 0#1⟩⟩ := by rfl
/-- R146: `VGATH v5, g9, v11, mask=k3.z`. -/
theorem test_word_vgath :
    decode false false (leBytes 8 0x058000010B245058) = .ok ⟨0#4, .vgath 5#6 9#6 11#6 ⟨0#3, 0#3, 0#1, 0#3, 3#3, 1#1⟩⟩ := by rfl
/-- R37: `TMM acc2, g4, g5, m=32, n=64, k=256, dira=row, dirb=col, guard=!gd3`, word 0 and descriptor. -/
theorem test_word_tmm :
    decode false false (leBytes 8 0x00002000C5100062 ++ leBytes 8 0x0000000A3FFFFA13) =
      .ok ⟨0#4, .tmm 4#6 5#6 ⟨1#3, 0#3, 0#1, 0#3, 0#3, 0#1⟩
        ⟨0#17, 0#1, 0#3, 0#3, 0#2, 2#2, 1#1, 0#1, 255#10, 63#6, 31#5, 0#1, 1#1, 0#4, 1#1, 3#4⟩⟩ := by rfl
/-- R169: `HWAITF h3, 2`. -/
theorem test_word_hwaitf : decode false false (leBytes 8 0x0000010043000070) = .ok ⟨0#4, .hwaitf 3#6 2#7⟩ := by rfl
/-- R173: `AMO.add g4, g5, 16(g6), ord=rel`. -/
theorem test_word_amo :
    decode false false (leBytes 8 0x1980080005184024) = .ok ⟨0#4, .amo 1#4 4#6 5#6 6#6 ⟨3#2, 0#1, 2#2⟩ 16#16⟩ := by rfl
/-- R39, R40: the fetch-control words PAD and POOL 1. -/
theorem test_word_pad : decode false false (leBytes 4 0x00000003) = .ok ⟨0#4, .pad⟩ := by rfl
/-- R39, R40: POOL 1 is 0x0000_0003 + 0x4 + 0x100. -/
theorem test_word_pool : decode false false (leBytes 4 0x00000107) = .ok ⟨0#4, .pool 1#8⟩ := by rfl
/-- R93: ERET at level U is refused as privileged. -/
theorem test_word_eret_level_u : (match decode false false (leBytes 8 0x00000000C0100000) with
    | .error e => e.isPriv
    | .ok _ => false) = true := by rfl

/-- R147: `VLDL.i32 v9, =…` with its literal 0x40 bytes on. -/
theorem test_word_vldl :
    decode false false (leBytes 8 0x0000400100009019 ++ leBytes 4 0x40) = .ok ⟨0#4, .vldl 9#6 2#3 0x40#32⟩ := by rfl

/-! ### Ill-formed terms, one for each check -/

/-- A plain MOD of a type. -/
def md (ty : BitVec 3) : VMod := ⟨ty, 0#3, 0#1, 0#3, 0#3, 0#1⟩
/-- A descriptor that names nothing. -/
def ed : EDesc :=
  { base := 0#17, mc := 0#1, plb := 0#3, pla := 0#3, lat := 0#2, acc := 0#2, dirb := 0#1, dira := 0#1, tk := 0#10, tn := 0#6, tm := 0#5,
    he := 0#1, ge := 0#1, hnd := 0#4, gs := 0#1, gsl := 0#4 }

/-- The operand codes of R28, the counts and the codes of each entry. -/
theorem test_wf_refuses_codes :
    ([.pool 0#8, .eret 32#6, .sysr 1#6 0x003#12, .sysw 0x060#12 1#6, .evpop 4#6 4#6, .add 33#6 1#6 2#6, .add 1#6 34#6 2#6,
      .add 36#6 1#6 2#6, .sel 1#6 2#6 3#6 8#6, .cmp 10#6 1#6 2#6 3#6, .cmp 0#6 8#6 2#6 3#6, .cmpi 10#4 1#6 2#6 0#21, .pand 1#6 8#6 2#6,
      .bfx 1#6 2#6 60#6 4#6, .bfi 34#6 2#6 0#6 4#6, .movhi 34#6 0#32, .vldl 48#6 0#3 0#32, .vldl 1#6 1#3 0#32,
      .ld 1#6 2#6 ⟨3#2, 1#1, 0#2⟩ 0#16, .ld 1#6 2#6 ⟨0#2, 0#1, 2#2⟩ 0#16, .ldx 1#6 2#6 32#6 ⟨0#2, 0#1, 0#2⟩,
      .st 1#6 2#6 ⟨0#2, 1#1, 0#2⟩ 0#16, .st 1#6 2#6 ⟨0#2, 0#1, 1#2⟩ 0#16, .amo 9#4 1#6 2#6 3#6 ⟨3#2, 0#1, 0#2⟩ 0#16,
      .amo 0#4 1#6 2#6 3#6 ⟨1#2, 0#1, 0#2⟩ 0#16, .fence 3#2 0#3, .fence 0#2 6#3, .loop 0#6 0#25, .hstart 0#3 1#6 2#6 4#6 0#22,
      .fork 8#6 1#6 0#6 0#25, .joinw 8#6] : List Instr).all (fun i => !i.wf) = true := by decide

/-- The MOD fields of R30, the descriptors of R36 and R37, and the codes of the engine groups. -/
theorem test_wf_refuses_modes :
    ([.vadd 1#6 2#6 3#6 (md 5#3), .vadd 1#6 2#6 3#6 ⟨0#3, 5#3, 0#1, 0#3, 0#3, 0#1⟩, .vadd 1#6 2#6 3#6 ⟨0#3, 0#3, 0#1, 4#3, 0#3, 0#1⟩,
      .vadd 1#6 2#6 3#6 ⟨0#3, 0#3, 0#1, 0#3, 0#3, 1#1⟩, .vand 1#6 2#6 3#6 ⟨0#3, 1#3, 0#1, 0#3, 0#3, 0#1⟩,
      .vand 1#6 2#6 3#6 ⟨0#3, 0#3, 1#1, 0#3, 0#3, 0#1⟩, .vredadd 1#6 2#6 ⟨0#3, 0#3, 0#1, 0#3, 1#3, 1#1⟩,
      .vcvt 0#6 1#6 2#6 0#2 0#2 (md 0#3), .vcvt 0#6 1#6 2#6 0#2 1#2 (md 1#3), .vsel 1#6 2#6 3#6 8#6 (md 0#3),
      .vcmp 4#6 1#6 2#6 3#6 (md 0#3), .rotapp 1#6 2#6 3#6 8#6 (md 0#3),
      .tmm 4#6 5#6 (md 7#3) ed, .tmm 4#6 5#6 (md 1#3) { ed with base := 8#17 }, .tmm 4#6 5#6 (md 1#3) { ed with gsl := 3#4 },
      .mepi 4#6 (md 1#3) { ed with tk := 1#10 }, .latch 4#6 1#6 (md 1#3) ed, .mma 4#6 0#6 2#6 (md 1#3), .mma 0#6 2#6 2#6 (md 1#3),
      .mcfg 3#2 0#2 0#6 0#6, .hwaitf 16#6 1#7, .gset 16#6 1#6, .rsst 7#3 1#6 2#6 3#6, .ramo 9#4 0#1 1#6 2#6 3#6,
      .cew 11#4 1#6, .nqry 1#6 2#6 8#4, .tlbinv 1#6 2#6 0#6 3#2, .tlbinv 1#6 2#6 0#6 1#2, .harvest 3#6 3#6 1#6,
      .passDispatch 8, .wear 17 0 1, .nvmeDriveFail 2] : List Instr).all (fun i => !i.wf) = true := by decide


/-! ### More words: one for each family that has an encoding example -/

/-- R203's family of ropes: `RSPLIT g4, g8, g9, g10`. -/
theorem test_word_rsplit : decode false false (leBytes 8 0x0000050089204080) = .ok ⟨0#4, .rsplit 4#6 8#6 9#6 10#6⟩ := by rfl
/-- `RSUM g4, g5, g6, 1`. -/
theorem test_word_rsum : decode false false (leBytes 8 0x0000008046144084) = .ok ⟨0#4, .rsum 4#6 5#6 6#6 1#2⟩ := by rfl
/-- R265: `NDEP.sub g4, g7`. -/
theorem test_word_ndepsub : decode false false (leBytes 8 0x00000080801C40A0) = .ok ⟨0#4, .ndepSub 4#6 7#6⟩ := by rfl
/-- R279: `CDDEF g4, g5, 2`. -/
theorem test_word_cddef : decode false false (leBytes 8 0x00000100001440A4) = .ok ⟨0#4, .cddef 4#6 5#6 2#3⟩ := by rfl
/-- R282: `CDPOST v3, g6`. -/
theorem test_word_cdpost : decode false false (leBytes 8 0x00000000C60C00A4) = .ok ⟨0#4, .cdpost 3#6 6#6⟩ := by rfl
/-- R319: `TLBW g4, g5`, an instruction of level S. -/
theorem test_word_tlbw : decode true false (leBytes 8 0x00000000051000AC) = .ok ⟨0#4, .tlbw 4#6 5#6⟩ := by rfl
/-- R373: `CLRED g9, g4`. -/
theorem test_word_clred : decode false false (leBytes 8 0x00000000001090B0) = .ok ⟨0#4, .clred 9#6 4#6⟩ := by rfl

/-! ### Small steps: results worked out from the rules and their examples -/

/-- R77: a difference wraps modulo 2^64. -/
theorem test_sub_wraps : gOf (exec (.sub 3#6 4#6 5#6) (stG [(5, 1#64)])) 3 = 0xFFFFFFFFFFFFFFFF#64 := by decide
/-- R77: a shift count of 64 gives 0, and SAR's gives the sign. -/
theorem test_shifts_of_64 :
    gOf (exec (.shl 3#6 4#6 5#6) (stG [(4, 3#64), (5, 64#64)])) 3 = 0#64 ∧
    gOf (exec (.sar 3#6 4#6 5#6) (stG [(4, 0x8000000000000000#64), (5, 64#64)])) 3 = 0xFFFFFFFFFFFFFFFF#64 := by decide
/-- R66: a write of g0 is discarded. -/
theorem test_g0 : gOf (exec (.add 0#6 4#6 4#6) (stG [(4, 3#64)])) 0 = 0#64 := by decide
/-- R79: division by 0 and of the most negative number by −1. -/
theorem test_div_corners :
    gOf (exec (.div 3#6 4#6 0#6) (stG [(4, 7#64)])) 3 = 0xFFFFFFFFFFFFFFFF#64 ∧
    gOf (exec (.div 3#6 4#6 5#6) (stG [(4, 0x8000000000000000#64), (5, 0xFFFFFFFFFFFFFFFF#64)])) 3 = 0x8000000000000000#64 ∧
    gOf (exec (.rem 3#6 4#6 5#6) (stG [(4, 0xFFFFFFFFFFFFFFF9#64), (5, 2#64)])) 3 = 0xFFFFFFFFFFFFFFFF#64 := by decide
/-- R79: the signed and the unsigned high half of −1 × −1. -/
theorem test_mulh :
    let s := stG [(4, 0xFFFFFFFFFFFFFFFF#64)]
    gOf (exec (.mulh 3#6 4#6 4#6) s) 3 = 0#64 ∧ gOf (exec (.mulhu 3#6 4#6 4#6) s) 3 = 0xFFFFFFFFFFFFFFFE#64 := by decide
/-- R80: −1 against 1, signed and unsigned. -/
theorem test_cmp :
    let s := stG [(6, 0xFFFFFFFFFFFFFFFF#64), (7, 1#64)]
    pOf (exec (.cmp 2#6 1#6 6#6 7#6) s) 1 = true ∧ pOf (exec (.cmp 4#6 1#6 6#6 7#6) s) 1 = false := by decide
/-- R82's example. -/
theorem test_bfx : gOf (exec (.bfx 4#6 5#6 8#6 11#6) (stG [(5, 0xABC123#64)])) 4 = 0xFFFFFFFFFFFFFBC1#64 := by decide
/-- R84's example. -/
theorem test_movi_movhi :
    gOf (exec (.movi 5#6 0x89ABCDEF#32) (stG [])) 5 = 0xFFFFFFFF89ABCDEF#64 ∧
    gOf (exec (.movhi 5#6 0x01234567#32) (stG [(5, 0xFFFFFFFF89ABCDEF#64)])) 5 = 0x0123456789ABCDEF#64 := by decide
/-- R88: a signed halfword from 0x400, lowest byte first. -/
theorem test_ld :
    let s := stC { coreG [(6, 0x400#64)] with sp := { mem := Mem.writeBytes [] 0x400 [0x34#8, 0x92#8] } }
    gOf (exec (.ld 3#6 6#6 ⟨1#2, 1#1, 0#2⟩ 0#16) s) 3 = 0xFFFFFFFFFFFF9234#64 := by decide +kernel
/-- R88: BOUNDS before ALIGN, with the address. -/
theorem test_ld_bounds_first :
    trapOf (exec (.ld 3#6 6#6 ⟨3#2, 0#1, 0#2⟩ 0#16) (stC { bar := { ctxs := ⟨[(0, { ctxG [(6, 0xC0001#64)] with tvec := 8#64 })]⟩ } })) =
      (4#64, 0xC0001#64) := by decide
/-- R88: a store of two bytes at 0x400. -/
theorem test_st :
    (match exec (.st 3#6 6#6 ⟨1#2, 0#1, 0#2⟩ 0#16) (stG [(3, 0x123456#64), (6, 0x400#64)]) with
      | .next t => t.here.sp.mem
      | _ => []) = [(0x400, 0x56#8), (0x401, 0x34#8)] := by decide +kernel
/-- R173: AMO.minu answers the old value and keeps the lesser. -/
theorem test_amo :
    let s := stC { coreG [(5, 9#64), (6, 0x400#64)] with sp := { mem := Mem.writeBytes [] 0x400 (leBytes 8 7) } }
    (match exec (.amo 7#4 4#6 5#6 6#6 ⟨3#2, 0#1, 0#2⟩ 0#16) s with
      | .next t => (t.me.rg 4, t.here.sp.mem.readLE 0x400 8)
      | _ => (0#64, 0)) = (7#64, 7) := by decide +kernel
/-- R99: LOOP goes on while its counter is not 1, and falls through at 1. -/
theorem test_loop :
    pcOf (exec (.loop 4#6 (-2)) (stC { bar := { ctxs := ⟨[(0, { ctxG [(4, 2#64)] with pc := 0x20#64 })]⟩ } })) = 0x18#64 ∧
    pcOf (exec (.loop 4#6 (-2)) (stC { bar := { ctxs := ⟨[(0, { ctxG [(4, 1#64)] with pc := 0x20#64 })]⟩ } })) = 0x28#64 := by decide
/-- R67's example: windows of 12, 6 and 48 registers lie at rows 8, 10 and 16, and a fourth request finds none. -/
theorem test_windows :
    let w : BitVec 2 → Nat → Ctx := fun z b => { live := true, winV := true, winSize := z, winBase := b }
    let c : Core := { bar := { ctxs := ⟨[(0, ctxG []), (1, w 1#2 8), (2, w 0#2 10), (3, w 3#2 16)]⟩ } }
    ({ bar := { ctxs := ⟨c.bar.ctxs.entries.take 1⟩ } } : Core).windowBase? 1 = some 8 ∧
    ({ bar := { ctxs := ⟨c.bar.ctxs.entries.take 2⟩ } } : Core).windowBase? 0 = some 10 ∧
    ({ bar := { ctxs := ⟨c.bar.ctxs.entries.take 3⟩ } } : Core).windowBase? 3 = some 16 ∧ c.windowBase? 3 = none ∧
    (w 0#2 10).phys 5 = 10 * 6 + 5 ∧ (w 3#2 16).phys 13 = 18 * 6 + 1 := by decide
/-- R102's example: the helper starts at 0x200 with its argument. -/
theorem test_hstart :
    let s := stC { bar := { ctxs := ⟨[(0, { ctxG [(6, 77#64)] with pc := 0x40#64 })]⟩ } }
    (match exec (.hstart 1#3 5#6 6#6 1#6 112#22) s with
      | .next t => ((t.here.ctx 1).pc, (t.here.ctx 1).rg 1, t.me.rg 5, t.me.rp 1)
      | _ => (0#64, 0#64, 0#64, false)) = (0x200#64, 77#64, 1#64, true) := by decide
/-- R63's example: the tree's sum of 2^24, 1, −2^24 and 1 is 1.0, with NX, bit 8 of FMODE. -/
theorem test_vredadd :
    let v : VReg := BitVec.ofNat 1024 (0x4B800000 + 0x3F800000 * 2 ^ 32 + 0xCB800000 * 2 ^ 64 + 0x3F800000 * 2 ^ 96)
    (match exec (.vredadd 2#6 1#6 (md 0#3)) (stC { coreG [] with un := { vfile := ⟨[(1, v)]⟩ } }) with
      | .next t => (elem 32 (t.here.rv 0 2) 0, elem 32 (t.here.rv 0 2) 1, t.me.fmode)
      | _ => (0, 0, 0#64)) = (0x3F800000, 0, 0x100#64) := by decide +kernel
/-- R59: 1.5 + 1.25 in one f32 lane is 2.75. -/
theorem test_vadd :
    let s := stC { coreG [] with un := { vfile := ⟨[(1, BitVec.ofNat 1024 0x3FC00000), (2, BitVec.ofNat 1024 0x3FA00000)]⟩ } }
    (match exec (.vadd 3#6 1#6 2#6 (md 0#3)) s with
      | .next t => elem 32 (t.here.rv 0 3) 0
      | _ => 0) = 0x40300000 := by decide +kernel
/-- R319's example: the words of a 2 MiB page of partition 2 are taken, and its address translates to stack 3's. -/
theorem test_tlbw :
    let e : TlbE := ⟨0xA400000700000000#64, 0xC000000000604000#64⟩
    tlbwBad e.w0 e.w1 = none ∧ e.part = 2 ∧ e.vaddr = 0x700000000 ∧ e.shift = 21 ∧ e.phys 0x700000010 = 0x6040000010 := by decide
/-- R240's example: two bytes are a zero token of a run, and a last single zero is the two bytes 00 00. -/
theorem test_encode_zero : encodeKind 1 (List.replicate 129 0#8) = [0xFF#8, 0#8, 0#8] := by decide +kernel
/-- R246's example: "lo E" against "END" and "ok!" leaves "E" held and writes three bytes. -/
theorem test_stop_string :
    let k : Matcher := { strs := ⟨[(0, [0x45#8, 0x4E#8, 0x44#8]), (1, [0x6F#8, 0x6B#8, 0x21#8])]⟩ }
    let r := ([0x6C#8, 0x6F#8, 0x20#8, 0x45#8] : List Byte).foldl emitByte (k, [])
    r.2 = [0x6C#8, 0x6F#8, 0x20#8] ∧ r.1.hold = [0x45#8] := by decide +kernel
/-- R306's example: two convictions of a core with score 0 bring it to 512 and set WATCH. -/
theorem test_scores :
    let s := (stG []).addScore 3 256
    (s.scoreOf 3).watch = false ∧ ((s.addScore 3 256).scoreOf 3).score = 512 ∧ ((s.addScore 3 256).scoreOf 3).watch = true := by decide
/-- A step from a state with a placed instruction runs it: SUB of registers that hold 0 moves the pc past its 8 bytes. -/
theorem test_step_runs :
    (match step (State.reset.withFetchWord 64 0x0000000045103004) with
      | .next t => t.me.pc
      | _ => 0#64) = 8#64 := by decide +kernel
/-! ### Witnesses: states and operands that meet the hypotheses of the statements -/

/-- The turn of a SUB. -/
theorem wit_StepRunsDecoded :
    let s := turnS (coreI (.sub 3#6 4#6 5#6))
    let t := s.turnOf [] 0 0
    s.agenda = .issue 0 0 :: [] ∧ 0 < numCores ∧ inRun s = true ∧ t.me.runnable = true ∧ t.WdogQuiet ∧
    t.me.pc.toNat < t.here.codeLen ∧ t.decoded = .ok ⟨0#4, .sub 3#6 4#6 5#6⟩ ∧ regwin t.me (.sub 3#6 4#6 5#6) = none :=
  ⟨rfl, by decide, rfl, rfl, .inr (by decide), by decide, rfl, rfl⟩

/-- PAD and POOL at the pc. -/
theorem wit_FetchControl :
    let s := turnS { coreG [] with code := Mem.writeBytes [] 0 (leBytes 4 3 ++ leBytes 4 0x107), codeLen := 32 }
    let u := turnS { { coreG [] with code := Mem.writeBytes [] 0 (leBytes 4 3 ++ leBytes 4 0x107), codeLen := 32 } with
      bar := { ctxs := ⟨[(0, { ctxG [] with pc := 4#64 })]⟩ } }
    (s.turnOf [] 0 0).me.runnable = true ∧ (s.turnOf [] 0 0).decoded = .ok ⟨0#4, .pad⟩ ∧
    (u.turnOf [] 0 0).me.runnable = true ∧ (u.turnOf [] 0 0).decoded = .ok ⟨0#4, .pool 1#8⟩ :=
  ⟨rfl, rfl, rfl, rfl⟩

/-- The pc past the image; a reserved word, and one of LEN 0b11; a register outside the window; a watchdog that is due. -/
theorem wit_FetchTraps :
    (let t := (turnS (coreG [])).turnOf [] 0 0
     t.me.runnable = true ∧ t.WdogQuiet ∧ t.here.codeLen ≤ t.me.pc.toNat) ∧
    (let t := (turnS { coreG [] with code := Mem.writeBytes [] 0 (leBytes 8 0xFC), codeLen := 32 }).turnOf [] 0 0
     t.WdogQuiet ∧ t.me.pc.toNat < t.here.codeLen ∧ (∃ e, t.decoded = .error e) ∧ (t.here.code.read t.me.pc.toNat).toNat % 4 ≠ 3) ∧
    (let t := (turnS { coreG [] with code := Mem.writeBytes [] 0 (leBytes 4 0xFFFFFFFF), codeLen := 32 }).turnOf [] 0 0
     t.me.pc.toNat < t.here.codeLen ∧ (∃ e, t.decoded = .error e) ∧ (t.here.code.read t.me.pc.toNat).toNat % 4 = 3) ∧
    (let c := coreI (.vadd 13#6 1#6 2#6 (md 0#3))
     let t := (turnS { c with bar := { ctxs := ⟨[(0, { ctxG [] with winSize := 1#2 })]⟩ } }).turnOf [] 0 0
     t.WdogQuiet ∧ t.decoded = .ok ⟨0#4, .vadd 13#6 1#6 2#6 (md 0#3)⟩ ∧ regwin t.me (.vadd 13#6 1#6 2#6 (md 0#3)) = some 13#64) ∧
    (let c := coreI .nop
     let t := (turnS { c with bar := { c.bar with wdlim := 1#64 } }).turnOf [] 0 0
     t.me.runnable = true ∧ ¬ t.WdogQuiet ∧ (t.here.code.read t.me.pc.toNat).toNat % 4 ≠ 3) :=
  ⟨⟨rfl, .inr (by decide), by decide⟩, ⟨.inr (by decide), by decide, ⟨_, rfl⟩, by decide⟩, ⟨by decide, ⟨_, rfl⟩, by decide⟩, ⟨.inr (by decide), rfl, rfl⟩,
   rfl, (by rintro (h | h) <;> revert h <;> decide), by decide⟩

/-- An event of the outside in any state, an act of an engine in and outside RUN, and a turn that is none. -/
theorem wit_StepRunsEvent :
    (Instr.nvmeDriveFail 0).isEvent = true ∧ (Instr.nvmeDriveFail 0).eventOk = true ∧ coreAct (.nvmeDriveFail 0) = false ∧
    coreAct .launchHandout = true ∧ inRun State.reset = false ∧ inRun (stG []) = true ∧ Instr.nop.isEvent = false ∧
    (Instr.nvmeDriveFail 2).eventOk = false ∧ numCores ≤ 5120 ∧ outsideOk (.barRead 0 0x1200) = true ∧
    outsideOk (.softError 5119 (.spad 98303)) = true ∧ outsideOk (.tamper (2 ^ 35)) = false ∧ outsideOk (.barRead 16 0x1208) = true ∧
    State.reset.mod.exported.Nodup ∧ (stG []).mod.power ≠ .off := by decide

/-- A core that owes the return of a credit; one that owes nothing, with its control context to issue, and with no context. -/
theorem wit_CoreTurn :
    (let s := stC { coreG [] with li := { creditBack := ⟨[(0, 1)]⟩ } }
     s.agenda = [] ∧ inRun s = true ∧ s.owedEvent = some (.channelCreditReturn 0 0)) ∧
    (let s := stG []
     s.owedEvent = none ∧ (s.here.ctx ((s.here.bar.last + 1 + 0) % 12)).runnable = true) ∧
    (let s := stC {}
     s.owedEvent = none ∧ ∀ k < 12, (s.here.ctx k).runnable = false) := by decide

/-- Instructions that encode: one word, two words, sixteen bytes, and fetch control. -/
theorem wit_DecodeInvertsEncode :
    ([.sub 3#6 4#6 5#6, .movhi 5#6 7#32, .tmm 4#6 5#6 (md 1#3) ed, .pad, .pool 255#8, .dwrr 1#6 2#6 3#6] : List Instr).all
      (fun i => i.wf && !i.isEvent) = true ∧ (15#4 ≠ 8#4) := by decide

/-- A context with a handler, at level U and invasive debug absent. -/
theorem wit_TrapVectors :
    let s := stC { bar := { ctxs := ⟨[(0, { ctxG [] with tvec := 8#64 })]⟩ } }
    s.slot ≠ 11 ∧ s.me.tvec ≠ 0#64 ∧ s.mod.dbg ≠ .invasive := by decide

/-- A run without a handler; a handler in the service slot. -/
theorem wit_TrapHalts :
    (let s := stC { coreG [] with run := some run0 }
     s.slot ≠ 11 ∧ s.me.tvec = 0#64 ∧ s.here.run = some run0 ∧ run0.kind = .original ∧ run0.twin = false ∧
     Cause.illegal ≠ .channel ∧ s.here.li.handling = none) ∧
    (let m : Msg := { src := 1, tgt := 0, exists_ := true, hnum := 0, arg := 0#64, dat := 0#64, reply := none, th := none, gen := 0#16,
                      launch := 0, rel := {} }
     let s := { stC { li := { handling := some m } } with slot := 11 }
     s.slot = 11 ∧ s.here.li.handling = some m ∧ m.th = none ∧ m.also = none ∧ m.src ≠ s.cur) := by decide

/-- ERET at level S with each kind of target, and at level U. -/
theorem wit_EretReturns :
    (stS [(4, 6#64)]).isService (stS [(4, 6#64)]).cur = true ∧ ((stS [(4, 6#64)]).me.rg 4).toNat % 4 ≠ 0 ∧
    ((stS [(4, 8#64)]).me.rg 4).toNat % 4 = 0 ∧ (stG []).isService (stG []).cur = false := by decide

/-- A value of each clause of SYSW, taken and refused, at both levels. -/
theorem wit_SystemRegisters :
    let v : Word → Nat := fun x => ((stG [(4, x)]).me.rg 4).toNat
    (v 0xF1C#64 < 0x1000 ∧ v 0xF1C#64 / 32 % 8 = 0 ∧ v 0xF1C#64 % 8 < 5) ∧ v 8#64 % 4 = 0 ∧ (1 ≤ v 0x13#64 ∧ v 0x13#64 ≤ 0x13) ∧
    (v 0xFFFFFFFF#64 < 2 ^ 32 ∧ (stS []).isService (stS []).cur = true) ∧ v 0x7FFFF#64 < 2 ^ 19 ∧ v 7#64 < 8 ∧
    (stG []).isService (stG []).cur = false ∧ 0x1000 ≤ v 0x1000#64 ∧ v 0x20#64 / 32 % 8 ≠ 0 ∧ 5 ≤ v 5#64 % 8 ∧ v 6#64 % 4 ≠ 0 ∧
    v 0#64 = 0 ∧ 0x13 < v 0x14#64 ∧ 2 ^ 32 ≤ v 0x100000000#64 ∧ 2 ^ 19 ≤ v 0x80000#64 ∧ 8 ≤ v 8#64 := by decide


/-- Cores 0 and 1 of cluster 0 wired to each other: q2 into the other's q0, q3 into its q1. -/
def wired (s : State) : State :=
  { s with cores := (s.cores.set 1 { s.core 1 with wired := 0x80001000#32 }).set 0 { s.core 0 with wired := 0x80043000#32 } }
/-- A node's run in place of the idle state of core 0, with its role entry. -/
def tasteRun (c : Core) : Core := { c with run := some { run0 with kind := .taste } }

/-- An event queue with a record and without; a pass that does not pre-empt. -/
theorem wit_EventsAndNops :
    (1#6 : Fld) ≠ 2#6 ∧ (stG []).here.en.events = [] ∧
    (stC { coreG [] with en := { events := [{ w0 := 1#64, w1 := 2#64 }] } }).here.en.events = { w0 := 1#64, w1 := 2#64 } :: [] ∧
    ∀ r, (stG []).here.run = some r → yields (stG []) r = false := by
  refine ⟨by decide, by decide, by decide, ?_⟩
  intro r h; cases h

/-- AluResults, MulDivResults, ImmediateResults, PredicateResults, BitResults: plain registers, input channels with words, and an
output channel with room. -/
theorem wit_chanCheck :
    (stG []).chanCheck [4#6, 5#6] [3#6] = none ∧ (stG []).chanCheck [4#6] [0#6] = none ∧
    (wired (stC { coreG [] with li := { inq := ⟨[(0, [.word 7#64, .word 8#64])]⟩, credit := ⟨[(0, 1)]⟩ } })).chanCheck
      [32#6, 32#6] [34#6] = none := by decide

/-- A literal that is aligned and inside, one that is not aligned, and one that ends past the image. -/
theorem wit_ImmediateResults :
    let s := stC { coreG [] with codeLen := 32 }
    let p : BitVec 32 → Nat := fun imm => (s.me.pc + imm.signExtend 64).toNat
    s.chanCheck [] [5#6] = none ∧ (p 24#32 % 8 = 0 ∧ p 24#32 + 8 ≤ s.here.codeLen) ∧ p 12#32 % 8 ≠ 0 ∧
    (p 32#32 % 8 = 0 ∧ s.here.codeLen < p 32#32 + 8) := by decide

/-- The largest field of BIT and the smallest. -/
theorem wit_BitResults : (stG []).chanCheck [4#6] [3#6] = none ∧ (0#6 : Fld).toNat + (63#6 : Fld).toNat < 64 ∧
    (63#6 : Fld).toNat + (0#6 : Fld).toNat < 64 := by decide

/-- Plain operands with a destination among the predicates, and g31. -/
theorem wit_ScalarFrame : Plain [7#6, 31#6, 0#6] ∧ (7#6 : Fld).toNat < 8 := by
  refine ⟨?_, by decide⟩
  intro f h; simp only [List.mem_cons, List.not_mem_nil, or_false] at h; rcases h with rfl | rfl | rfl <;> decide

/-- A word in q0 that another core feeds; a wired output of a core that is no twin; a plain register. -/
theorem wit_ChannelOperands :
    (let s := wired (stC { coreG [] with li := { inq := ⟨[(0, [.word 7#64])]⟩ } })
     (32#6 : Fld).toNat = 32 + 0 ∧ s.here.li.inq.get 0 [] = .word 7#64 :: [] ∧ s.inputFrom s.cur 0 = some (1, 0) ∧ 1 ≠ s.cur ∧
     (35#6 : Fld).toNat = 34 + 1 ∧ s.here.run.any (·.twin) = false ∧ s.outDest s.cur 1 = some (1, 1) ∧ (31#6 : Fld).toNat < 32) ∧
    (stC (tasteRun (coreG []))).inTaste = true ∧ ((stG []).inTaste = false ∧ (stG []).inputFrom 0 1 = none ∧ (stG []).outDest 0 1 = none) ∧
    (let s := wired (stG [])
     s.inTaste = false ∧ (s.inputFrom s.cur 1).isSome = true ∧ s.inWords 1 = [] ∧ s.inDead 1 = false ∧
     s.outDest s.cur 0 = some (1, 0) ∧ (s.core 1).li.isSealed = false ∧ (s.core 1).li.killed = false ∧
     s.here.li.credit.get 0 0 = 0) ∧
    (let s := wired (stC { coreG [] with li := { inq := ⟨[(1, [.errmsg true])]⟩ } })
     s.inWords 1 = [] ∧ s.inDead 1 = true) ∧
    (let s := wired { stG [] with cores := ⟨[(0, coreG []), (1, { li := { isSealed := true } })]⟩ }
     s.outDest s.cur 0 = some (1, 0) ∧ (s.core 1).li.isSealed = true) := by decide

/-- The last aligned address of the scratchpad, in a granule nobody has touched. -/
theorem wit_LoadAndStoreResults :
    let s := stG [(6, 0xBFFF8#64)]
    s.chanCheck [] [8#6] = none ∧ (0xBFFF8 ≤ 0xBFFFF ∧ 0xBFFF8 % 2 ^ (3#2).toNat = 0) ∧
    (effAddr s 6#6 0#16).toNat = 0xBFFF8 ∧ s.here.sp.readRace s.slot [(0xBFFF8, 8)] = none ∧
    (s.here.sp.acquireTag s.slot (0xBFFF8 / 64)).readRace s.slot [(0xBFFF8, 8)] = none ∧ s.here.sp.poisonIn 0xBFFF8 8 = none ∧
    s.here.sp.writeRace s.slot [(0xBFFF8, 8)] = none ∧ (31#6 : Fld).toNat < 32 := by decide

/-- The first address above the scratchpad, a misaligned one, and a granule written by helper 1 (R88, R124). -/
theorem wit_AccessTraps :
    let s := stG [(6, 0xC0000#64)]
    let u := stG [(6, 0xBFFFC#64)]
    let w := stC { coreG [(6, 0x40#64)] with sp := ({} : Spad).stampWrite 1 1 }
    let q := wired (stC { coreG [(6, 0x40#64), (7, 0xC0000#64), (8, 0x41#64)] with
      li := { inq := ⟨[(0, [.word 7#64])]⟩ } })
    0xBFFFF < (effAddr s 6#6 0#16).toNat ∧ ((effAddr u 6#6 0#16).toNat ≤ 0xBFFFF ∧ (effAddr u 6#6 0#16).toNat % 8 ≠ 0) ∧
    ((effAddr w 6#6 0#16).toNat ≤ 0xBFFFF ∧ (effAddr w 6#6 0#16).toNat % 8 = 0 ∧
      w.here.sp.readRace w.slot [(0x40, 8)] = some 0x40 ∧ w.here.sp.writeRace w.slot [(0x40, 8)] = some 0x40) ∧
    q.chanCheck [32#6] [] = none ∧ 0xBFFFF < (effAddr q 7#6 0#16).toNat ∧ (effAddr q 8#6 0#16).toNat % 8 ≠ 0 ∧
    (effAddr q 6#6 0#16).toNat = 0x40 ∧ q.here.sp.writeRace q.slot [(0x40, 8)] = none ∧
    ((w.here.sp.acquireTag w.slot (0x40 / 64)).readRace w.slot [(0x40, 8)] = some 0x40 ∧
      (w.me.rg 6 + w.me.rg 0).toNat = 0x40 ∧ 0xBFFFF < (s.me.rg 6 + s.me.rg 0).toNat ∧ (u.me.rg 6 + u.me.rg 0).toNat % 8 ≠ 0) := by decide

/-- An aligned word of the scratchpad, four and eight bytes wide. -/
theorem wit_AtomicResults :
    let s := stG [(6, 0xBFFF8#64)]
    2 ≤ (2#2 : BitVec 2).toNat ∧ 2 ≤ (3#2 : BitVec 2).toNat ∧ (effAddr s 6#6 0#16).toNat ≤ 0xBFFFF ∧
    (effAddr s 6#6 0#16).toNat % 8 = 0 ∧ (effAddr s 6#6 4#16).toNat % 4 = 0 ∧ s.here.sp.poisonIn 0xBFFF8 8 = none := by decide

/-- Canonical memories, and two slots at a granule that is not pending. -/
theorem wit_MemoryAndRaceRules :
    Mem.wf (Mem.writeBytes [] 5 [1#8, 2#8]) = true ∧ (({ poison := [1, 2] } : Spad).store 8 (List.replicate 9 0#8)).poison = [2] ∧ (0 < 12 ∧ 11 < 12 ∧ 0 ≠ 11) ∧ ({} : Spad).srcs = [] ∧
    (({} : Spad).granule 0).pend = none ∧ (({} : Spad).seenRow 11).get 0 0 ≤ ({} : Spad).regionOf 0 := by decide

/-- A control context of a core with room for a helper of each size; all slots taken; a helper. -/
theorem wit_HelperStart :
    let s := stG []
    let full : Core := { bar := { ctxs := ⟨(List.range 11).map fun k => (k, ctxG [])⟩ } }
    (s.slot = 0 ∧ s.here.freeSlot? = some 1 ∧ s.here.windowBase? (0#6 : Fld).toNat = some 8 ∧
      s.here.windowBase? (3#6 : Fld).toNat = some 8) ∧
    (stC full).here.freeSlot? = none ∧ (coreG []).windowBase? 3 = some 8 ∧ { s with slot := 10 }.slot ≠ 0 := by decide

/-- A helper that ends, with an empty fork deque and with an entry, and a context that waits for it; the operands of HWAIT and HKILL. -/
theorem wit_HelperEndWaitKill :
    let c : Core := { bar := { ctxs := ⟨[(0, { ctxG [(4, 10#64), (5, 0#64), (6, 11#64), (7, 1#64)] with wait := some (.slotFree 10) }),
      (10, { ctxG [] with held := some (.nprio 3#6 4#6 5#6) })]⟩ } }
    let s := { stC c with slot := 10 }
    let f := { s with cores := ⟨[(0, { c with bar := { c.bar with forks := [⟨4#64, 9#64, 0, {}⟩] } })]⟩ }
    let u := stC c
    let v : Fld → Nat := fun a => (u.me.rg a.toNat).toNat
    (s.slot ≠ 0 ∧ s.slot ≠ 11 ∧ s.here.bar.forks = [] ∧ (s.here.ctx 0).wait = some (.slotFree s.slot)) ∧
    f.here.bar.forks = ⟨4#64, 9#64, 0, {}⟩ :: [] ∧ { s with slot := 11 }.slot = 11 ∧ v 5#6 < 1 ∧ 10 < v 6#6 ∧
    (1 ≤ v 4#6 ∧ v 4#6 ≤ 10 ∧ v 4#6 ≠ u.slot ∧ (u.here.ctx (v 4#6)).live = true) ∧ (u.here.ctx (v 7#6)).live = false ∧
    ((u.here.ctx (v 4#6)).held.any outlives = true ∧ u.here.bar.ctxs.keys.all (· < 12) = true) ∧
    { stG [(4, 10#64)] with slot := 10 }.slot = 10 := by decide

/-- A deque with room and a full one, counters at 0, at 1 and at the top, with a helper and without, and the service slot. -/
theorem wit_ForkJoin :
    let f : Fork := ⟨4#64, 9#64, 0, {}⟩
    let s := stC { bar := { ctxs := ⟨[(0, ctxG []), (1, ctxG [])]⟩, forks := List.replicate 15 f, jcnt := ⟨[(0, 0xFFFE), (1, 0xFFFF)]⟩ } }
    let t := stC { bar := { ctxs := ⟨[(0, ctxG [])]⟩, forks := List.replicate 16 f, jcnt := ⟨[(0, 1)]⟩ } }
    (7#6 : Fld).toNat < 8 ∧ (s.slot ≠ 11 ∧ s.here.bar.forks.length < 16 ∧ s.here.bar.jcnt.get 0 0 < 0xFFFF) ∧
    ¬ (s.here.bar.forks.length < 16 ∧ s.here.bar.jcnt.get 1 0 < 0xFFFF) ∧
    ¬ (t.here.bar.forks.length < 16 ∧ t.here.bar.jcnt.get 0 0 < 0xFFFF) ∧ s.here.bar.jcnt.get 2 0 = 0 ∧
    (0 < t.here.bar.jcnt.get 0 0 ∧ t.slot = 0 ∧ t.here.helperMask = 0) ∧ (0 < s.here.bar.jcnt.get 0 0 ∧ s.here.helperMask ≠ 0) ∧
    { s with slot := 11 }.slot = 11 := by decide

/-- A loop that goes on and one that ends; an aligned target and one that is not. -/
theorem wit_Branches :
    let s := stG [(4, 1#64), (5, 2#64), (6, 0x40#64), (31, 0x42#64)]
    (4#6 : Fld) ≠ 0#6 ∧ s.me.rg (4#6 : Fld).toNat = 1#64 ∧ s.me.rg (5#6 : Fld).toNat ≠ 1#64 ∧ (s.me.rg 6).toNat % 4 = 0 ∧
    (s.me.rg 31).toNat % 4 ≠ 0 ∧ ((stG [(31, 0x40#64)]).me.rg 31).toNat % 4 = 0 := by decide

/-- A wait that is over; an HWAIT whose helper has ended; a context that a JOIN to zero frees; an instruction that holds; a watchdog at its
limit; latches that hold their registers' values. -/
theorem wit_WaitsAndHolds :
    (let s := stC { bar := { ctxs := ⟨[(0, { ctxG [] with wait := some .event })]⟩ }, en := { events := [{ w0 := 1#64, w1 := 2#64 }] } }
     ((s.core 0).ctx 0).wait = some .event ∧ waitOver { s with cur := 0, slot := 0 } .event = true) ∧
    (let r : EvRec := { w0 := 1#64, w1 := 2#64 }
     let c : List EvRec → Core := fun l => { bar := { ctxs := ⟨[(0, { ctxG [] with wait := some .event })]⟩ }, en := { evHeld := l } }
     (c []).en.events = [] ∧ ((c []).ctx 0).wait = some .event ∧ (c []).en.evHeld = [] ∧ (c [r]).en.evHeld = r :: []) ∧
    ((stC { bar := { ctxs := ⟨[(0, { ctxG [] with wait := some (.met {}) })]⟩ } }).core 0 |>.ctx 0).wait = some (.met {}) ∧
    (let u := stC { bar := { ctxs := ⟨[(0, ctxG []), (1, { ctxG [] with wait := some (.joinZero 7) })]⟩, jcnt := ⟨[(7, 1)]⟩ } }
     u.me.live = true ∧ u.here.bar.jcnt.get (7#6 : Fld).toNat 0 = 1 ∧ (u.here.ctx 1).wait = some (.joinZero (7#6 : Fld).toNat)) ∧
    ((stC { bar := { ctxs := ⟨[(0, { ctxG [] with dbgHalt := true })]⟩ } }).core 0 |>.ctx 0).dbgHalt = true ∧
    (let x := ((stC { bar := { ctxs := ⟨[(0, { ctxG [] with held := some (.cewait 3#6 4#6) })]⟩ } }).core 0).ctx 0
     x.live = true ∧ x.heldOn = none ∧ x.dbgHalt = false ∧ x.held = some (.cewait 3#6 4#6)) ∧
    (let c : Core := { bar := { ctxs := ⟨[(0, { ctxG [] with wdcnt := 0x1000000#64, tvec := 8#64 })]⟩ } }
     wdogDue ((stC c).core 0) 0 = true ∧ ((stC c).core 0 |>.ctx 0).tvec ≠ 0#64) ∧
    (let c : Core := { coreG [] with un := { latchA := some ⟨0, 1, 7#1024⟩, vfile := ⟨[(1, 7#1024)]⟩ } }
     c.Coherent ∧ c.Clean 0 [1#6]) := by
  refine ⟨by decide, ⟨rfl, rfl, rfl, rfl⟩, by decide, by decide, by decide, by decide, by decide, ?_, ?_⟩
  · intro p l h; cases p <;> cases h; rfl
  · intro f _ e he; cases he

/-- A core with no latch held meets `Coherent`, and one with no poisoned element meets `Clean` for every register. -/
theorem coherent_core {c : Core} (h : ∀ p, c.un.latch p = none) (hp : c.un.poisonV = []) :
    c.Coherent ∧ ∀ k fs, c.Clean k fs := by
  constructor
  · intro p l e; rw [h p] at e; cases e
  · intro k fs f _ e he; rw [hp] at he; cases he

/-- ElementwiseResults, MaskAndMoveResults, ReductionResults, VectorAccesses, AttentionResults, MatrixQueue, MatrixDirect: a core whose
latches are empty and whose vector registers are not poisoned, at every type of an element-wise instruction. -/
theorem wit_Vector :
    ((stG []).here.Coherent ∧ ∀ k fs, (stG []).here.Clean k fs) ∧
    ([0#3, 1#3, 2#3, 3#3, 4#3, 5#3, 6#3].all fun ty => (md ty).ty != 7#3) = true ∧ (md 0#3).ty = 0#3 ∧ (md 2#3).ty = 2#3 ∧
    (7#6 : Fld).toNat ≠ 0 :=
  ⟨coherent_core (fun p => by cases p <;> rfl) rfl, by decide, rfl, rfl, by decide⟩

/-- VSFU at 3, at 2, below 2^−31 and at 64: codes that are positive numbers, an integer and a power of two among them. -/
theorem wit_SpecialFunctionInputs :
    (f32.unpack true 0x40400000 = .num false 12582912 (-22) ∧ (Val.num false 12582912 (-22)).toRat = (3 : Int)) ∧
    (f32.unpack true 0x40000000 = .num false 8388608 (-22) ∧ (Val.num false 8388608 (-22)).toRat = (2 : ℚ) ^ (1 : Int)) ∧
    (f32.unpack true 0x2F800000 = .num false 8388608 (-55) ∧ |(Val.num false 8388608 (-55)).toRat| < (2 : ℚ) ^ (-31 : Int) ∧
      (2 : ℚ) ^ (-126 : Int) < |(Val.num false 8388608 (-55)).toRat|) ∧
    (f32.unpack true 0x42800000 = .num false 8388608 (-17) ∧ 64 ≤ |(Val.num false 8388608 (-17)).toRat|) := by
  refine ⟨⟨by decide, ?_⟩, ⟨by decide, ?_⟩, ⟨by decide, ?_, ?_⟩, by decide, ?_⟩ <;> norm_num [Val.toRat]

/-- VSFU never sets NX, and rounds 1/3 and 1/√2 in each direction (R60, R141). -/
theorem test_vsfu :
    Sfu.rcp.apply f32 .rne false false (f32.unpack false 0x40400000) = (0x3EAAAAAB, {}) ∧
    Sfu.rsq.apply f32 .rdn false false (f32.unpack false 0x40000000) = (0x3F3504F3, {}) ∧
    Sfu.rsq.apply f32 .rup false false (f32.unpack false 0x40000000) = (0x3F3504F4, {}) := by decide +kernel

/-- MaskAndMoveResults: the environments of an f32 and of an i32 comparison; −0 with +0, a NaN with itself, −1 with 1 (R138). -/
theorem wit_MaskAndMoveResults :
    let f := venv (stG []).me (md 0#3)
    let i := venv (stG []).me (md 2#3)
    f.ty = 0 ∧ i.ty = 2 ∧ vcond 0 f 0x80000000 0 = true ∧ vcond 0 f 0x7FC00000 0x7FC00000 = false ∧ vcond 1 f 0x7FC00000 0x7FC00000 = true ∧
    vcond 2 i 0xFFFFFFFF 1 = true ∧ vcond 4 i 0xFFFFFFFF 1 = false := by decide

/-- 1.0 in bf16 and a value between it and the next code; the least magnitude with a sign is a code that is no NaN. -/
theorem wit_RoundingRules :
    bf16.unpack false 0x8001 ≠ .nan ∧ 0x8001 < 2 ^ bf16.w ∧ (0 < 513 ∧ (-9 : Int) + (513 : Nat).log2 ≤ bf16.bias) ∧
    (bf16.pack .rtz false false (.num false 513 (-9))).1 = 0x3F80 ∧ 0x3F80 < bf16.top ∧
    bf16.unpack false 0x3F80 = .num false 128 (-7) ∧ bf16.unpack false 0x3F81 = .num false 129 (-7) := by decide

/-- A tie between two integers, and where each mode takes it; a code of each format at its top; a sum whose exact value is a number. -/
theorem wit_RoundingRules_values :
    Rnd.rne.Rounds (3 / 2) 2 ∧ Rnd.rtz.Rounds (3 / 2) 1 ∧ Rnd.rdn.Rounds (-3 / 2) (-2) ∧ Rnd.rup.Rounds (3 / 2) 2 ∧ Rnd.rto.Rounds (3 / 2) 1 ∧
    (∀ F ∈ [f32, bf16, e5m2, e4m3], F.top < 2 ^ F.w ∧ F.top % 2 ^ (F.w - 1) ≤ F.top) ∧
    (fmtOf 0 = some f32 ∧ f32.unpack true 0x3F800000 = .num false 8388608 (-23)) ∧ fmtOf 2 = none ∧
    f32.unpack false 0x7FC00000 = .nan ∧ f32.unpack false 0xFF800000 = .inf true := by
  refine ⟨?_, ?_, ?_, ?_, ?_, by decide, ⟨rfl, by decide⟩, rfl, by decide, by decide⟩ <;> simp only [Rnd.Rounds] <;> norm_num

/-- The masks of the reductions: lanes enabled and none. -/
theorem wit_ReductionResults :
    let m : BitVec 3 → VMod := fun k => ⟨2#3, 0#3, 0#1, 0#3, k, 0#1⟩
    ((List.range 32).filter fun l => (venv (stG []).me (m 0#3)).k.getLsbD l) ≠ [] ∧
    ((List.range 32).filter fun l => (venv (stG []).me (m 1#3)).k.getLsbD l) = [] ∧ (m 1#3).sat = 0#1 ∧ (m 0#3).ty = 2#3 ∧
    (let s := stG []; (md 0#3).ty = 0#3 ∧ f32.unpack false (elem 32 (s.here.rv s.slot 0) 5) ≠ .nan) := by
  refine ⟨by decide, by decide, by decide, by decide, rfl, by decide +kernel⟩

/-- The last block and the last word of the scratchpad, with every lane enabled and with none. -/
theorem wit_VectorAccesses :
    let s := stG [(6, 0xBFF80#64), (7, 0xBFFFC#64)]
    let e := venv s.me (md 0#3)
    let rs := fun (addr : Nat → Word) => (lanesOf e.k).map fun l => ((addr l).toNat, 4)
    let blk : Nat → Word := fun l => s.me.rg 6 + BitVec.ofNat 64 (4 * l)
    let one : Nat → Word := fun _ => s.me.rg 7
    ((s.me.rg 6).toNat ≤ 0xBFF80 ∧ (s.me.rg 6).toNat % 8 = 0) ∧
    (∀ l < 32, (blk l).toNat ≤ 0xBFFFC ∧ (blk l).toNat % 4 = 0) ∧ (∀ l < 32, (one l).toNat ≤ 0xBFFFC ∧ (one l).toNat % 4 = 0) ∧
    s.here.sp.readRace s.slot (rs blk) = none ∧ s.here.sp.writeRace s.slot (rs blk) = none ∧
    s.here.sp.writeRace s.slot (rs one) = none ∧ (∀ r ∈ rs blk, s.here.sp.poisonIn r.1 r.2 = none) ∧
    (let u := stG [(6, 0xBFF88#64), (7, 0xBFF84#64), (8, 0xBFF82#64)]
     0xBFF80 < (u.me.rg 6).toNat ∧ ((u.me.rg 8).toNat % 8 ≠ 0) ∧ e.k.getLsbD 31 = true ∧
     (∀ j < 31, (u.me.rg 7 + BitVec.ofNat 64 j * 4#64).toNat ≤ 0xBFFFC ∧ (u.me.rg 7 + BitVec.ofNat 64 j * 4#64).toNat % 4 = 0) ∧
     0xBFFFC < (u.me.rg 7 + 31#64 * 4#64).toNat ∧ e.k.getLsbD 0 = true ∧ (u.me.rg 8).toNat ≤ 0xBFFFC ∧ (u.me.rg 8).toNat % 4 ≠ 0) := by decide

/-- A literal that is aligned and inside, one that is not aligned, one that ends past the image; a table's last place. -/
theorem wit_LiteralsAndTables :
    let s := stC { coreG [(4, 0xBFF00#64)] with codeLen := 256 }
    let p : BitVec 32 → Nat := fun imm => (s.me.pc + imm.signExtend 64).toNat
    (p 0x80#32 % 32 = 0 ∧ p 0x80#32 + 128 ≤ s.here.codeLen) ∧ p 0x84#32 % 32 ≠ 0 ∧
    (p 0xA0#32 % 32 = 0 ∧ s.here.codeLen < p 0xA0#32 + 128) ∧
    ((4#6 : Fld) ≠ 0#6 ∧ (s.me.rg 4).toNat ≤ 0xBFF00 ∧ (s.me.rg 4).toNat % 8 = 0) ∧
    s.here.sp.readRace s.slot [(0xBFF00, 256)] = none ∧ s.here.sp.poisonIn 0xBFF00 256 = none := by decide

/-- A table on its way: before its ready time, at it, and loaded by another context. -/
theorem wit_AttentionResults_tables :
    let l : Nat → BandLoad := fun k => { slot := k, ready := 34, bands := {} }
    let s : Nat → Word → State := fun k t => stC { bar := { ctxs := ⟨[(0, ctxG [])]⟩, cycle := t }, un := { bandNext := ⟨[(0, [l k])]⟩ } }
    let sel := (s 0 0#64).me.rotSel.toNat
    ((s 0 33#64).here.un.bandNext.get? sel = some [l 0] ∧ (l 0).slot = (s 0 33#64).slot ∧ (s 0 33#64).here.bar.cycle.toNat < (l 0).ready) ∧
    (l 0).ready ≤ (s 0 34#64).here.bar.cycle.toNat ∧ (l 1).slot ≠ (s 1 33#64).slot ∧ (stG []).here.un.bandNext.get? 0 = none := by decide

/-- The state of a row with no score yet, and states whose status names a condition. -/
theorem wit_AttentionResults :
    let v : VReg := BitVec.ofNat 1024 0xFF800000
    let w : VReg := BitVec.ofNat 1024 (2 ^ 64)
    elem 32 v 0 = 0xFF800000 ∧ elem 32 v 1 = 0 ∧ elem 32 v 2 % 4 = 0 ∧ elem 32 w 2 % 4 ≠ 0 ∧
    lanesOf (venv (stG []).me ⟨0#3, 0#3, 0#1, 0#3, 1#3, 0#1⟩).k = [] ∧
    ((lanesOf (venv (stG []).me (md 0#3)).k).all fun _ => !(f32.unpack false 0x7FC00000).isNan) = false := by decide +kernel

/-- Scores 1, −1/2 and −7/4 over a row whose maximum is 0 and whose sum is 1, and whose maximum is −∞ before its first score; an angle of 1
and one that rounds to infinity. -/
theorem wit_AttentionResults_values :
    let U := f32.unpack false
    let one := 0x3F800000
    (∀ x ∈ [0, one, 0xBF000000, 0xBFE00000], ∃ r, (U x).IsNum r) ∧ U 0xFF800000 = .inf true ∧ (U 0).IsNum 0 ∧
    ((U one).toRat - (U 0).toRat = (1 : Int) ∧ (U 0xBF000000).toRat - (U 0).toRat = -1 / 2 ∧ (U 0xBFE00000).toRat - (U 0).toRat = -7 / 4 ∧
      0 < (U one).toRat) ∧
    ((f32.pack .rne false false (Val.mul (U one) (U one)).1).1 = one ∧
      (f32.pack .rne false false (Val.mul (U 0x7F000000) (U 0x40800000)).1).1 % 2 ^ 31 = 0x7F800000) := by
  refine ⟨?_, by decide, ⟨⟨_, _, _, rfl⟩, by decide +kernel⟩, by decide +kernel, by decide +kernel⟩
  intro x h
  simp only [List.mem_cons, List.not_mem_nil, or_false] at h
  rcases h with rfl | rfl | rfl | rfl <;> exact ⟨_, ⟨_, _, _, rfl⟩, rfl⟩

/-- A matrix command of slot 0 with its operands in g4 and g5. -/
def mq (i : Instr) (hslot : Option Nat) : MatCmd :=
  (stG [(4, 0x1000#64), (5, 0x8000#64)]).tileCmd i 0x1000#64 0x8000#64 0#64 0#1024 hslot
/-- A core whose matrix queue and sequencer are given. -/
def coreM (q : List MatCmd) (seq : Option MatCmd) : Core := { coreG [(4, 0x1000#64), (5, 0x8000#64)] with en := { matQ := q, seq := seq } }
/-- TMM, MEPI and LATCH of int8 with the least tile, and a TMM with a guard, its sense "TRUE runs". -/
def iTmm : Instr := .tmm 4#6 5#6 (md 3#3) ed
/-- See `iTmm`. -/
def iMepi : Instr := .mepi 4#6 (md 1#3) ed
/-- See `iTmm`. -/
def iLatch : Instr := .latch 4#6 0#6 (md 1#3) ed
/-- See `iTmm`. -/
def eG : EDesc := { ed with ge := 1#1 }

/-- A queue with 15 commands and with 16, a tile that checks, a handle with a slot to record. -/
theorem wit_MatrixQueue_issue :
    let s := stC { coreM (List.replicate 15 (mq iTmm none)) none with sp := { handles := ⟨[(0, { base := 0, size := 64, n := 1 })]⟩ } }
    (∀ p ∈ s.here.en.defers, p.owner ≠ s.slot) ∧ s.here.en.matQ.length < 16 ∧ (s.here.handle? 0).map (·.cp) = some 0 ∧
    planesOk s.here.un.mcfg iTmm ⟨md 3#3, ed, 0⟩ = true ∧
    16 ≤ (stC (coreM (List.replicate 16 (mq iTmm none)) none)).here.en.matQ.length := by
  refine ⟨nofun, by decide, rfl, rfl, by decide⟩

/-- The addresses of the tile of `wit_MatrixQueue_issue` check. -/
theorem wit_MatrixQueue_addrs : tileAddrs (touched (mq iTmm none) ⟨md 3#3, ed, 0⟩) = .ok () := rfl

/-- A command at the head of the queue whose guard is UNSET, resolved against its sense and with it; one that has passed. -/
theorem wit_MatrixQueue_head :
    let q := mq (.tmm 4#6 5#6 (md 3#3) eG) none
    let c := coreM [q] none
    let on : Bool → Core := fun b => { c with sp := { guards := ⟨[(0, { val := some b })]⟩ } }
    c.en.matQ = q :: [] ∧ tileOf q.instr = some ⟨md 3#3, eG, 0⟩ ∧ c.en.seq = none ∧ c.en.evHeld = [] ∧ q.slot < 12 ∧
    q.fate = none ∧ eG.ge = 1#1 ∧ (c.guard eG.gsl.toNat).val = none ∧
    ((on (eG.gs == 1#1)).guard 0).val = some (eG.gs == 1#1) ∧ c.en.events.length < 32 ∧
    ((on (!(eG.gs == 1#1))).guard 0).val = some (!(eG.gs == 1#1)) ∧ ed.ge = 0#1 ∧ { q with fate := some true }.fate = some true ∧ q.hslot = none ∧
    (let x : SlotSt → Option SlotSt := fun st => (({ on true with sp := { handles := ⟨[(0, { base := 0, size := 64, n := 1, slots := ⟨[(0, { st := st })]⟩ })]⟩ } } : Core).handle? 0).map
       fun x => (x.slotAt 0).st
     x .full = some .full ∧ x .draining = some .draining ∧ x .filling ≠ some .full ∧ x .filling ≠ some .draining) := by
  refine ⟨rfl, rfl, rfl, rfl, by decide, rfl, rfl, rfl, rfl, by decide, rfl, rfl, rfl, rfl, by decide⟩

/-- A LATCH at its step, a TMM at its last step and at one before, on a scratchpad nobody has touched. -/
theorem wit_MatrixReads :
    let l := mq iLatch none
    let t := mq iTmm none
    let i2 : Instr := .tmm 4#6 5#6 (md 3#3) { ed with tk := 63#10 }
    let u := mq i2 none
    (coreM [] (some l)).en.seq = some l ∧ tileOf l.instr = some ⟨md 1#3, ed, 0⟩ ∧ l.lat = some 0 ∧ l.step = 0 ∧
    ((coreM [] (some l)).withRow 0 {}).readRace 0 (readRangesOf l ⟨md 1#3, ed, 0⟩ ed.aSide 0) = none ∧ isTmm t = true ∧
    (∀ a, ((coreM [] (some t)).withRow 0 {}).readRace 0 (readRangesOf t ⟨md 3#3, ed, 0⟩ a 0) = none ∧
      ∀ r ∈ readRangesOf t ⟨md 3#3, ed, 0⟩ a 0, (coreM [] (some t)).sp.poisonIn r.1 r.2 = none) ∧
    stepsOf t ⟨md 3#3, ed, 0⟩ ≤ t.step + 1 ∧ u.step + 1 < stepsOf u ⟨md 3#3, { ed with tk := 63#10 }, 0⟩ := by
  refine ⟨rfl, rfl, rfl, rfl, by decide, rfl, by decide +kernel, by decide, by decide⟩

/-- A MEPI at its step with no race, and one whose granule helper 1 has written. -/
theorem wit_MatrixStores :
    let q := mq iMepi none
    let c := coreM [] (some q)
    let r := { c with sp := c.sp.stampWrite 1 (0x1000 / 64) }
    c.en.seq = some q ∧ q.instr = .mepi 4#6 (md 1#3) ed ∧ ed.he = 0#1 ∧ q.hslot = none ∧ (md 1#3).ty ≠ 7#3 ∧
    q.step < stepsOf q ⟨md 1#3, ed, 0⟩ ∧ (c.withRow q.slot q.row).writeRace q.slot (storeRanges q ⟨md 1#3, ed, 0⟩ q.step) = none ∧
    r.en.events.length < 32 ∧ r.en.evHeld = [] ∧ q.slot < 12 ∧
    (r.withRow q.slot q.row).writeRace q.slot (storeRanges q ⟨md 1#3, ed, 0⟩ q.step) = some 0x1000 ∧
    (let race : MatCmd → TileCmd → Bool → Option Nat := fun l t a => (r.withRow l.slot l.row).readRace l.slot (readRangesOf l t a l.step)
     race (mq iLatch none) ⟨md 1#3, ed, 0⟩ ed.aSide = some 0x1000 ∧ race (mq iTmm none) ⟨md 3#3, ed, 0⟩ true = some 0x1000 ∧
     race (mq iTmm none) ⟨md 3#3, ed, 0⟩ false = none ∧
     (let r2 := { c with sp := c.sp.stampWrite 1 (0x8000 / 64) }
      let l := mq iTmm none
      (r2.withRow l.slot l.row).readRace l.slot (readRangesOf l ⟨md 3#3, ed, 0⟩ true 0) = none ∧
      (r2.withRow l.slot l.row).readRace l.slot (readRangesOf l ⟨md 3#3, ed, 0⟩ false 0) = some 0x8000)) := by
  refine ⟨rfl, rfl, rfl, rfl, by decide, by decide, by decide, by decide, rfl, by decide, by decide, by decide, by decide, by decide, by decide, by decide⟩

/-- Two latches of one type and depth, none, and one of another type; a unit with no command. -/
theorem wit_MatrixDirect :
    let l : BitVec 3 → Nat → MLatch := fun ty cnt => { ty := ty, kn := 32, cnt := cnt, pl := 1, mc := false, vals := {}, scales := {} }
    let s := stC { coreG [] with un := { mla := ⟨[(0, l 1#3 32), (2, l 1#3 64), (3, l 0#3 64)]⟩ } }
    (∀ p ∈ s.here.en.defers, p.owner ≠ s.slot) ∧ mmacBusy s.here 3 [0, 2] true = false ∧ mmacBusy s.here 3 [] false = false ∧
    s.here.un.mla.get? 0 = some (l 1#3 32) ∧ s.here.un.mla.get? 2 = some (l 1#3 64) ∧ s.here.un.mla.get? 1 = none ∧
    (s.here.un.mla.get? 3 = some (l 0#3 64) ∧ (l 0#3 64).ty ≠ (md 1#3).ty) := by
  refine ⟨nofun, rfl, rfl, rfl, rfl, rfl, rfl, by decide⟩

/-- A handle that ends at the scratchpad's end; slots that are full, free, filling and freed with an expectation; none. -/
theorem wit_HandleResults :
    let x : Handle := { base := 0, size := 64, n := 2 }
    let f : Handle := { x with slots := ⟨[(0, { st := .full }), (1, { st := .filling, exp := 64, arr := 63, nxt := 8 })]⟩ }
    let s := stC { coreG [(4, 0xBFFC0#64)] with sp := { handles := ⟨[(0, x), (1, f)]⟩ } }
    (∀ p ∈ s.here.en.defers, p.owner ≠ s.slot) ∧ handleInUse s s.cur 0 = false ∧
    ((s.me.rg 4).toNat % 8 = 0 ∧ (s.me.rg 4).toNat + ((0#6 : Fld).toNat + 1) * (8 * ((7#13 : BitVec 13).toNat + 1)) ≤ 0xC0000) ∧
    s.here.handle? 0 = some x ∧ x.freeFrom 2 = true ∧ x.fullFrom 1 = false ∧ f.fullFrom 1 = true ∧ f.freeFrom 1 = false ∧
    (∀ e ∈ s.here.bar.ctxs.entries, ∀ k, e.2.wait ≠ some (.handleFull 0 k)) ∧
    (let c : Core := { bar := { ctxs := ⟨[(0, ctxG []), (1, { ctxG [] with wait := some (.handleFull 0 1) })]⟩ }, sp := { handles := ⟨[(0, x)]⟩ } }
     (stC c).here.handle? 0 = some x ∧ x.pp = x.cp ∧ (x.slotAt (x.cp % x.n)).st = .free ∧
     ((stC c).here.ctx 1).wait = some (.handleFull (0#6 : Fld).toNat 1)) ∧
    ((∀ j ∈ x.slotsFrom x.pp 2, (x.slotAt j).st = .free ∨ (x.slotAt j).st = .filling) ∧ (0#6 : Fld).toNat < x.n) ∧
    (x.expect 0 64).isSome = true ∧ x.expect 0 65 = none ∧ s.here.handle? 2 = none ∧ x.n < (3#7 : BitVec 7).toNat ∧
    (x.slotAt 0).st = .free ∧ (f.slotAt 0).st = .full ∧ ((f.slotAt 1).st = .filling ∧ f.size < (f.slotAt 1).arr + 2 ∧
      (f.slotAt 1).exp ≠ 0 ∧ (f.slotAt 1).exp < (f.slotAt 1).arr + 2) ∧ (f.slotAt 0).nxt = 0 ∧ (f.slotAt 1).nxt ≠ 0 ∧ (0 < 2 ∧ 2 ≤ f.size) := by
  refine ⟨nofun, rfl, by decide, rfl, rfl, rfl, rfl, rfl, ?_, by decide, by decide, rfl, rfl, rfl, by decide, rfl, rfl, by decide, rfl,
    by decide, by decide⟩
  intro e he k
  simp only [stC, coreG, State.here, State.core, Tab.get, Tab.get?, getList, if_true, Option.getD_some, List.mem_singleton] at he
  subst he; nofun

/-- A tag region of two sets; a set with a slot that holds line 2, one with two that hold line 5; no region. -/
theorem wit_GuardAndTagResults :
    let s := stC { coreG [(4, 0x800#64), (5, 15#64), (6, 16#64), (7, 6#64), (8, 0xC00#64)] with
      sp := { tagSets := 2, tags := ⟨[(1, 2)]⟩, ropesFlag := true } }
    let line : Fld → Nat := fun a => (s.me.rg a.toNat).toNat / 1024
    let held : Nat → Nat → Prop := fun l j => s.here.sp.tags.get? j = some l ∧ j / 8 = l % 2 ∧ j % 8 < 6
    (stG []).here.sp.tagSets = 0 ∧ 0 < s.here.sp.tagSets ∧ held (line 4#6) 1 ∧ (∀ k, held (line 4#6) k → k = 1) ∧
    (∀ j, ¬ held (line 8#6) j) ∧ (8 * 2 ≤ (s.me.rg 6).toNat) ∧ (s.here.sp.ropesFlag = true ∧ 6 ≤ (s.me.rg 7).toNat % 8) ∧
    ((s.me.rg 5).toNat < 8 * 2 ∧ (s.me.rg 5).toNat % 8 = 7) ∧ (1 < 8 * 2 ∧ 1 % 8 < 6) := by
  have key : ∀ l j, (Tab.get? (⟨[(1, 2)]⟩ : Tab Nat) j = some l) → j = 1 ∧ l = 2 := by
    intro l j h
    simp only [Tab.get?, getList] at h
    split at h
    · next e => exact ⟨e, by cases h; rfl⟩
    · cases h
  refine ⟨rfl, by decide, by decide, fun k h => (key _ _ h.1).1, fun j h => ?_, by decide, by decide, by decide, by decide⟩
  have := (key _ _ h.1).2
  exact absurd this (by decide)

/-- Whether a rope operation succeeds. -/
def okR {α : Type} (r : Except RFail (α × State)) : Bool :=
  match r with
  | .ok _ => true
  | .error _ => false
/-- The status a rope operation ends with; 0 where it does not end with one. -/
def stR {α : Type} (r : Except RFail (α × State)) : Nat :=
  match r with
  | .error ⟨.status n _, _⟩ => n
  | _ => 0
/-- A leaf of two 4-byte elements with one reference, and the entry of a 2 MiB page of partition 0 at virtual address 0. -/
def leafB : List Byte := ({ part := 0, leaf := true, len := 2, left := 0x10000, right := 0, schema := 3 } : RNode).bytes
/-- See `leafB`. -/
def page : TlbE := ⟨0xA000000000000000#64, 0xC000000000000000#64⟩
/-- A state with that leaf at 0x80, a root cell at 0x200 that names it, and that page, in a given core. -/
def stR0 (c : Core) : State :=
  { stC c with
    dies := ⟨[(0, { tlb := ⟨[(0, page)]⟩ })]⟩
    mod := { power := .run, phase := .ready, mem := { hbm := Mem.writeBytes (Mem.writeBytes [] 0x80 leafB) 0x200 (leBytes 8 0x80) } } }

/-- A set whose ways are all valid, way 3 the least recently returned of them. -/
theorem wit_GuardAndTagResults_victim :
    let s := stC { coreG [(4, 0x800#64)] with
      sp := { tagSets := 1, tags := ⟨(List.range 8).map fun w => (w, w + 3)⟩, tagAge := [1, 0, 2, 4, 5, 6, 7, 3] } }
    (∀ j, ¬ (s.here.sp.tags.get? j = some ((s.me.rg 4).toNat / 1024) ∧ j / 8 = 0)) ∧
    (∀ w < 8, s.here.sp.tags.has (8 * ((s.me.rg 4).toNat / 1024 % 1) + w) = true) ∧ (∃ w < 8, w ∈ s.here.sp.tagAge) := by
  refine ⟨fun j h => ?_, by decide, ⟨1, by decide, by decide⟩⟩
  have : j < 8 := by omega
  revert h; interval_cases j <;> decide

/-- A valid schema with no slot; a block and a source at their ends. -/
theorem wit_RopeEdits_issue :
    let s := stC { coreG [(4, 0xBFFF8#64), (5, 2#64), (6, 0xBFFF0#64)] with en := { schemas := ⟨[(0, 3)]⟩ } }
    (∀ q ∈ s.here.en.defers, q.owner ≠ s.slot) ∧ schemaEsz 3 = 4 ∧ s.here.en.schemas.has 0 = true ∧ 2 * 4 ≤ 65472 ∧
    ((s.me.rg 4).toNat + 2 * 4 ≤ 0xC0000 ∧ (s.me.rg 4).toNat % 8 = 0) ∧ s.here.en.ropeQ.length < 16 ∧
    ((s.me.rg 6).toNat % 8 = 0 ∧ (s.me.rg 6).toNat + Nat.max 16 8 ≤ 0xC0000) ∧
    s.here.sp.readRace s.slot [(0xBFFF0, 16)] = none ∧ s.here.sp.poisonIn 0xBFFF0 16 = none ∧
    ∀ q ∈ granules 0xBFFF0 16, s.here.sp.dmaWriteConflict (.edit s.cur s.here.en.ticketNext) s.slot (s.here.sp.seenRow s.slot) q = false := by
  refine ⟨nofun, by decide, by decide, by decide, by decide, by decide, by decide, by decide, by decide, by decide⟩

/-- An RNEW of no elements at the head of the queue, one that has started, and an RCAT whose root is no node. -/
theorem wit_RopeEdits_run :
    let e : Edit := { ticket := 1, owner := 0, slot := 0, instr := .rnew 1#6 2#6 3#6 4#6 0#2, ga := 0#64, gb := 0#64, block := 0x100,
                      par := [], schema := 3, sel := 0#3, ver := 0, row := {} }
    let q : Edit := { e with instr := .rcat 1#6 2#6 3#6 4#6, ga := 0x81#64 }
    let s := stR0 (coreG [])
    let x : Access := { core := 0, rope := true, l1 := true, part := 0 }
    let c : Core := { coreG [] with en := { ropeQ := [e], schemas := ⟨[(0, 3)]⟩ } }
    c.en.editRun = none ∧ c.en.evHeld = [] ∧ c.en.ropeQ = e :: [] ∧ e.fault = none ∧ okR (editStart x e s) = true ∧
    stR (editStart x q s) = 0x10 ∧ okR (editBuild x { e with started := true } s) = true ∧ e.miss = none ∧ e.gb = 0#64 ∧
    e.reserved = [] ∧ e.piece = none ∧ (e.roots = none ∧ e.landed = []) ∧
    (let v : Edit := { e with started := true, roots := some [0x80], landed := [0] }
     v.roots = some [0x80] ∧ (∀ j < [0x80].length, j ∈ v.landed) ∧ v.miss = none) := by
  refine ⟨rfl, rfl, rfl, rfl, by decide +kernel, by decide +kernel, by decide +kernel, rfl, rfl, rfl, rfl, ⟨rfl, rfl⟩, rfl, by decide, rfl⟩

/-- A leaf of two elements read, an element past its end, an address that is no node, the empty rope; a range block and a schema block. -/
theorem wit_RopeQueries :
    let s := stR0 { coreG [(4, 0x80#64), (5, 1#64), (6, 0x40#64)] with
      sp := { mem := Mem.writeBytes [] 0x40 (leBytes 8 0 ++ leBytes 8 2) }, en := { schemas := ⟨[(0, 3)]⟩ } }
    let x := ropeAccess s s.cur
    (∀ q ∈ s.here.en.defers, q.owner ≠ s.slot) ∧ ropeOps s.here < 4 ∧ okR (elemOf x 0x80 1 s) = true ∧ stR (elemOf x 0x80 2 s) = 0x12 ∧
    stR (rootOf x 0x81 s) = 0x10 ∧ (s.me.rg 0) = 0#64 ∧ okR (rootOf x 0x80 s) = true ∧
    (s.here.sp.readRace s.slot [(0x40, 32)] = none ∧ s.here.sp.poisonIn 0x40 32 = none ∧ s.here.sp.writeRace s.slot [(0x40, 32)] = none) ∧
    okR (rangeSum 4#6 (s.me.rg 6) 0 s) = true ∧ s.inTaste = false ∧
    (match readCell x 0x200 (dropCache s s.cur) with
      | .ok (r, _) => r
      | .error _ => 0) = 0x80 ∧
    okR (takeRef x 0x80 s) = true ∧ okR (recordTake x 0x80 s) = true ∧ okR (writeMem x 0x200 (leBytes 8 0) s) = true ∧
    okR (readNode x 0x80 s) = true ∧ okR (refNow x 0x80 false s) = true ∧ schemaOk 3 = true ∧ schemaOk 0x1000 = false := by
  refine ⟨nofun, by decide, by decide +kernel, by decide +kernel, by decide +kernel, rfl, by decide +kernel, by decide, by decide +kernel,
    rfl, by decide +kernel, by decide +kernel, by decide +kernel, by decide +kernel, by decide +kernel, by decide +kernel, by decide,
    by decide⟩

/-- A taste run with a root recorded for it. -/
theorem wit_RopeQueries_taste :
    let s0 := stR0 (tasteRun (coreG []))
    let s := s0.updDie 0 fun d => { d with parts := ⟨[(0, { tastes := ⟨[(0, { phase := .run2, roots := [0x80] })]⟩ })]⟩ }
    s.inTaste = true ∧ okR (recordedTake (ropeAccess s s.cur) (dropCache s s.cur)) = true := by
  refine ⟨rfl, by decide +kernel⟩

/-- An update in flight to a count that is translated; a freed record to take apart, and one that every unit has dropped. -/
theorem wit_CountsAndReclaim :
    let s := stR0 (coreG [])
    let t := s.updMem fun m => { m with refUpd := [(0x90, false, 0, 0)] }
    let q := (stG []).updMem fun m => { m with refUpd := [(0x90, false, 0, 0)] }
    let missed : Except AccErr (List Byte × Nat × State) → Bool := fun r => match r with
      | .error (.miss _) => true
      | _ => false
    let dec : List Byte → List Byte := fun b => leBytes 4 (State.newCount false (0x90 % 65536 == 0) (leNat b))
    let f : Freed := { va := 0x80, part := 0, piece := false, epoch := 0, done := false }
    t.mod.mem.refUpd = (0x90, false, 0, 0) :: [] ∧ t.mod.mem.tagRuns = [] ∧
    (t.modify (State.countAccess 0 0) 0x90 4 dec).toBool = true ∧ (s.modify (State.countAccess 0 0) f.va 128 fun _ => leBytes 128 0).toBool = true ∧
    missed (q.modify (State.countAccess 0 0) 0x90 4 dec) = true ∧ (q.die 0).declared = [] ∧
    missed (q.modify (State.countAccess 0 0) f.va 128 fun _ => leBytes 128 0) = true ∧ f.done = false ∧ allDropped s f.epoch = true := by
  refine ⟨rfl, rfl, by decide +kernel, by decide +kernel, by decide +kernel, rfl, by decide +kernel, rfl, by decide +kernel⟩

/-- Words that TLBW takes and refuses, an entry that is dirty, a request that waits, a timer that has run out. -/
theorem wit_TranslationResults :
    let dirty := page.setDirty true
    let s := { stR0 (coreG [(4, page.w0), (5, page.w1), (6, 0#64), (7, 16384#64), (8, 15#64), (9, 16#64), (10, 1#64)]) with
      dies := ⟨[(0, { tlb := ⟨[(0, dirty)]⟩, timer := 0, waits := [⟨0, 0x200000, 0, false, .copy⟩] })]⟩ }
    let x := s.die (coreDie s.cur)
    let v : Fld → Nat := fun a => (s.me.rg a.toNat).toNat
    tlbwBad (s.me.rg 4) (s.me.rg 5) = none ∧ tlbwBad (s.me.rg 6) (s.me.rg 5) = some 0#64 ∧ (s.me.rg 6).getLsbD 63 = false ∧
    (v 8#6 < 16 ∧ 16 ≤ v 9#6) ∧ x.tlb.entries.find? (fun q => v 6#6 ≤ q.1 && q.2.valid && q.2.dirty) = some (0, dirty) ∧
    x.tlb.entries.find? (fun q => v 10#6 ≤ q.1 && q.2.valid && q.2.dirty) = none ∧ (16384 ≤ v 7#6 ∧ v 10#6 < 16384) ∧
    (waitsOn s ⟨0, 0x200000, 0, false, .copy⟩ = true ∧ (s.cluster 0).xreqs.contains ⟨0, 0x200000, 0, false, .copy⟩ = false) ∧
    (s.die 0).timer ≤ s.mod.clock ∧ (s.here.en.evHeld = [] ∧ s.here.en.events.length + 1 ≤ 32 ∧
      (x.tlb.entries.filter fun q => q.2.valid && !x.pinned q.1 && q.2.dirty).length = 1) := by
  refine ⟨rfl, rfl, rfl, by decide, rfl, rfl, by decide, by decide, by decide, by decide⟩

/-- A sector with one symbol in error and one with two. -/
theorem wit_TranslationResults_scrub :
    let m : Memory := { flips := [(3, 0), (4, 1), (4, 39)] }
    (m.flips.filter fun f => f.1 == 3).length = 1 ∧ (m.flips.filter fun f => f.1 == 4).length = 2 ∧
    (m.flips.filter fun f => f.1 == 5).length = 0 ∧ m.poison.contains 3 = false := by decide

/-- A request at its service core that an entry of a remote page answers, and a context that waits for it; a sector without
poison; host accesses at the end of a window, in RUN, in PARK and in SLEEP. -/
theorem wit_TranslationResults_events :
    let r : XReq := ⟨0, 0x10000, 0, false, .copy⟩
    let s0 := stR0 { bar := { ctxs := ⟨[(0, { ctxG [] with heldOn := some r })]⟩ } }
    let s := s0.updCluster 0 fun c => { c with xreqs := [r] }
    (s.cluster (coreCluster r.core)).xreqs.contains r = true ∧
    entryFits s r ⟨0x8000000000010000#64, 0xC000000020000000#64⟩ = true ∧
    (⟨0x8000000000010000#64, 0xC000000020000000#64⟩ : TlbE).remote = true ∧ ((s.core 0).ctx 0).heldOn = some r ∧
    (s.mod.power = .run ∧ 3 * 64 % 2 ^ 37 < 96000000000 ∧ s.mod.mem.poison.contains 3 = false ∧ s.mod.phase = .ready ∧ s.mod.aperIn = []) ∧
    ((0x100 + [1#8].length ≤ 2 ^ 36) ∧ ((s.updMod fun k => { k with aperIn := [{ vf := 0, va := 0x100, bytes := some [1#8], n := 1 }] }).writeVirt
      (aperAccess s 0) 0x100 [1#8]).toBool = true) ∧
    ((s.updMod fun k => { k with aperIn := [{ vf := 0, va := 0x100, bytes := none, n := 4 }] }).readVirt
      (aperAccess s 0) 0x100 4).toBool = true := by
  refine ⟨rfl, rfl, rfl, rfl, by decide, ⟨by decide, by decide +kernel⟩, by decide +kernel⟩

/-- A good control word for core 1 of the map, a bad one, senders with room and without, the service slot, a handler at work; RECAST of
a good entry and of a bad one. -/
theorem wit_MessageInstructions :
    let w : Word := 0x00010001#64
    let s := stG []
    let m : Msg := { src := 1, tgt := 0, exists_ := true, hnum := 16, arg := 0#64, dat := 0#64, reply := none, th := none, gen := 0#16,
                     launch := 0, rel := {} }
    (∀ q ∈ s.here.en.defers, q.owner ≠ s.slot) ∧ (let u := stC (tasteRun (coreG [])); u.inTaste = true ∧ controlTarget u w ≠ some u.cur) ∧
    s.inTaste = false ∧ s.here.li.outstanding < 16 ∧ s.slot ≠ 11 ∧ controlOk w true = true ∧ controlOk 1#64 false = true ∧
    controlOk (1#64 <<< 42) true = false ∧ controlTarget s w = some 1 ∧ (replySlot s.here w).toBool = true ∧ s.here.run.any (·.twin) = false ∧
    16 ≤ (stC { coreG [] with li := { outstanding := 16 } }).here.li.outstanding ∧ (m.th = none ∧ m.also = none) ∧
    s.logicalNo 0 = some 0 ∧ (stS []).logicalNo 9 = none ∧ (stS []).isService 9 = true ∧ s.isService 0 = false ∧
    (roleCodesOk 0x803DE000#32 = true ∧
      wiringOk ((List.range 8).map fun l => if l = 7 then 0x803DE000#32 else (stS []).roleEntry 0 l) = true) ∧
    roleCodesOk 0x80200000#32 = false := by
  refine ⟨nofun, by decide, rfl, by decide, by decide, rfl, rfl, rfl, rfl, rfl, rfl, by decide, ⟨rfl, rfl⟩, rfl, rfl, rfl, rfl, ⟨rfl, by decide⟩, rfl⟩

/-- A message of a kind for a core that runs launch 0. -/
def msgOf (h : Nat) (arg : Word) : Msg :=
  { src := 1, tgt := 0, exists_ := true, hnum := h, arg := arg, dat := 5#64, reply := none, th := none, gen := 0#16, launch := 0, rel := {} }
/-- The core that has it in its mailbox, with a table of one handler. -/
def coreMsg (h : Nat) (arg : Word) : Core :=
  { coreG [] with run := some run0, bar := { ctxs := ⟨[(0, ctxG [])]⟩, amtab := 1#64 }, li := { mailbox := [msgOf h arg] } }

/-- The last user handler, and a number past the table; arguments of the built-ins at their ends. -/
theorem wit_ArrivalsAtACore_msg :
    let s : Nat → Word → State := fun h arg => stC (coreMsg h arg)
    nextMsg (s 16 0#64).here = some (msgOf 16 0#64) ∧ refusal (s 16 0#64) 0 (msgOf 16 0#64) = none ∧
    refusal (s 17 0#64) 0 (msgOf 17 0#64) = some (1, 0#64) ∧ refusal (s 1 0x30BFFF8#64) 0 (msgOf 1 0x30BFFF8#64) = none ∧
    (0x30BFFF8 = 0x30BFFF8 % 2 ^ 20 + 2 ^ 23 * (Nat.log2 8 + 3) ∧ 0x30BFFF8 % 2 ^ 20 ≤ 0xBFFFF ∧ 0x30BFFF8 % 2 ^ 20 % 8 = 0) ∧
    (0x14BFFFF = 0x14BFFFF % 2 ^ 20 + 2 ^ 20 * 4 + 2 ^ 23 * 2 ∧ 4 % 2 ^ 2 = 0 ∧ 0x14BFFFF % 2 ^ 20 ≤ 0xBFFFF) ∧
    refusal (s 2 0x18BFFF8#64) 0 (msgOf 2 0x18BFFF8#64) = none ∧
    (0x18BFFF8 = 0x18BFFF8 % 2 ^ 20 + 2 ^ 20 * 8 + 2 ^ 24 * 1) ∧ refusal (s 3 0xBFFFC#64) 0 (msgOf 3 0xBFFFC#64) = none ∧
    (s 3 0#64).here.sp.readRace 11 [(0xBFFFC, 4)] = none ∧ (s 3 0#64).here.sp.writeRace 11 [(0xBFFF8, 8)] = none ∧
    (s 3 0#64).here.sp.poisonIn 0xBFFF8 8 = none ∧ (msgOf 3 0#64).src ≠ 0 ∧
    (genOk (s 3 0#64) 1#16 = false ∧ genOk (s 3 0#64) 0#16 = true ∧ (stC {}).here.run = none ∧ run0.launch = (msgOf 3 0#64).launch ∧
      (s 3 0#64).here.handle? 5 = none ∧ refusal (s 3 0#64) 0 { msgOf 3 0#64 with th := some (5, 0) } = some (5, 0#64)) := by
  refine ⟨rfl, rfl, rfl, rfl, by decide, by decide, rfl, by decide, rfl, by decide, by decide, by decide, by decide, by decide⟩

/-- A mailbox with room and a full one, a sealed core; replies with a slot and without; a word, a credit and a dry input. -/
theorem wit_ArrivalsAtACore_links :
    let m := msgOf 16 0#64
    let c : Core := { coreG [] with li := { amIn := [m], mailbox := List.replicate 15 m, replies := [⟨some (0, 0), State.replyBytes 0 0 7#64, 0#16, {}, 0⟩] },
                                    sp := { handles := ⟨[(0, ({ base := 0, size := 64, n := 1 } : Handle))]⟩ } }
    let s := stC { c with wired := 0x803DE500#32, li := { c.li with wire := ⟨[(0, [7#64])]⟩, creditBack := ⟨[(1, 1)]⟩, dry := ⟨[(0, 1024)]⟩ } }
    c.li.amIn = m :: [] ∧ c.li.killed = false ∧ c.li.isSealed = false ∧ c.li.mailbox.length < 16 ∧
    16 ≤ ({ c.li with mailbox := List.replicate 16 m } : Links).mailbox.length ∧ m.also = none ∧
    c.li.replies = ⟨some (0, 0), State.replyBytes 0 0 7#64, 0#16, {}, 0⟩ :: [] ∧ (c.handle? 0).isSome = true ∧
    (∀ e ∈ c.bar.ctxs.entries, ∀ k, e.2.wait ≠ some (.handleFull 0 k)) ∧
    (({ base := 0, size := 64, n := 1 } : Handle).arrive 0 16 (Row.obs 1) none).isSome = true ∧
    s.here.li.wire.get 0 [] = 7#64 :: [] ∧ (s.here.li.inq.get 0 []).length < 8 ∧ s.here.li.creditBack.get 1 0 ≠ 0 ∧
    (dryLimit s 0 = 10 ∧ s.here.li.dryTold.get 0 false = false ∧ 2 ^ dryLimit s 0 ≤ s.here.li.dry.get 0 0) := by
  refine ⟨rfl, rfl, rfl, by decide, by decide, rfl, rfl, rfl, ?_, rfl, rfl, by decide, by decide, by decide⟩
  intro e he k; simp only [coreG, List.mem_singleton] at he; subst he; nofun

/-- A snapshot of a raw copy of 64 bytes within the scratchpad of logical core 0, guarded or not. -/
def rawSh (g : Word) : Tab Word :=
  ⟨[(0, 0x8000000000000100#64), (1, 0x8000000000000200#64), (2, 64#64), (5, 0x100010001#64), (10, g)]⟩
/-- That copy in a queue or in flight. -/
def rawCopy (g : Word) (started : Bool) : Copy :=
  { tid := 1, owner := 0, slot := 0, sh := rawSh g, fmode := 0#64, row := {}, targets := [], rcv := [(0, none)], gen := 0#16, started := started }

/-- A plan that checks and one that does not; remembered statuses, a stale one and none; a copy in flight. -/
theorem wit_CopyInstructions :
    let c : Core := { coreG [(4, 2#64), (5, 3#64), (6, 1#64), (7, 9#64)] with
      en := { shadow := rawSh 0#64, flight := [.copy (rawCopy 0#64 true)], tidNext := 4,
              remembered := [{ tid := 2, status := 0#16, obs := {}, gen := 0#16 }, { tid := 3, status := 0x16#16, obs := {}, gen := 7#16, stale := true }] },
      bar := { ctxs := ⟨[(0, { ctxG [(4, 2#64), (5, 3#64), (6, 1#64), (7, 9#64)] with tvec := 8#64 })]⟩ } }
    let s := stC c
    let inc : Nat → Bool := fun r => s.here.incomplete ((s.me.rg r).toNat % 65536)
    (∀ q ∈ s.here.en.defers, q.owner ≠ s.slot) ∧ s.inTaste = false ∧ (readPlan (rawSh 0#64)).op = 0 ∧ s.here.en.copyQ.length < 16 ∧
    planCheck s s.cur (rawSh 0#64) = none ∧ (copyTargets s s.cur (readPlan (rawSh 0#64))).toBool = true ∧
    planCheck s s.cur {} = some 0x20 ∧ (inc 4 = false ∧ inc 5 = false ∧ inc 6 = true ∧ inc 7 = false) ∧
    s.here.en.remembered.find? (fun r => r.tid == 2) = some { tid := 2, status := 0#16, obs := {}, gen := 0#16 } ∧
    s.here.en.remembered.find? (fun r => r.tid == 9) = none ∧
    (s.here.en.remembered.find? fun r => r.tid == 3 && r.stale).isSome = true ∧ s.me.tvec ≠ 0#64 ∧
    collOk (.clbar 1#6 2#6) (List.replicate 30 0#8 ++ leBytes 2 1 ++ List.replicate 32 0#8) = true ∧
    collOk (.clbar 1#6 2#6) (List.replicate 64 0#8) = false ∧
    (stC (tasteRun (coreG []))).inTaste = true ∧ (readPlan ⟨[(9, 1#64)]⟩).op = 1 := by
  refine ⟨nofun, rfl, rfl, by decide, by decide +kernel, rfl, by decide +kernel, by decide, rfl, rfl, rfl, by decide, by decide +kernel,
    by decide +kernel, rfl, by decide⟩

/-- TLBINV of a page that a sum between its read and its write has pinned, and of one that none has. -/
theorem wit_TranslationResults_tlbinv :
    let m : Copy := { rawCopy 0#64 true with staged := [(0, [], false)], pinned := [0] }
    let s := stR0 { coreG [] with en := { flight := [.copy m] } }
    let t := stR0 (coreG [])
    let f : State → State := fun x => x.updDie 0 fun d => { d with tlb := ⟨[(0, page)]⟩ }
    (f s).applying 0 (fun e => e.valid) = true ∧ (f t).applying 0 (fun e => e.valid) = false ∧
    (match execTlbinv 3#6 4#6 5#6 2#2 (f s) with
      | .next u => u.me.held == some (.tlbinv 3#6 4#6 5#6 2#2) && u.me.pc == s.me.pc
      | _ => false) = true ∧
    (match execTlbinv 3#6 4#6 5#6 2#2 (f t) with
      | .next u => u.me.held == none && u.me.pc == t.me.pc + 8#64
      | _ => false) = true := by
  refine ⟨by decide +kernel, by decide +kernel, by decide +kernel, by decide +kernel⟩

/-- A copy at the head of its queue, unguarded, with its guard UNSET, and resolved against it. -/
theorem wit_CopyEngineResults_head :
    let c : Core := { coreG [] with en := { copyQ := [.copy (rawCopy 0#64 false)] } }
    let g : Core := { coreG [] with en := { copyQ := [.copy (rawCopy 0x20#64 false)] } }
    let f := { g with sp := { guards := ⟨[(0, { val := some false })]⟩ } }
    let p := readPlan (rawSh 0#64)
    let q := readPlan (rawSh 0x20#64)
    c.en.copyQ = .copy (rawCopy 0#64 false) :: [] ∧ c.en.evHeld = [] ∧ p.ge = false ∧
    tasteDiscards 0 (rawCopy 0#64 false) p = false ∧ lacksCredit c p = false ∧ engineLoad (stC c) 0 < 16 ∧
    (q.ge = true ∧ (g.guard q.gsl).val = none) ∧ ((f.guard q.gsl).val = some q.gs ∧ f.en.events.length < 32) ∧
    (rawCopy 0#64 false).fate = none ∧ ({ rawCopy 0#64 false with fate := some false } : Copy).fate = some false := by
  refine ⟨rfl, rfl, rfl, rfl, by decide, by decide, by decide, by decide, rfl, rfl⟩

/-- A copy from virtual address 0x100 in flight: its source's sector. -/
theorem wit_CopyEngineResults_replay :
    let m := { rawCopy 0#64 true with
      sh := ⟨[(0, 0x100#64), (1, 0x8000000000000200#64), (2, 64#64), (5, 0x100010001#64)]⟩ }
    let s := stR0 { coreG [] with en := { flight := [.copy m] } }
    (s.core 0).copyOf 1 = some m ∧ copySector s 0 m 4 = true ∧ copySector s 0 m 5 = false ∧
    (let v := moveAll (s.updMem fun k => { k with mute := [4] }) (readPlan m.sh) 0 m []
     (readPlan m.sh).op = 0 ∧ v.miss = none ∧ v.mute = some 4) := by
  refine ⟨rfl, by decide +kernel, by decide +kernel, rfl, by decide +kernel, by decide +kernel⟩

/-- Thirty-two ones under the scale 2^1: 4 units each of a plane count of 4, which fit. -/
theorem wit_CopyEngineResults_record :
    let v := Val.num false 1 0
    (∀ x ∈ List.replicate 32 v, ∃ n m e, x = .num n m e) ∧ (List.replicate 32 v).length = 32 ∧
    ∃ e0 < 255, ∀ x ∈ List.replicate 32 v, ∀ i : Int, Rnd.rtz.Rounds (x.toRat / (2 : ℚ) ^ ((e0 : Int) - 127 - (4 - 1))) i →
      -(2 ^ (4 - 1)) ≤ i ∧ i < 2 ^ (4 - 1) := by
  refine ⟨fun x h => ⟨_, _, _, List.eq_of_mem_replicate h⟩, rfl, 128, by decide, fun x h i r => ?_⟩
  rw [List.eq_of_mem_replicate h] at r
  have h4 : |(i : ℚ)| ≤ 4 := by
    have := r.1
    norm_num [Val.toRat] at this
    exact this
  have := abs_le.mp h4
  constructor
  · have h1 : (-8 : ℚ) ≤ i := by linarith [this.1]
    norm_num; exact_mod_cast h1
  · have h2 : (i : ℚ) < 8 := by linarith [this.2]
    norm_num; exact_mod_cast h2

/-- A raw copy in flight whose units move without error. -/
theorem wit_CopyEngineResults_end :
    let s := stC { coreG [] with en := { flight := [.copy (rawCopy 0#64 true)] } }
    let m := rawCopy 0#64 true
    let p := readPlan m.sh
    let v := moveAll s p 0 m []
    (s.core 0).copyOf 1 = some m ∧ m.started = true ∧ m.miss = none ∧ m.status = none ∧ p.op = 0 ∧ genOk s m.gen = true ∧
    m.rcv = [(0, none)] ∧ m.targets = [] ∧ m.run.any (·.twin) = false ∧
    (v.miss = none ∧ v.errs = [] ∧ v.far = false ∧ v.lack = false ∧ v.mute = none) ∧
    (p.sf = 0 ∧ p.df = 0 ∧ p.mf = 0 ∧ p.ssp = true ∧ p.dsp = true ∧ p.e1 = 1 ∧ p.e2 = 1 ∧ p.e3 = 1 ∧ p.ge = false) ∧
    (s.core 0).sp.poisonIn p.src p.len = none ∧ p.src + p.len ≤ p.dst ∧ (m.replays < 16 ∧ m.read = []) ∧
    (let l : Copy := { m with landed := [(3, 0)], read := [(3, [0#8], false)] }
     ∀ y ∈ l.read, (y.1, 0) ∈ l.landed ∧ y.2.2 = false) := by
  refine ⟨rfl, rfl, rfl, rfl, rfl, rfl, rfl, rfl, rfl, by decide +kernel, by decide, by decide +kernel, by decide, by decide, by decide⟩

/-- A sum of 16 f32 elements in the scratchpad at its first pass. -/
theorem wit_CopyEngineResults_sum :
    let m := { rawCopy 0#64 true with
      sh := ⟨[(0, 0x8000000000000100#64), (1, 0x8000000000000200#64), (2, 64#64), (5, 0x100010001#64), (6, 0x101#64), (9, 1#64)]⟩ }
    let s := stC { coreG [] with en := { flight := [.copy m] } }
    let p := readPlan m.sh
    (s.core 0).copyOf 1 = some m ∧ p.op ≠ 0 ∧ m.applied < p.total ∧ m.run.any (·.twin) = false ∧
    (p.ssp = true ∧ p.dsp = true ∧ p.e1 = 1 ∧ p.e2 = 1 ∧ p.e3 = 1 ∧ m.rcv = [(0, none)] ∧ m.staged = [] ∧
      ({ m with staged := [(0, [], false)] } : Copy).staged ≠ []) ∧ isPlane p.sf = false ∧
    p.df ∈ [1, 2, 8] ∧ (s.die (coreDie 0)).pins.entries.length ≤ 8192 := by
  refine ⟨rfl, by decide, by decide +kernel, rfl, by decide, by decide, by decide, by decide⟩

/-- A barrier in flight at each of its ends; a record kept back and an event queue with room and without. -/
theorem wit_CopyEngineResults_coll :
    let m : Coll := { tid := 1, owner := 0, slot := 0, instr := .clbar 1#6 2#6, block := List.replicate 64 0#8, fmode := 0#64, row := {},
                      gen := 0#16, seq := 0, started := true }
    let c : Core := { coreG [] with en := { flight := [.coll m], evHeld := [{ w0 := 1#64, w1 := 2#64 }] },
                                    bar := { ctxs := ⟨[(0, ctxG [])]⟩, cycle := 0x40000000#64 } }
    (stC c).here.collOf 1 = some m ∧ m.started = true ∧ 2 ^ 30 + m.startAt ≤ c.bar.cycle.toNat ∧ genOk (stC c) m.gen = true ∧
    genOk (stC c) 1#16 = false ∧ m.miss = none ∧ m.status = none ∧ m.all = none ∧ (∃ d a, m.instr = .clbar d a) ∧
    c.en.evHeld = { w0 := 1#64, w1 := 2#64 } :: [] ∧ c.en.events.length < 32 ∧
    32 ≤ (List.replicate 32 ({ w0 := 1#64, w1 := 2#64 } : EvRec)).length ∧ earlierPending c m = false ∧
    earlierPending { c with en := { c.en with flight := [.coll m, .coll { m with tid := 2, seq := 1 }] } } { m with tid := 2, seq := 1 } = true ∧
    endedBefore (stC c) 0 m = none ∧ m.gone = [] ∧ (({ m with status := some 0x12#16 } : Coll).status = some 0x12#16 ∧ m.owes = none) := by
  refine ⟨rfl, rfl, by decide, rfl, rfl, rfl, rfl, rfl, ⟨1#6, 2#6, rfl⟩, rfl, by decide, by decide, by decide, by decide, rfl, rfl, rfl, rfl⟩

/-- A barrier of this core and one of module 5 that nothing has ended yet, and one of this core alone. -/
theorem wit_CopyEngineResults_status :
    let m : Nat → Coll := fun n => { tid := 1, owner := 0, slot := 0, instr := .clbar 1#6 2#6, fmode := 0#64, row := {}, gen := 0#16, seq := 0, started := true,
                                     block := List.replicate 16 0#8 ++ leBytes 8 0x300 ++ List.replicate 6 0#8 ++ leBytes 2 n ++ List.replicate 32 0#8 }
    let s : Nat → State := fun n => (stR0 { coreG [] with en := { flight := [.coll (m n)] } }).updMem fun k => { k with hbm := Mem.writeBytes [] 0x304 (leBytes 4 5) }
    let q : Nat → CollBlock := fun n => readColl (m n).block
    let tb : List Byte := leBytes 4 0 ++ leBytes 4 5
    (m 2).all = none ∧ genOk (s 2) (m 2).gen = true ∧ endedBefore (s 2) 0 (m 2) = none ∧
    (match Gathered.read { s := s 2 } 0 (m 2) (q 2).table 8 4 with
      | (some (b, _), g) => let h := (List.range 2).foldl (Gathered.step { m 2 with peers := [5] } b []) g
                            b == tb && h.miss.isNone && h.fails.isEmpty
      | _ => false) = true ∧
    tablePeers (s 2) 2 tb = [5] ∧ [5].any (m 2).gone.contains = false ∧ rankNames (s 2) 0 (m 2) tb = true ∧
    (match Gathered.read { s := s 1 } 0 (m 1) (q 1).table 4 4 with
      | (some (b, _), _) => (tablePeers (s 1) 1 b).isEmpty
      | _ => false) = true := by
  refine ⟨rfl, rfl, rfl, by decide +kernel, by decide +kernel, rfl, by decide +kernel, by decide +kernel⟩

/-- A gather of one f32 element whose participants are read, its page mapped. -/
theorem wit_CopyEngineResults_gather :
    let b := leBytes 8 0x100 ++ leBytes 8 0x100 ++ leBytes 8 0x200 ++ leBytes 4 1 ++ [1#8, 0#8] ++ leBytes 2 1 ++ List.replicate 32 0#8
    let xs : List (List Byte) := [leBytes 4 0x3F800000]
    let m : Coll := { tid := 1, owner := 0, slot := 0, instr := .clgat 1#6 2#6, block := b, fmode := 0#64, row := {},
                      gen := 0#16, seq := 0, started := true, all := some xs }
    let s := stR0 { coreG [] with en := { flight := [.coll m] } }
    s.here.collOf 1 = some m ∧ collOk m.instr b = true ∧ genOk s m.gen = true ∧ m.bad = [] ∧ earlierPending s.here m = false ∧
    collResult m.instr (readColl m.block) m.fmode xs ≠ [] ∧
    (match s.writeAs (collParty s 0 m) (collAccess 0 m) (readColl m.block).dst (collResult m.instr (readColl m.block) m.fmode xs) with
      | .ok (stays, _) => !stays
      | .error _ => false) = true := by
  refine ⟨rfl, by decide +kernel, rfl, rfl, by decide, by decide +kernel, by decide +kernel⟩

/-- A press request block of operation 0, 1 byte from 0x40 to SRAM offset 0, and one whose reserved byte is set. -/
def prqB (slen rsv : Nat) : List Byte := leBytes 8 rsv ++ leBytes 4 0x40 ++ leBytes 4 slen ++ List.replicate 16 0#8
/-- An SRAM with a vocabulary of one token of one byte; the zero SRAM is a vocabulary that holds nothing. -/
def vocab1 : Mem := Mem.writeBytes (Mem.writeBytes [] 8 (leBytes 4 64 ++ leBytes 4 1)) 64 (leBytes 4 80 ++ leBytes 4 1 ++ [0#8])

/-- Request blocks that fail FIELD and RANGE and one that is good; tickets free and none; a core that has been refused
seven times; a request that is complete and one that is not;
tables that answer and one that is malformed; strings of 1, 32 and 33 bytes; a token. -/
theorem wit_PressAndText :
    let c : List Byte → Core := fun b => { coreG [(4, 0x100#64), (5, 32#64)] with sp := { mem := Mem.writeBytes [] 0x100 b } }
    let r : PressReq := { op := 0, kind := 0, src := 0x40, slen := 1, dst := 0, dlen := 0, hslot := none, slot := 0, row := {} }
    let due : Core := { c [] with en := { pressTries := 7 } }
    let full : Core := { coreG [] with en := { press := ⟨[(1, r), (2, r), (3, r), (4, { r with result := some 5#64 })]⟩ } }
    let bad : Mem := Mem.writeBytes [] 4 [15#8]
    prqFieldOk (prqB 1 0x1000000) = false ∧ prqFieldOk (prqB 0xC0000 0) = true ∧ prqRangeOk (readPrq (prqB 0xC0000 0)) = false ∧
    (prqCheck (c (prqB 1 0)) 0 0x100#64 0 0).toBool = true ∧ freeTicket (c []) = some 1 ∧ freeTicket full = none ∧
    pressAccepts (stC due) due = true ∧ pressAccepts (stC full) full = false ∧ freeTicket due = some 1 ∧ 7 ≤ pressTries due ∧
    full.en.press.get? 1 = some r ∧ r.result = none ∧ (full.en.press.get? 4).map (·.result) = some (some 5#64) ∧
    (c []).sp.readRace 0 [(0x100, 33)] = none ∧ (c []).sp.poisonIn 0x100 33 = none ∧
    lookupWord [] (pairHash 1 2) (fun _ _ _ _ => none) noMatch = some 0xFFFFFFFF ∧
    lookupWord bad (pairHash 1 2) (fun _ _ _ _ => none) noMatch = none ∧
    (tokenBytes vocab1 0).toBool = true ∧ (c []).en.matcher.hit = false ∧ (32 + 64 ≤ 0xC0000) ∧
    (c []).sp.writeRace 0 [(0x100, 64)] = none ∧ (emitByte (({} : Matcher), []) 65#8).1.hit = false ∧ r.hslot = none ∧
    (let k : Matcher := { hold := [65#8] }
     k.hit = false ∧ (({} : Spad).stampWrite 1 (0x100 / 64)).writeRace 0 [(0x100, k.hold.length)] = some 0x100) := by
  refine ⟨rfl, rfl, rfl, rfl, rfl, rfl, rfl, rfl, rfl, by decide, rfl, rfl, rfl, by decide, by decide, by decide +kernel, by decide +kernel,
    by decide +kernel, rfl, by decide, by decide, by decide +kernel, rfl, by decide⟩

/-- A LOADTAB whose bytes arrive on a slot for which nobody waits. -/
theorem wit_PressAndText_slot :
    let r : PressReq := { op := 2, kind := 0, src := 0x40, slen := 1, dst := 0x80, dlen := 8, hslot := some (0, 0), slot := 0, row := {} }
    let h : Handle := { base := 0x80, size := 64, n := 1 }
    let s := stC { coreG [] with sp := { handles := ⟨[(0, h)]⟩ }, en := { press := ⟨[(1, r)]⟩ } }
    let y := pressResult r (s.here.sp.mem.readBytes r.src r.slen)
    s.here.en.press.get? 1 = some r ∧ r.result = none ∧ s.here.handle? 0 = some h ∧
    (∀ e ∈ s.here.bar.ctxs.entries, ∀ n, e.2.wait ≠ some (.handleFull 0 n)) ∧ (h.arrive 0 y.1.length (Row.obs 1) none).isSome = true := by
  refine ⟨rfl, rfl, rfl, ?_, by decide +kernel⟩
  intro e he k; simp only [stC, coreG, State.here, State.core, Tab.get, Tab.get?, getList, if_true, Option.getD_some, List.mem_singleton] at he
  subst he; nofun

/-- VMASKL of bf16 at the last byte of the scratchpad: 8 elements enabled. -/
theorem wit_PressAndText_vmaskl :
    let s := stG [(5, 0xBFFF8#64), (6, 0#64)]
    let e := venv s.me (md 1#3)
    let at_ : Nat → Nat := fun j => (s.me.rg 5 + BitVec.ofNat 64 (j / 8)).toNat
    let on := (List.range (1024 / e.w)).filter fun j => e.k.getLsbD (j * e.w / 32)
    (∀ j ∈ on, at_ j ≤ 0xBFFFF) ∧ s.here.sp.readRace s.slot (on.map fun j => (at_ j, 1)) = none ∧
    ∀ j ∈ on, s.here.sp.poisonIn (at_ j) 1 = none := by decide +kernel

/-- A descriptor of 32 bytes of code at virtual address 0, role worker, no tag region; a packet of one node. -/
def descB : List Byte := leBytes 8 0 ++ leBytes 4 32 ++ List.replicate 24 0#8 ++ [0x80#8, 0#8, 0#8, 7#8] ++ List.replicate 88 0#8
/-- See `descB`: the packet names it at 0x400, with room for one spawned node a die. -/
def packetB : List Byte := leBytes 4 9 ++ leBytes 4 1 ++ leBytes 8 0x400 ++ List.replicate 12 0#8 ++ leBytes 2 1 ++ List.replicate 34 0#8
/-- A state of launch 0 on die 0 with nodes; the page of `stR0`, with the descriptor at 0x400. -/
def stL (c : Core) (ns : List (Nat × Node)) : State :=
  { stC c with
    dies := ⟨[(0, { tlb := ⟨[(0, page)]⟩, parts := ⟨[(0, { nodes := ⟨ns⟩ })]⟩, levels := ⟨[(0, [⟨0, 0, .original⟩])]⟩ })]⟩
    mod := { power := .run, phase := .ready, mem := { hbm := Mem.writeBytes [] 0x400 descB },
             launches := ⟨[(0, { fn := 1, hseq := 1, packet := packetB, st := .running, liveMask := 1#8 })]⟩ } }

/-- A node that waits at each end of its counter, one that has ended, one the launch has not; a taste run. -/
theorem wit_GraphResults :
    let n : NodeSt → Nat → Node := fun st k => { desc := some descB, st := st, ctr := k }
    let s := stL { coreG [(4, 0#64), (5, 7#64), (6, 8#64), (7, 0x400#64), (8, 0x401#64), (9, 5#64)] with run := some run0 }
      [(0, n .waiting 0), (1, n .waiting 0xFFFE), (2, n .waiting 0xFFFF), (3, n .ended 0), (4, n .ready 1), (6, { desc := none, st := .waiting })]
    let v : Nat → Nat := fun r => (s.me.rg r).toNat
    s.here.run = some run0 ∧ s.inTaste = false ∧ (stC (tasteRun (coreG []))).inTaste = true ∧
    ([0, 1, 2, 3, 4].all fun j => (s.partOf 0 0).nodes.has j) = true ∧ (s.partOf 0 0).nodes.has (v 9) = false ∧
    ((s.node 0 0 0).ctr = 0 ∧ (s.node 0 0 1).ctr < 0xFFFF ∧ (s.node 0 0 2).ctr = 0xFFFF ∧ 0 < (s.node 0 0 1).ctr) ∧
    ((s.node 0 0 3).st = .ended ∧ (s.node 0 0 4).st ≠ .waiting ∧ (s.node 0 0 4).st ≠ .failed) ∧ (v 5 < 8 ∧ 8 ≤ v 6) ∧
    (v 7 % 128 = 0 ∧ v 8 % 128 ≠ 0) ∧ s.me.declared = none ∧ descOk descB = true ∧
    (s.readVirt { core := 0, rope := false, l1 := true, part := 0 } 0x400 128).toBool = true ∧
    (s.partOf 0 0).spawn ≠ (s.packet 0).spawn ∧
    ((s.partOf 0 0).nodes.get? 6 = some (s.node 0 0 6) ∧ unread (s.node 0 0 6) = true ∧ unread (s.node 0 0 1) = false ∧
      unplacedOf s 0 0 = none ∧ unplacedOf s 0 (v 9) = none ∧ (unplacedOf (updUnplaced s 0 fun t => t.set 5 {}) 0 5).isSome = true) ∧
    (match (s.updMem fun m => { m with poison := [16] }).readVirt { core := 0, rope := false, l1 := true, part := 0 } 0x400 128 with
      | .ok (_, bad, _) => bad
      | .error _ => false) = true := by
  refine ⟨rfl, rfl, rfl, rfl, rfl, by decide, by decide, by decide, by decide, rfl, by decide +kernel, by decide +kernel, by decide +kernel,
    ⟨rfl, by decide, by decide, rfl, rfl, by decide⟩, by decide +kernel⟩

/-- NEND with a helper, with an UNSET guard, with a command that runs, and with nothing left. -/
theorem wit_GraphResults_nend :
    let c : Core := { coreG [] with run := some run0 }
    let h : Core := { c with bar := { ctxs := ⟨[(0, ctxG []), (10, ctxG [])]⟩ } }
    let g : Core := { c with en := { matQ := [mq (.tmm 4#6 5#6 (md 3#3) eG) none] } }
    let q : Core := { c with en := { flight := [.copy (rawCopy 0#64 true)] } }
    (stC c).slot = 0 ∧ (stC h).here.helperMask ≠ 0 ∧ (stC c).here.helperMask = 0 ∧ unsetGuard (stC g).here = some 0 ∧
    unsetGuard (stC c).here = none ∧ run0.twin = false ∧ quiet (beginEnd (stC q)).here = false ∧ quiet (beginEnd (stC c)).here = true ∧
    run0.kind = .original ∧ run0.tasted = false ∧ ((stC c).node 0 0 0).twinCore = none := by
  refine ⟨rfl, by decide, by decide, by decide, by decide, rfl, by decide, by decide, rfl, rfl, rfl⟩

/-- A queued launch that can be handed out. -/
theorem wit_PassResults_handout :
    let x : Launch := { fn := 1, hseq := 1, packet := packetB }
    let s : State := { stG [] with mod := { power := .run, phase := .ready, launches := ⟨[(0, x)]⟩ } }
    s.mod.launches.entries.find? (fun e => e.2.st == .queued) = some (0, x) ∧ handoutOpen s = true ∧ (runningLaunches s).length < 4 ∧
    earlierLaunch s 0 = false := by
  refine ⟨rfl, by decide, by decide, by decide⟩

/-- A node that the pass dispatches to an idle core, with its image read. -/
theorem wit_PassResults_dispatch :
    let s := stL {} [(0, { desc := some descB, st := .ready })]
    ((s.die 0).levels.get 0 []).find? (strandedRun s 0) = none ∧
    (let e : PassE := ⟨0, 0, .taste⟩
     let u := s.updDie 0 fun d => { d with levels := ⟨[(0, [e])]⟩ }
     let t : State := { u with clusters := ⟨(List.range 64).map fun q => (q, { logical := [] })⟩ }
     ((t.die 0).levels.get 0 []).find? (strandedRun t 0) = some e) ∧
    (match passNext s 0 with
      | some (e, c, q) => e == ⟨0, 0, .original⟩ && c == 0 && q.isNone
      | none => false) = true ∧
    (s.die 0).claims = [] ∧
    (let v := (leavePass s 0 ⟨0, 0, .original⟩ 0 none).updDie 0 fun x => { x with claims := x.claims ++ [(⟨0, 0, .original⟩, 0, none)] }
     let far : State := { v with dies := v.dies.mapVals fun _ x => { x with tlb := {} } }
     (match readImage far 0 (far.packet 0).part (far.node 0 0 0).d with
      | .error (.wait _) => true
      | _ => false) = true) ∧
    (let v := (leavePass s 0 ⟨0, 0, .original⟩ 0 none).updDie 0 fun x => { x with claims := x.claims ++ [(⟨0, 0, .original⟩, 0, none)] }
     match readImage v 0 (v.packet 0).part (v.node 0 0 0).d with
      | .ok (m, tb, u) => (imageFault m tb 1 0).isNone && (u.node 0 0 0).saved.isNone && !tasted u 0 0 (u.node 0 0 0).d
      | .error _ => false) = true := by
  refine ⟨by decide, by decide +kernel, by decide +kernel, rfl, by decide +kernel, by decide +kernel⟩

/-- A tasted node at its retention; an arrival that waits; a node that is to be restarted on an idle core. -/
theorem wit_PassResults_events :
    let c : Core := { run := some { run0 with tasted := true } }
    let s0 := stL c [(0, { desc := some descB, st := .running, core := some 0 })]
    let s := s0.updPart 0 0 fun p => { p with tastes := ⟨[(0, {})]⟩, arrivals := [(0, 0, 0#16, ({} : Row))] }
    let n : Node := { desc := some descB, st := .running, home := 0 }
    let t := stL {} [(0, n)]
    (s.core 0).run = some { run0 with tasted := true } ∧ (s.partOf 0 0).tastes.get? 0 = some {} ∧ ({} : Taste).phase = .retain ∧
    (retainTiles s 0 0 (s.node 0 0 0).tiles).toBool = true ∧ (s.partOf 0 0).arrivals = (0, 0, 0#16, ({} : Row)) :: [] ∧
    (t.node 0 0 0).st = .running ∧ (t.node 0 0 0).core = none ∧ State.restartable n = true ∧ t.logicalNo 0 = some 0 ∧
    idle t 0 = true ∧ (t.roleEntry 0 0).toNat / 2 ^ 30 = n.d.role ∧ (t.roleEntry 0 0).toNat / 2 ^ 22 % 256 = n.stage ∧ n.d.flag 1 = false ∧
    ((s.node 0 0 0).desc.isSome = true ∧ genOk s 1#16 = false ∧ genOk s 0#16 = true) := by
  refine ⟨rfl, rfl, rfl, by decide +kernel, rfl, rfl, rfl, by decide, by decide, by decide, by decide +kernel, by decide, by decide +kernel,
    by decide⟩

/-- Twins with the same word and with two, one silent; a die that has finished its part. -/
theorem wit_PassResults_twins :
    let c : Word → Core := fun w => { run := some { run0 with twin := true, wire := 0x800C1000#32 }, wired := 0x800C1000#32, li := { twinOut := [.chan 5 0 w] } }
    let s0 := stL (c 7#64) [(0, { desc := some descB, st := .running, core := some 0, twinCore := some 1 })]
    let s := { s0 with cores := ⟨[(0, c 7#64), (1, c 7#64)]⟩ }
    let q := { s0 with cores := ⟨[(0, c 7#64), (1, {})]⟩ }
    let f := stL {} [(0, { desc := some descB, st := .ended })]
    let x : Launch := { fn := 1, hseq := 1, packet := packetB, st := .running, liveMask := 1#8 }
    twinsOf s 0 0 0 = some (0, 1) ∧ (s.core 0).li.twinOut = .chan 5 0 7#64 :: [] ∧ s.outDest 0 0 = some (3, 0) ∧
    (twinPair [.chan 5 0 7#64] [.chan 6 0 9#64, .chan 5 0 8#64] = some (.chan 5 0 7#64, .chan 5 0 8#64) ∧
      twinSame (.chan 5 0 7#64) (.chan 5 0 8#64) = false) ∧
    (twinPair (q.core 0).li.twinOut (q.core 1).li.twinOut = none ∧ ¬ ((q.core 0).li.twinOut = [] ∧ (q.core 1).li.twinOut = [])) ∧
    f.mod.launches.get? 0 = some x ∧ (reporters f x).contains 0 = true ∧ (f.partOf 0 0).reported = false ∧ x.reports.has 0 = false ∧
    unreadLeft f 0 = false ∧ finished f 0 0 = true ∧ (inRun f = true ∧ f.mod.phase = .ready ∧ (f.die 0).parts.has 0 = true) := by
  refine ⟨rfl, rfl, by decide, by decide, by decide, rfl, by decide, rfl, by decide, by decide, by decide, by decide⟩

/-- A cadence set of two members at 0x10000 with its last visit at sweep 3, one closed and one open with member 0 due. -/
def cadK (isOpen : Bool) (handed : Tab (Nat × Nat)) : CadSet :=
  { part := 0, base := 0x10000, m := 2, w := 4, cmax := 7, extrap := false, lo := 0#32, hi := 0#32, t := 3, isOpen := isOpen,
    due := if isOpen then [0] else [], handed := handed }
/-- A state with sets 0 (closed), 1 (open, member 0 not handed out), 2 (open, handed out), 3 (of another partition). -/
def stK (sel : BitVec 3) : State :=
  { stC { bar := { ctxs := ⟨[(0, { ctxG [(3, 3#64), (4, 4#64), (5, 5#64), (6, 6#64), (7, 1#64), (8, 2#64), (9, 15#64), (10, 16#64),
      (11, 0x100#64)] with cdSel := sel })]⟩ } } with
    dies := ⟨[(0, {
      tlb := ⟨[(0, page)]⟩
      sets := ⟨[(0, cadK false {}), (1, cadK true {}), (2, cadK true ⟨[(0, (0, 0))]⟩), (3, { cadK false {} with part := 1 })]⟩ })]⟩ }

/-- Sets of each kind selected, sweep numbers on each side of the next, members inside and at the end, pin words good and bad. -/
theorem wit_CadenceResults :
    let v : Nat → Nat := fun r => ((stK 0#3).me.rg r).toNat
    (∀ k, setOf (stK 3#3) 0 3 = some k → k.part ≠ (stK 3#3).partition 0) ∧ setOf (stK 4#3) 0 4 = none ∧
    setOf (stK 0#3) 0 0 = some (cadK false {}) ∧ (cadK false {}).part = (stK 0#3).partition 0 ∧ setOf (stK 1#3) 0 1 = some (cadK true {}) ∧
    (stK 0#3).inTaste = false ∧ (stC (tasteRun (coreG []))).inTaste = true ∧
    (v 3 ≤ 3 ∧ v 4 = 3 + 1 ∧ v 5 = 3 + 2 ∧ 3 + 2 < v 6) ∧
    (cadK true {}).due.find? (fun m => !(cadK true {}).handed.has m) = some 0 ∧ (∀ m ∈ (cadK true {}).due, (cadK true ⟨[(0, (0, 0))]⟩).handed.has m = true) ∧
    ((cadK true {}).m ≤ v 8 ∧ v 7 < (cadK true {}).m ∧ (cadK true {}).due.contains (v 7) = false ∧
      (cadK true {}).due.contains (v 0) = true ∧ (cadK true {}).posted.contains (v 0) = false ∧
      ({ cadK true {} with posted := [0] } : CadSet).posted.contains 0 = true) ∧
    (16 ≤ v 10 ∧ ¬ (16 ≤ v 9 ∨ 7 < v 9 % 8 ∨ (v 9 % 8 ≠ 0 ∧ v 9 < 8)) ∧ (v 3 % 8 ≠ 0 ∧ v 3 < 8)) := by
  refine ⟨?_, rfl, rfl, rfl, rfl, rfl, rfl, by decide, rfl, by decide, by decide, by decide⟩
  intro k h
  have e : setOf (stK 3#3) 0 3 = some { cadK false {} with part := 1 } := rfl
  rw [e] at h; cases h; decide

/-- Blocks of CDDEF: malformed, of no member, and one of a set that is defined. -/
theorem wit_CadenceResults_cddef :
    let s := stK 0#3
    let b : List Byte := leBytes 8 0x20000 ++ leBytes 4 1 ++ [3#8, 0#8] ++ List.replicate 50 0#8
    let u : List Byte := List.replicate 64 0#8
    readCadence (1#8 :: List.replicate 63 0#8) 0 = none ∧ (readCadence u 0).any (fun x => x.1.m == 0) = true ∧
    (readCadence b 0).any (fun x => x.1.m == 1) = true ∧ ((setOf s 0 1).any fun o => o.isOpen || o.part != s.partition s.cur) = true ∧
    ((setOf s 0 0).any fun o => o.isOpen || o.part != s.partition s.cur) = false ∧ s.me.declared = none ∧
    ((s.me.rg 11).toNat % 8 = 0 ∧ (s.me.rg 11).toNat + 64 ≤ 0xC0000) ∧ s.here.sp.readRace s.slot [(0x100, 64)] = none ∧
    s.here.sp.poisonIn 0x100 64 = none := by
  refine ⟨by decide +kernel, by decide +kernel, by decide +kernel, rfl, rfl, rfl, by decide, by decide, by decide⟩

/-- CDDEF of a set of one member whose page the die translates. -/
theorem wit_CadenceResults_define :
    (match readCadence (leBytes 8 0x20000 ++ leBytes 4 1 ++ [3#8, 0#8] ++ List.replicate 50 0#8) 0 with
      | some x => (match defineSet (undefine (stK 0#3) 0 4) { core := 0, rope := false, l1 := true, part := 0, cad := true } x.1 x.2 with
        | .ok (.ok _, _) => true
        | _ => false)
      | none => false) = true := by decide +kernel

/-- Cores that are idle, run a node, are sealed, watched or quarantined; numbers at the ends of their ranges; a score at each threshold. -/
theorem wit_ReliabilityResults :
    let s : State := {
      cores := ⟨[(0, { run := some run0 }), (1, {}), (2, { li := { isSealed := true } }),
        (9, coreG [(3, 9#64), (4, 10#64), (5, 2#64), (6, 3#64), (7, 0xFFFF#64), (8, 0x10000#64), (10, 8#64), (11, 7#64)])]⟩
      dies := ⟨[(0, { scores := ⟨[(3, { score := 1100, quar := true })]⟩ })]⟩
      cur := 9 }
    let v : Nat → Nat := fun r => (s.me.rg r).toNat
    (9 < v 4 ∧ v 3 ≤ 9 ∧ coreOf 0 (v 3) = s.cur) ∧ ((s.core 2).li.isSealed = true ∧ (s.core 1).li.isSealed = false ∧ (s.core 1).run = none ∧
      (s.core 0).run = some run0) ∧ ((s.scoreOf 3).quar = true ∧ (s.scoreOf 1).quar = false ∧ (s.die 0).scans.has 1 = false ∧
      quiet (s.core 1) = true ∧ claimed s 1 = false ∧
      claimed (s.updDie 0 fun x => { x with claims := [(⟨0, 0, .original⟩, 1, none)] }) 1 = true) ∧ (3 ≤ v 6 ∧ v 5 < 3 ∧ v 7 < 2 ^ 16 ∧ 2 ^ 16 ≤ v 8 ∧ 1024 ≤ v 7) ∧ s.logicalNo 1 = some 1 ∧
    (8 ≤ v 10 ∧ v 11 < 8 ∧ s.logicalCore 0 (v 11) = some 7 ∧ 2 ≤ v 5 ∧ v 0 < 2) := by decide

/-- A scan that a context of core 9 waits for, with a node of priority 6 and role 2 READY and no idle core of that role; a watched
service core; completions on each side of 2^20. -/
theorem wit_ReliabilityResults_scan :
    let n : Node := { desc := some descB, st := .ready }
    let s0 := stL {} [(0, n)]
    let d : Die := { s0.die 0 with
      scans := ⟨[(0, (9, 0))]⟩
      levels := ⟨[(6, [⟨0, 0, .original⟩])]⟩
      completions := 0x100000
      scores := ⟨[(9, { score := 512, watch := true })]⟩ }
    let s : State := { s0 with
      cores := ⟨[(9, { bar := { ctxs := ⟨[(0, { ctxG [] with held := some (.scanrun 3#6 4#6) })]⟩ } })]⟩
      dies := ⟨[(0, d)]⟩
      mod := { s0.mod with launches := {} } }
    (s.die 0).scans.get? (0 % 640) = some (9, 0) ∧ ((s.core 9).ctx 0).held = some (.scanrun 3#6 4#6) ∧
    ⟨0, 0, .original⟩ ∈ (s.die 0).levels.get 6 [] ∧ (s.node 0 0 0).d.role = roleOf s 0 ∧ (s.cluster 0).service = some 9 ∧
    ((s.scoreOf 9).watch = true ∧ (s.scoreOf 9).quar = false ∧ runningLaunches s = []) ∧ 2 ^ 20 ≤ (s.die 0).completions ∧
    (s0.die 0).completions < 2 ^ 20 ∧ scanNames 9 ((s.core 9).ctx 0) = some 0 ∧
    ((s.node 0 0 0).saved = none ∧ (let t : State := { s with
        cores := ⟨(List.range 8).map fun i => (i, { run := some run0 })⟩
        clusters := ⟨(List.range 63).map fun q => (q + 1, { logical := [] })⟩ }
      (idleCores t 0 (roleOf t 0) fun _ => false) = [])) ∧
    ((s.die 0).scores.keys.Nodup ∧ ∀ c ∈ (s.die 0).scores.keys, c < 640) := by
  refine ⟨rfl, rfl, by decide, by decide +kernel, rfl, by decide, by decide, by decide, by decide, ⟨rfl, by decide +kernel⟩, by decide, by decide⟩

/-- A map change that may be installed, one that may not, and one that drains; names of contexts for the debug unit. -/
theorem wit_ReliabilityResults_map :
    let m : Module := { map := { pending := true } }
    let s : State := { stG [(4, 0xB8#64), (5, 0xC1#64), (6, 0x00#64), (7, 0x1FFF#64), (8, 0x3FFF#64), (9, 31#64), (10, 0x2007#64)] with mod := m }
    let g : State := { s with mod := { map := { draining := some 0#16, drainFrom := 0 }, clock := 0x100000 } }
    let w : Nat → Nat := fun r => (s.me.rg r).toNat
    (s.mod.map.pending = true ∧ s.mod.map.draining = none ∧ runningLaunches s = []) ∧ (stG []).mod.map.pending = false ∧
    g.mod.map.draining = some 0#16 ∧ g.mod.map.drainFrom + 2 ^ 20 ≤ g.mod.clock ∧ genRemains g 0#16 = false ∧
    (w 4 < 256 ∧ w 4 % 16 < 10 ∧ w 4 / 16 < 12 ∧ w 4 % 16 ≠ corePhys s.cur) ∧ ¬ (w 5 / 16 < 12) ∧ ¬ (w 6 % 16 ≠ corePhys s.cur) ∧
    selector (s.me.rg 7) = none ∧ selector (s.me.rg 8) = some .pc ∧ selector (s.me.rg 9) = some (.g 31) ∧
    selector (s.me.rg 10) = some (.k 7) ∧ selector 0x1007#64 = some (.p 7) ∧ selector 0x3010#64 = some (.sys 0x010) ∧ (8#64 : Word).toNat % 4 = 0 ∧
    (6#64 : Word).toNat % 4 ≠ 0 := by
  refine ⟨by decide, rfl, rfl, by decide, by decide, by decide, by decide, by decide, rfl, rfl, rfl, rfl, rfl, rfl, by decide, by decide⟩

/-- A contexts' registers that DWRR writes and refuses. -/
theorem wit_ReliabilityResults_dwrr :
    (∃ q, sysWrite (coreG []) 0 0x010 true 8#64 = .ok q) ∧ sysWrite (coreG []) 0 0x010 true 6#64 = .badValue := ⟨⟨_, rfl⟩, rfl⟩

/-- A HEALTH message, number 1 of its channel, with a good CHECK, and the same with another CHECK; its length. -/
def healthMsg : List Byte := messageBytes 1 3 [] ++ List.replicate 496 0#8
/-- A slot write of each kind: in turn, again, ahead, with a bad CHECK, malformed; PARK. -/
theorem wit_HostMessages_slot :
    let s : State := { stG [] with mod := { power := .run, phase := .ready, chans := ⟨[(0, { ready := true, hasArea := true })]⟩ } }
    let u : State := { stG [] with mod := { power := .run, phase := .ready, chans := ⟨[(0, { ready := true, lastRx := 1 })]⟩ } }
    let f : State := { stG [] with mod := { power := .park } }
    (s.hasRoom 0 = true ∧ ({ stG [] with mod := { chans := ⟨[(0, { waiting := List.replicate 64 { ty := 0x84, payload := [] } })]⟩ } } : State).hasRoom 0 = false) ∧
    hostCounts f = true ∧ hostCounts s = false ∧ s.mod.power ≠ .off ∧ s.mod.phase ≠ .romOnly ∧ healthMsg.length = 512 ∧
    (s.chan 0).ready = true ∧ ((stG []).chan 0).ready = false ∧ field healthMsg 0 4 = 1 ∧ nextSeq (s.chan 0).lastRx = 1 ∧
    (field healthMsg 0 4 ≠ nextSeq (u.chan 0).lastRx ∧ field healthMsg 0 4 ≤ (u.chan 0).lastRx) ∧
    ((s.chan 0).lastRx < 2 ∧ 2 ≠ nextSeq (s.chan 0).lastRx) ∧ checkOk healthMsg = true ∧ formOk healthMsg = true ∧
    checkOk (healthMsg.set 12 0x55#8) = false ∧ formOk (messageBytes 1 9 []) = false ∧ checkOk (messageBytes 1 9 []) = true := by
  refine ⟨by decide, rfl, rfl, by decide, by decide, by decide +kernel, rfl, rfl, by decide +kernel, rfl, by decide +kernel, by decide,
    by decide +kernel, by decide +kernel, by decide +kernel, by decide +kernel, by decide +kernel⟩

/-- Messages that have been taken, a launch that is resident and one that is refused; a message that waits, with credit and without. -/
theorem wit_HostMessages_taken :
    let sync : List Byte := messageBytes 0 2 (leBytes 8 0x1000 ++ leBytes 8 3 ++ leBytes 8 0x40 ++ leBytes 8 0)
    let c : Chan := { ready := true, hasArea := true, taken := [⟨1, 1, packetB, 4⟩, ⟨0, 2, sync, 0⟩, ⟨2, 3, [], 0⟩, ⟨3, 4, leBytes 2 17 ++ leBytes 2 7, 0⟩],
                      waiting := [{ ty := 0x84, payload := [] }] }
    let s : State := { stG [] with mod := { power := .run, phase := .ready, chans := ⟨[(0, c)]⟩ } }
    let k := s.chan 0
    (k.taken.find? fun m => m.ty == 1 && m.seq == 1 && m.payload == packetB).isSome = true ∧ s.refusal 0 packetB = none ∧
    s.refusal 1 packetB = some 4 ∧ (k.taken.find? fun m => m.ty == 2 && m.payload == sync).isSome = true ∧ syncOk sync = true ∧
    syncOk healthMsg = false ∧ (k.taken.find? fun m => m.ty == 3).isSome = true ∧
    (k.taken.find? fun m => m.ty == 4 && field m.payload 0 2 == 17 && field m.payload 2 2 == 7).isSome = true ∧
    k.waiting = { ty := 0x84, payload := [] } :: [] ∧ k.hasArea = true ∧ seqDist k.hackLast (nextSeq k.lastTx) ≤ 2 ^ k.evLog ∧
    2 ^ 3 < seqDist 0 (nextSeq 8) ∧ ((stG []).chan 0).waiting = [] ∧ ((stG []).chan 0).hasArea = false ∧
    (earlierLaunch s 4 = false ∧ earlierLaunch s 5 = true ∧ s.mod.phase ≠ .romOnly ∧ k.slots = {} ∧ s.mod.launches.keys.Nodup) := by
  refine ⟨by decide +kernel, by decide +kernel, by decide +kernel, by decide +kernel, by decide +kernel, by decide +kernel, rfl, by decide +kernel,
    rfl, rfl, by decide, by decide, rfl, rfl, by decide⟩

/-- A launch that has ended and whose message a SYNC's FROM covers; a function with 64 messages that wait. -/
theorem wit_HostMessages_ended :
    let x : Launch := { fn := 0, hseq := 1, packet := packetB, st := .done, finalSeq := 7 }
    let s : State := { stG [] with mod := {
      power := .run
      phase := .ready
      launches := ⟨[(0, x)]⟩
      chans := ⟨[(0, { waiting := List.replicate 64 { ty := 0x84, payload := [] } })]⟩ } }
    s.mod.launches.get? 0 = some x ∧ x.fabric = none ∧ x.finalSeq ≠ 0 ∧ x.finalSeq = field (leBytes 24 0 ++ leBytes 4 7) 24 4 ∧
    64 ≤ ((s.chan 0).waiting.filter fun m => m.seq.isNone).length ∧
    -- a message that a SYNC has sent again, behind which HACK has moved on
    (let c : Chan := { ready := true, hasArea := true, lastTx := 9, hackLast := 7, waiting := [{ ty := 0x84, payload := [], seq := some 3 }] }
     seqDist c.hackLast (nextSeq c.lastTx) < seqDist c.hackLast 3 ∧ c.slots = {}) ∧
    -- no credit
    (let c : Chan := { evLog := 3, lastTx := 9, hackLast := 1 }
     2 ^ c.evLog < seqDist c.hackLast (nextSeq c.lastTx) ∧ 2 ^ 31 ≤ seqDist c.lastTx c.hackLast) := by
  refine ⟨rfl, rfl, by decide, by decide +kernel, by decide, by decide, by decide⟩

/-- A boot with an image that the outside says is good and one without; a die that has failed and one that has not; power states. -/
theorem wit_PowerAndBoot :
    let b : Bool → BootInput := fun ok => { image0 := ok, image1 := false, version := 0, badStacks := [], badLinks := [], badIoLinks := [], badGroups := [], temps := [], corrupt := [] }
    let on : Power → State := fun p => { stG [] with mod := { power := p, phase := .ready } }
    State.reset.mod.phase = .boot ∧ (stG []).mod.phase ≠ .boot ∧ bootImage State.reset (b true) 0 = true ∧
    (bootImage State.reset (b false) 0 = false ∧ bootImage State.reset (b false) 1 = false) ∧ ((stG []).die 7).failed = false ∧
    (({ stG [] with dies := ⟨[(0, { failed := true })]⟩ } : State).die 0).failed = true ∧ inRun State.reset = false ∧
    (inRun (stG []) = true ∧ (stG []).mod.drives ≠ 0#2) ∧ ({ mod := { drives := 0#2 } } : State).mod.drives = 0#2 ∧ (stG []).mod.power ≠ .off ∧
    ((on .run).mod.power = .run ∧ (on .run).mod.phase = .ready ∧ runningLaunches (on .parkPending) = [] ∧ (on .sleepPending).mod.wantRun = false) ∧
    (∀ d ∈ (stG []).dies.entries, d.2.scores.entries = [] ∧ d.2.sets.entries = []) ∧ (on .sleep).mod.waking = [] ∧
    ({ mod := { waking := [(0, 0)] } } : State).mod.waking ≠ [] ∧
    (∀ l, ({ lowest := some 300 } : Wear).lowest = some l → l + 40 ≤ 340 ∧ 339 < l + 40) := by
  refine ⟨rfl, by decide, by decide, by decide, rfl, rfl, rfl, by decide, rfl, by decide, by decide, by decide, rfl, by decide, ?_⟩
  intro l h; cases h; decide

/-- A launch that runs while an entry is pending. -/
theorem wit_PowerAndBoot_pending :
    let s : State := { stL {} [] with mod := { (stL {} []).mod with power := .parkPending } }
    s.mod.power = .parkPending ∧ parkReady s = false ∧ runningLaunches s ≠ [] := by
  refine ⟨rfl, by decide, by decide⟩

/-- A mailbox that answers, one that counts; sessions on the physical and on a virtual function; security states. Whether a token or an
image verifies is an open function of Config, so both clauses stay open for each. -/
theorem wit_SecurityResults :
    let s : State := { stG [] with mod := { power := .run, phase := .ready, spdm := ⟨[(0, { session := true }), (16, { session := true })]⟩ } }
    hostCounts { s with mod := { power := .sleep } } = true ∧ hostCounts s = false ∧ s.mod.power ≠ .off ∧ s.mod.phase = .ready ∧
    (s.mod.spdm.get 16 {}).session = true ∧ (s.mod.spdm.get 0 {}).session = true ∧ (s.mod.spdm.get 1 {}).session = false ∧
    allAbsent s = true ∧ s.mod.sec = .secure ∧ s.mod.dbg ≠ .invasive ∧ s.residents 0 = 0 ∧ s.mod.mem.keys.get 0 .absent = .absent ∧
    (∀ t, tokenOk s t = true ∨ tokenOk s t = false) ∧ (stL {} []).residents 1 ≠ 0 ∧
    ((∀ img, imageOk s img = true ∨ imageOk s img = false) ∧ ({ s with mod := { s.mod with phase := .romOnly } } : State).mod.phase = .romOnly ∧
      ({ s with mod := { s.mod with dbg := .observe } } : State).mod.dbg ≠ .none) := by
  refine ⟨rfl, rfl, by decide, rfl, rfl, rfl, rfl, rfl, rfl, by decide, by decide, rfl, fun t => by cases tokenOk _ t <;> simp, by decide,
    fun t => by cases imageOk _ t <;> simp, rfl, by decide⟩

/-- A peer with a sweep to come and without; a page exported to a partition and not; a launch record in turn, ahead and again. -/
theorem wit_FabricResults :
    let rec_ : Nat → List Byte := fun f => packetB ++ leBytes 8 f ++ leBytes 8 0x40 ++ List.replicate 48 0#8
    let x : Launch := { fn := 0, hseq := 0, packet := packetB, fabric := some (5, 1, 0x40) }
    let s : State := { stG [] with mod := {
      power := .run
      phase := .ready
      exported := [(0, 1)]
      launches := ⟨[(0, x)]⟩
      peers := ⟨[(5, { sweep := [0], fseq := ⟨[(0, 1)]⟩ })]⟩ } }
    (peer s 5).sweep ≠ [] ∧ (peer s 6).sweep = [] ∧ (peer s 5).sweep.contains 0 = true ∧ (peer s 5).sweep.contains 1 = false ∧
    exportedTo s 0 0x10000 65536 = true ∧ exportedTo s 0 0xFFFF 2 = false ∧ s.mod.mem.keys.get 0 .absent ≠ .locked ∧
    State.violated s.mod.mem 0 (State.sectors 0x10000 64) = none ∧ (rec_ 2).length = 128 ∧ field (rec_ 2) 64 4 = (peer s 5).fseq.get 0 0 + 1 ∧
    (peer s 5).fseq.get 0 0 + 1 < field (rec_ 3) 64 4 ∧ field (rec_ 1) 64 4 ≤ (peer s 5).fseq.get 0 0 ∧ fabricOf s 5 0 1 = some (0, x) ∧
    x.fabric = some (5, 1, 0x40) ∧
    ((s.mod.power ≠ .sleep ∧ s.mod.power ≠ .off) ∧ (inRun s = true ∧ s.mod.phase = .ready) ∧ s.pathUp 5 = true ∧
      (let d := s.updMod fun m => { m with portsDown := List.range 40 }; d.pathUp 5 = false)) := by
  refine ⟨by decide, rfl, by decide, by decide, by decide +kernel, by decide +kernel, by decide, by decide +kernel, by decide +kernel,
    by decide +kernel, by decide +kernel, by decide +kernel, by decide, rfl, by decide⟩

/-- Accesses to the page that `wit_FabricResults` exports: a read, a whole sector written, an addition, an f32 reduction, one to core 7 of the
first cluster; the sector as it is, and with a damaged tag under a key. -/
theorem wit_FabricResults_access :
    let s : State := { stG [] with mod := { power := .run, phase := .ready, exported := [(0, 1)] } }
    let k := s.updMem fun m => { m with keys := ⟨[(0, .active)]⟩, keyNo := ⟨[(0, 1)]⟩, badTag := [0x400] }
    let accs : List RemoteAcc := [.read 64, .write (List.replicate 64 1#8), .atomicAdd 1#64, .reduce 1 1 1 0#64 (leBytes 4 0x3F800000)]
    (accs.all fun a => exportedTo s 0 0x10000 (accBytes a)) = true ∧ exportedTo s 0 0x10000 (accBytes (.toCore 0 0 7)) = false ∧
    (accs.all fun a => (State.violated s.mod.mem 0 (State.sectors 0x10000 (accBytes a))).isNone) = true ∧ s.mod.mem.keyAt 0x400 = 0 ∧
    (0x10000 % 64 = 0 ∧ (List.replicate 64 1#8).length % 64 = 0) ∧
    (k.mod.mem.keys.get 0 .absent ≠ .locked ∧ State.violated k.mod.mem 0 (State.sectors 0x10000 64) = some 0x400) ∧
    (s.mod.live.getLsbD 0 = true ∧ 7 < (s.cluster 0).logical.length ∧ ¬ 8 < (s.cluster 0).logical.length) := by
  refine ⟨by decide +kernel, by decide, by decide +kernel, by decide, by decide, by decide +kernel, by decide⟩

/-- The one port of a path fails; an increase is owed; a sector that is damaged. -/
theorem wit_FabricResults_path :
    let s : State := { stG [] with mod := {
      power := .run
      phase := .ready
      portsDown := (List.range 35)
      peers := ⟨[(5, {}), (6, { sweep := [0], owed := true })]⟩ } }
    let u := s.updMod fun m => { m with portsDown := m.portsDown ++ [35] }
    5 ∈ knownPeers s ∧ s.pathUp 5 = true ∧ u.pathUp 5 = false ∧ (peer s 5).sweep = [] ∧ (peer s 6).sweep ≠ [] ∧
    ((peer s 6).owed = true ∧ (peer s 6).sweep.erase 0 = []) ∧ (peer s 5).owed = false ∧
    (∀ q ∈ State.sectors 0x10000 64, s.mod.mem.mute.contains q = false ∧ State.eccOf s.mod.mem q = .clean) := by
  refine ⟨by decide, by decide, by decide, rfl, by decide, by decide, rfl, by decide⟩

/-- A copy in progress with peer 5, a collective that has read of it, and a peer whose BOOTS has been seen. -/
theorem wit_FabricResults_progress :
    let e : TlbE := ⟨0x8000000000000000#64, 0xC000000160000000#64⟩
    let m := { rawCopy 0#64 true with sh := ⟨[(0, 0x100#64), (1, 0x8000000000000200#64), (2, 64#64), (5, 0x100010001#64)]⟩, peers := [5] }
    let q : Coll := { tid := 2, owner := 0, slot := 0, instr := .clbar 1#6 2#6, block := List.replicate 64 0#8, fmode := 0#64, row := {},
                      gen := 0#16, seq := 0, started := true, peers := [5] }
    let s : State := { stC { coreG [] with en := { flight := [.copy m, .coll q], ropeTlb := [e] } } with
      dies := ⟨[(0, { tlb := ⟨[(0, e)]⟩ })]⟩
      mod := { power := .run, phase := .ready, peers := ⟨[(5, { boots := some 1 })]⟩ } }
    (s.core 0).en.flight[0]? = some (.copy m) ∧ m.started = true ∧ m.status = none ∧ 5 ∈ copyPeers s 0 m ∧
    (s.core 0).en.flight[1]? = some (.coll q) ∧ q.started = true ∧ q.status = none ∧ namesAny s 0 q [5] = true ∧ namesAny s 0 { q with peers := [] } [5] = false ∧
    (peer s 5).boots = some 1 ∧ (peer s 5).sweep = [] ∧ (e.remote = true ∧ e.moda = 5) := by
  refine ⟨rfl, rfl, rfl, by decide +kernel, rfl, rfl, rfl, by decide +kernel, by decide +kernel, rfl, rfl, by decide⟩

/-- The state after reset has its memories in canonical form, and so has one whose module has written and whose core holds a program. -/
theorem wit_StepKeepsMemories : ∃ s t : State, s.MemoriesWf ∧ step s = .next t := by
  refine ⟨State.reset, _, ?_, rfl⟩
  refine ⟨rfl, ?_, ?_, ?_⟩ <;> intros <;> simp_all [State.reset]

end Sys2Proof.Tests
end

section
/-!
SUPPORT. The scalar results (R77, R79): what an instruction of one or two scalar sources does once its channels are ready, and the
results of the ALU and MULDIV groups as their rows state them.
-/
namespace Sys2Proof.Machine

/-! ### Scalar instructions whose channels are ready (R75) -/

/-- Once its channels are ready, an instruction that is D ← f(A, B) reads A, then B, puts f of the two values in D and goes on. -/
theorem exec_of_scalar2 {i : Instr} {s : State} {d a b : Fld} {f : Word → Word → Word} {r : Word}
    (hexec : exec i s = .next (s.scalar2 d a b f)) (hready : s.chanCheck [a, b] [d] = none)
    (hr : f (s.readTwo a b).1 (s.readTwo a b).2.1 = r) :
    exec i s = .next (((s.readTwo a b).2.2.putScalar d r).advance 8) := by
  subst hr
  rw [hexec, State.scalar2, hready]
  rfl

/-- Once its channels are ready, an instruction that is D ← f(A) reads A, puts f of its value in D and goes on. -/
theorem exec_of_scalar1 {i : Instr} {s : State} {len : Nat} {d a : Fld} {f : Word → Word} {r : Word}
    (hexec : exec i s = .next (s.scalar1 len d a f)) (hready : s.chanCheck [a] [d] = none) (hr : f (s.getScalar a).1 = r) :
    exec i s = .next (((s.getScalar a).2.putScalar d r).advance len) := by
  subst hr
  rw [hexec, State.scalar1, hready]

/-! ### Results of the ALU group (R77) -/

/-- A count of 64 or more shifts every bit out, so the shift by the whole register needs no case of its own. -/
theorem shlWord_eq (x y : Word) : shlWord x y = x <<< y := by
  unfold shlWord
  split
  · rfl
  · exact (BitVec.shiftLeft_eq_zero (by omega)).symm

theorem shrWord_eq (x y : Word) : shrWord x y = x >>> y := by
  unfold shrWord
  split
  · rfl
  · exact (BitVec.ushiftRight_eq_zero (by omega)).symm

/-- MIN and MINU choose a word; the chosen word stands for the smaller of the two numbers, in whichever reading `val` of words. -/
theorem ite_le_eq_min {α : Type} [LinearOrder α] {val : Word → α} {enc : α → Word} (henc : ∀ w, enc (val w) = w) (x y : Word) :
    (if val x ≤ val y then x else y) = enc (min (val x) (val y)) := by
  rw [min_def, apply_ite enc, henc, henc]

/-- The same of MAX and MAXU and the larger number. -/
theorem ite_le_eq_max {α : Type} [LinearOrder α] {val : Word → α} {enc : α → Word} (henc : ∀ w, enc (val w) = w) (x y : Word) :
    (if val y ≤ val x then x else y) = enc (max (val x) (val y)) := by
  rw [max_comm, max_def, apply_ite enc, henc, henc]

/-- ABS negates modulo 2^64, which leaves −2^63 as the word of its magnitude 2^63. -/
theorem ite_neg_eq_natAbs (x : Word) : (if x.toInt < 0 then 0#64 - x else x) = BitVec.ofNat 64 x.toInt.natAbs := by
  rw [← BitVec.ofInt_natCast 64 x.toInt.natAbs]
  split
  case isTrue hneg => rw [Int.ofNat_natAbs_of_nonpos hneg.le, BitVec.ofInt_neg, BitVec.ofInt_toInt, BitVec.zero_sub]
  case isFalse hpos => rw [Int.natAbs_of_nonneg (by omega), BitVec.ofInt_toInt]

/-! ### Results of the MULDIV group (R79) -/

/-- The high half of a 128-bit word is its signed value divided by 2^64 and rounded down. -/
theorem ofInt_div_eq_highHalf (p : BitVec 128) : BitVec.ofInt 64 (p.toInt / 2 ^ 64) = p.extractLsb' 64 64 := by
  apply BitVec.eq_of_toNat_eq
  rw [BitVec.extractLsb'_toNat, BitVec.toNat_ofInt, BitVec.toInt_eq_toNat_cond, Nat.shiftRight_eq_div_pow]
  omega

/-- The signed product of two words fits in 128 bits. -/
theorem toInt_signExtend_mul (x y : Word) : (x.signExtend 128 * y.signExtend 128).toInt = x.toInt * y.toInt := by
  have hle := BitVec.toInt_mul_toInt_le (x := x) (y := y)
  have hge := BitVec.le_toInt_mul_toInt (x := x) (y := y)
  rw [BitVec.toInt_mul, BitVec.toInt_signExtend_of_le (by decide), BitVec.toInt_signExtend_of_le (by decide)]
  exact Int.bmod_eq_of_le (by omega) (by omega)

theorem mulh_eq_highHalf (x y : Word) :
    BitVec.ofInt 64 (x.toInt * y.toInt / 2 ^ 64) = (x.signExtend 128 * y.signExtend 128).extractLsb' 64 64 := by
  rw [← toInt_signExtend_mul, ofInt_div_eq_highHalf]

/-- The unsigned product of two words fits in 128 bits. -/
theorem toNat_setWidth_mul (x y : Word) : (x.setWidth 128 * y.setWidth 128).toNat = x.toNat * y.toNat := by
  have hlt : x.toNat * y.toNat < 2 ^ 64 * 2 ^ 64 := Nat.mul_lt_mul'' x.isLt y.isLt
  rw [BitVec.toNat_mul, BitVec.toNat_setWidth_of_le (by decide), BitVec.toNat_setWidth_of_le (by decide)]
  exact Nat.mod_eq_of_lt hlt

theorem mulhu_eq_highHalf (x y : Word) :
    BitVec.ofNat 64 (x.toNat * y.toNat / 2 ^ 64) = (x.setWidth 128 * y.setWidth 128).extractLsb' 64 64 := by
  apply BitVec.eq_of_toNat_eq
  rw [BitVec.extractLsb'_toNat, toNat_setWidth_mul, Nat.shiftRight_eq_div_pow, BitVec.toNat_ofNat]

/-- The quotient wraps to 64 bits, so −2^63 by −1 gives −2^63 without a case of its own. -/
theorem divWord_eq (x y : Word) : divWord x y = if y = 0#64 then -1#64 else x.sdiv y := by
  have hquot : BitVec.ofInt 64 (x.toInt.tdiv y.toInt) = x.sdiv y :=
    BitVec.eq_of_toInt_eq (by rw [BitVec.toInt_ofInt, BitVec.toInt_sdiv])
  rw [divWord, hquot, BitVec.neg_one_eq_allOnes]

theorem remWord_eq (x y : Word) : remWord x y = if y = 0#64 then x else x.srem y := by
  rw [remWord, ← BitVec.toInt_srem, BitVec.ofInt_toInt]

theorem divuWord_eq (x y : Word) : divuWord x y = if y = 0#64 then -1#64 else x / y := by
  rw [divuWord, ← BitVec.udiv_def, BitVec.neg_one_eq_allOnes]

theorem remuWord_eq (x y : Word) : remuWord x y = if y = 0#64 then x else x % y := by
  rw [remuWord, ← BitVec.umod_def]

/-! ### The statements -/

/-- Settles O13: each row's encoding is its entry of the field table, and each arm is a scalar instruction whose function is the row's
result. -/
theorem aluResults : Obligations.AluResults := by
  intro s d a b c hready x y u
  have hsigned : ∀ w : Word, BitVec.ofInt 64 w.toInt = w := fun _ => BitVec.ofInt_toInt
  have hunsigned : ∀ w : Word, BitVec.ofNat 64 w.toNat = w := fun w => by rw [BitVec.ofNat_toNat, BitVec.setWidth_eq]
  refine ⟨?fields, rfl, rfl, by decide, ?add, ?sub, ?and, ?or, ?xor, ?andn, ?shl, ?shr, ?sar, ?rol, ?ror, ?min, ?max, ?minu, ?maxu,
    ?sel, ?abs⟩
  case fields =>
    simp only [List.forall_mem_cons]
    exact ⟨rfl, rfl, rfl, rfl, rfl, rfl, rfl, rfl, rfl, rfl, rfl, rfl, rfl, rfl, rfl, List.forall_mem_nil _⟩
  case add | sub | and | or | xor | andn | sar | rol | ror | sel => exact exec_of_scalar2 rfl hready rfl
  case shl => exact exec_of_scalar2 rfl hready (shlWord_eq x y)
  case shr => exact exec_of_scalar2 rfl hready (shrWord_eq x y)
  case min => exact exec_of_scalar2 rfl hready (ite_le_eq_min hsigned x y)
  case max => exact exec_of_scalar2 rfl hready (ite_le_eq_max hsigned x y)
  case minu => exact exec_of_scalar2 rfl hready (ite_le_eq_min hunsigned x y)
  case maxu => exact exec_of_scalar2 rfl hready (ite_le_eq_max hunsigned x y)
  case abs => exact fun hone => exec_of_scalar1 rfl hone (ite_neg_eq_natAbs x)

/-- Settles O14: each row's encoding is its entry of the field table, and each arm is a scalar instruction whose function is the row's
result for every pair of words. -/
theorem mulDivResults : Obligations.MulDivResults := by
  intro s d a b hready x y u
  refine ⟨?fields, ?mul, ?mulh, ?mulhu, ?div, ?divu, ?rem, ?remu⟩
  case fields =>
    simp only [List.forall_mem_cons]
    exact ⟨rfl, rfl, rfl, rfl, rfl, rfl, rfl, List.forall_mem_nil _⟩
  case mul => exact exec_of_scalar2 rfl hready rfl
  case mulh => exact exec_of_scalar2 rfl hready (mulh_eq_highHalf x y)
  case mulhu => exact exec_of_scalar2 rfl hready (mulhu_eq_highHalf x y)
  case div => exact exec_of_scalar2 rfl hready (divWord_eq x y)
  case divu => exact exec_of_scalar2 rfl hready (divuWord_eq x y)
  case rem => exact exec_of_scalar2 rfl hready (remWord_eq x y)
  case remu => exact exec_of_scalar2 rfl hready (remuWord_eq x y)

end Sys2Proof.Machine
end

section
/-!
SUPPORT. The return of a trap handler (R93) and the transfers of control (R33, R99, R100): what an update of the context whose turn
it is leaves outside it, and what ERET, LOOP and an indirect jump do in each of their cases.
-/
namespace Sys2Proof.Machine

/-! ### The frame of an update of one context -/

/-- An update of the context whose turn it is changes nothing outside that context. -/
theorem State.sameOutsideCtx_updMe (s : State) (f : Ctx → Ctx) : s.SameOutsideCtx (s.updMe f) := by
  refine ⟨⟨fun j hj => s.core_updMe f j hj, rfl, rfl, rfl, rfl, rfl, rfl, rfl⟩, fun k hk => ?_, ?_⟩
  · rw [State.here_updMe, Core.ctx_updCtx, if_neg hk]
  · rw [State.here_updMe]
    rfl

/-- ERET's return is an update of the context alone (R93). -/
theorem State.sameOutsideCtx_trapReturn (s : State) (t : Word) : s.SameOutsideCtx (s.trapReturn t) := s.sameOutsideCtx_updMe _

@[simp] theorem State.me_trapReturn (s : State) (t : Word) :
    (s.trapReturn t).me = { s.me with tvec := t, pc := s.me.epc, wait := none, held := none, heldOn := none, declared := none } :=
  s.me_updMe _

/-! ### ERET (R93) -/

theorem execEret_levelU {s : State} (a : Fld) (hlevel : s.isService s.cur = false) :
    execEret a s = .next (s.takeTrap .priv s.bytesHere) := by
  simp [execEret, hlevel]

theorem execEret_misaligned {s : State} {a : Fld} (hlevel : s.isService s.cur = true) (ha : (s.me.rg a.toNat).toNat % 4 ≠ 0) :
    execEret a s = .next (s.takeTrap .illegal (s.me.rg a.toNat)) := by
  simp [execEret, hlevel, ha]

theorem execEret_aligned {s : State} {a : Fld} (hlevel : s.isService s.cur = true) (ha : (s.me.rg a.toNat).toNat % 4 = 0) :
    execEret a s = .next (s.trapReturn (s.me.rg a.toNat)) := by
  simp [execEret, hlevel, ha]

/-! ### Branches and indirect jumps (R33, R99, R100) -/

/-- A branch's offset counts words of four bytes and is sign-extended (R33). -/
theorem target_eq {n : Nat} (s : State) (off : BitVec n) : target s off = s.me.pc + off.signExtend 64 * 4#64 := rfl

theorem execLoop_taken {s : State} {d : Fld} (off : BitVec 25) (hd : s.me.rg d.toNat ≠ 1#64) :
    execLoop d off s = .next ((s.updMe (·.wg d.toNat (s.me.rg d.toNat - 1#64))).jump (target s off)) := by
  have hcount : s.me.rg d.toNat - 1#64 ≠ 0#64 := sub_ne_zero.mpr hd
  simp only [execLoop, if_pos hcount]

theorem execLoop_done {s : State} {d : Fld} (off : BitVec 25) (hd : s.me.rg d.toNat = 1#64) :
    execLoop d off s = .next ((s.updMe (·.wg d.toNat 0#64)).advance 8) := by
  have hcount : s.me.rg d.toNat - 1#64 = 0#64 := sub_eq_zero.mpr hd
  simp only [execLoop, hcount, ne_eq, not_true_eq_false, if_false]

/-- An instruction that is an indirect jump traps ALIGN at a target whose bits [1:0] are set (R100). -/
theorem exec_of_jumpTo_misaligned {i : Instr} {s : State} {t : Word} {link : Bool} (hexec : exec i s = .next (jumpTo s t link))
    (ht : t.toNat % 4 ≠ 0) : exec i s = .next (s.takeTrap .align t) := by
  rw [hexec, jumpTo, if_pos ht]

/-- At any other target it links, where it has a link, and goes there (R100). -/
theorem exec_of_jumpTo_aligned {i : Instr} {s : State} {t : Word} {link : Bool} (hexec : exec i s = .next (jumpTo s t link))
    (ht : t.toNat % 4 = 0) : exec i s = .next ((if link then s.updMe (·.wg 31 (s.me.pc + 8#64)) else s).jump t) := by
  rw [hexec, jumpTo, if_neg (not_not.mpr ht)]

/-! ### The statements -/

/-- Settles O10: ERET's three cases, and the return as an update of its context alone. -/
theorem eretReturns : Obligations.EretReturns := by
  intro s a
  refine ⟨rfl, execEret_misaligned, fun hlevel ha => ?returns, execEret_levelU a⟩
  case returns =>
    exact ⟨s.trapReturn (s.me.rg a.toNat), execEret_aligned hlevel ha, s.sameOutsideCtx_trapReturn _, s.me_trapReturn _⟩

/-- Settles O27: LOOP's two cases, and the two cases of the indirect jump for each instruction that makes one. -/
theorem branches : Obligations.Branches := by
  intro s d a off tgt
  have htgt : tgt = target s off := (target_eq s off).symm
  have hjmpr : exec (.jmpr a) s = .next (jumpTo s (s.me.rg a.toNat) false) := rfl
  have hcallr : exec (.callr a) s = .next (jumpTo s (s.me.rg a.toNat) true) := rfl
  have hret : exec .ret s = .next (jumpTo s (s.me.rg 31) false) := rfl
  rw [htgt]
  refine ⟨rfl, rfl, rfl, rfl, rfl, fun _ => execLoop_taken off, fun _ => execLoop_done off, ?align, ?jmprCallr, ?ret⟩
  case align =>
    simp only [List.forall_mem_cons]
    exact ⟨exec_of_jumpTo_misaligned hjmpr, exec_of_jumpTo_misaligned hcallr, exec_of_jumpTo_misaligned hret, List.forall_mem_nil _⟩
  case jmprCallr => exact fun ha => ⟨exec_of_jumpTo_aligned hjmpr ha, exec_of_jumpTo_aligned hcallr ha⟩
  case ret => exact exec_of_jumpTo_aligned hret

end Sys2Proof.Machine
end
